-- ==== Sys2Proof/Word.lean ====
section
/-! DEFINITION. The word types of the LK6: bytes, and the widths of its counters. -/

namespace Sys2Proof

/-- One byte of exchange memory, or of a link transfer. -/
abbrev Byte := BitVec 8

/-- A 16-bit count (scan count, next-sequence count, lost count, update count). -/
abbrev Half := BitVec 16

/-- A 32-bit count (the clock, the Pulse Unit's free count). -/
abbrev Word := BitVec 32

/-- The sixteen bytes of a card identity; byte k stands at bits 8k to 8k+7. -/
abbrev Identity := BitVec 128

end Sys2Proof
end

