-- ==== Sys2Proof/Syntax.lean ====
section
/-! DEFINITION. The commands of the LK6: one constructor for each row of the table of operations and events, with its
operands, and the codes that name states and kinds in them. -/

namespace Sys2Proof

/-- Operating states (R32, Table 3-1). -/
inductive OpState
  | init | unconfigured | starting | run | parking | park
  deriving DecidableEq, Repr

/-- Causes of a restart (R55). -/
inductive Cause
  | reset | supply | request
  deriving DecidableEq, Repr

/-- Activities (Table 8-3). -/
inductive Activity
  | rest | available | work | driving
  deriving DecidableEq, Repr

/-- The two crew seats (8.4). -/
inductive SeatId
  | one | two
  deriving DecidableEq, Repr

/-- What the Accounting Unit and the State Controller submit to the Journal (Table 9-1). The clock stamp and the
sequence number are the Journal's. -/
inductive Submission
  | powerOn
  | restart (cause : Cause) (was : OpState)
  | activity (seat : SeatId) (before after : Activity)
  | cardIn (seat : SeatId) (identity : Identity) (cdt ddt : BitVec 24) (split : Bool) (initial : Activity)
  | cardOut (seat : SeatId) (identity : Identity) (cdt ddt : BitVec 24) (split : Bool)
  | swap (seat : SeatId) (identity : Identity)
  | breakTaken (seat : SeatId) (full : Bool) (cdt : Word)
  | dailyRest (seat : SeatId) (cdt ddt : Word)
  | overrun (daily : Bool)
  | noCardMoving (ends : Bool)
  | speedLost (ends : Bool)
  | timeSet (oldClock : Word) (oldValid : Bool) (newClock : Word)
  deriving DecidableEq, Repr

/-- What the contacts at D0 to D7 drive their pins to at a sample: low, high, or nothing where a contact is open (R72). -/
abbrev Pins := Vector (Option Bool) 8

/-- The commands: one constructor for each row of spec/opcode_table.json, in the table's order.
Pin samples (`strap`, `ign`, `pins`, `belowDip`, `level`, `low`) and the Pulse Unit's free count at the moment of the
event (`now`) come as operands (log entries 6 and 29). A request's operands are the slot it is taken from and its
parameters (log entry 10). -/
inductive Instr
  | powerOn
  | initEnd (strap ign belowDip : Bool) (now : Word)
  | selAssert
  | readCommand
  | writeCommand
  | ignore (b : Byte)
  | addressHigh (b : Byte)
  | addressLow (b : Byte)
  | dataRead
  | dataWrite (v : Byte)
  | selRelease
  | keyArm
  | keyCommit
  | keyOther (v : Byte)
  | prompt (v : Byte)
  | noticeClear (high : Bool) (v : Byte)
  | noticeMaskWrite (high : Bool) (v : Byte)
  | readMarkWrite (v : Byte)
  | scanTimerExpiry
  | exchangeScan
  | setActivity (slot : Fin 8) (seat activity : Byte)
  | cardIn (slot : Fin 8) (seat flags : Byte) (identity : Identity) (cdt ddt : Half)
  | cardOut (slot : Fin 8) (seat : Byte)
  | swapSeats (slot : Fin 8)
  | setTime (slot : Fin 8) (clock : Word)
  | ackLamp (slot : Fin 8) (which : Byte)
  | setLamp (slot : Fin 8) (lamp value : Byte)
  | prove (slot : Fin 8)
  | homePointer (slot : Fin 8) (which : Byte)
  | showPage (slot : Fin 8) (page : Byte)
  | snapshot (slot : Fin 8) (page : Byte)
  | restart (slot : Fin 8)
  | resetAssert
  | resetRelease
  | supplyBelowReset
  | supplyAboveReset
  | restartEnd (strap ign belowDip : Bool) (now : Word)
  | ignRise (now : Word)
  | ignFall
  | parkEntry
  | commitEnd
  | dipStart
  | recovery
  | settleTimerExpiry
  | provingTimerExpiry
  | testToneEnd
  | conversionSlot (level : Int)
  | conversionComplete
  | pulseEdge (input : Fin 4) (rising : Bool) (now : Word)
  | windowEnd (input : Fin 4)
  | discreteSample (ign : Bool) (pins : Pins) (now : Word)
  | switchChange (input : Fin 8) (state : Bool)
  | motionTick
  | homingEnd (ptr : Fin 6)
  | coilPeriodBoundary
  | onDelayExpiry (lamp : Fin 32)
  | flashPhaseChange (fast : Bool)
  | lampPeriodBoundary
  | senseCheck (low : BitVec 32)
  | overcurrent (lamp : Fin 32)
  | chimeToneEnd
  | chimeGapEnd
  | secondTick
  | confirmTimerExpiry
  | journalSubmission (sub : Submission)
  | panelRefresh
  | messageDisplayTimeout
  deriving DecidableEq, Repr

end Sys2Proof
end

