-- ==== Sys2Proof/Decode.lean ====
section
/-! DEFINITION. The command that a word spells. The LK6 is a block: its table of operations and events
(spec/opcode_table.json) gives no row any bits, so no word spells a command. -/

namespace Sys2Proof

/-- No row of spec/opcode_table.json has bits ("n_rows_with_fixed": 0 in spec/98_reader.md), so no word decodes. -/
def decodeTableWord (_nbits _w : Nat) : Option Instr := none

end Sys2Proof
end

