-- ==== Sys2Proof/Config.lean ====
section
/-! DEFINITION. What the manual leaves free: values that no proof can evaluate. -/

namespace Sys2Proof

/-- R47: how many of the 376 pieces of the configuration area a running commit has read into its staging copy when
the k-th link write to the area is granted. The manual does not fix it, so it has no body (log entry 11). -/
opaque Config.commitProgress : Nat → Nat

/-- R7: how many of the waiting record accesses are granted before the k-th link byte access to the exchange memory is asked
for. The manual gives no times for it, so it has no body (log entry 38). -/
opaque Config.grantProgress : Nat → Nat

end Sys2Proof
end

