-- ==== Sys2Proof/Machine/State.lean ====
section
/-! DEFINITION. The state of the LK6 as plain data: everything chapters 1 to 10 give the part, and the queue of waiting
commands; and the state right after power is applied. -/

namespace Sys2Proof.Machine

/-- A memory in canonical form: addresses strictly rising, no byte 0x00 listed; an unlisted byte reads 0x00 (R33,
log entry 20). -/
abbrev Mem := List Host.Cell

/-! ### The arbiter of the exchange memory (R7) -/

/-- Consecutive bytes at an address. -/
structure Piece where
  addr : Nat
  bytes : List Byte
  deriving DecidableEq, Repr

/-- The two sides between which the arbiter alternates: the Link Port's byte accesses and the blocks' record accesses. -/
inductive Side
  | link | record
  deriving DecidableEq, Repr

/-- The notices (Table 1-3). -/
inductive Notice
  | reply | check | wprot | state | journal | jfull | lampfault | stale | drivetime | dip | keyrefused | commit
  deriving DecidableEq, Repr

/-- A record access that writes. What it writes is settled at its grant, from the bytes that stand there then. -/
inductive RecordAccess
  /-- Consecutive bytes at an address. -/
  | write (a : Nat) (bs : List Byte)
  /-- R11: the notice word with one bit set and every other bit as it was. -/
  | notice (n : Notice)
  /-- R14: the check record is filled and CHECK set, or its count rises. -/
  | checkFailure (area : Byte) (slot : Nat) (bytes : List Byte)
  /-- R24: the answer write of a request slot, if the slot has not been withdrawn. -/
  | answer (slot : Fin 8) (bytes : List Byte)
  deriving DecidableEq, Repr

/-- The arbiter: the side that held the last grant, and the record accesses that have been requested and not granted, in the
order they were requested (log entry 7). `idx` is the model's own: which free number of grants comes next (log entry 38). -/
structure Arbiter where
  last : Side
  waiting : List RecordAccess
  idx : Nat
  deriving DecidableEq, Repr

/-- A one-shot timer: stopped, or running with the microseconds left. -/
abbrev Timer := Option Nat

/-! ### Link Port (R1) -/

/-- Table 1-1. `w` is true in a WRITE transfer; `hi` is the high address byte; `addr` the fourteen address bits. -/
inductive LinkState
  | idle
  | command
  | addressHigh (w : Bool)
  | addressLow (w : Bool) (hi : Byte)
  | data (w : Bool) (addr : BitVec 14)
  | ignore
  deriving DecidableEq, Repr

/-- The Link Port: its transfer state, and the byte last shifted out on SDO (none while SDO is idle). -/
structure Link where
  state : LinkState
  sdo : Option Byte
  deriving DecidableEq, Repr

/-! ### Request Unit (chapters 1 and 2) -/

/-- R21: a scan that has been asked for: whether an expiry joined it, and the sum of the periods of those expiries. -/
structure PendingScan where
  periodic : Bool
  time : Nat
  deriving DecidableEq, Repr

/-- R25: the thirty-two bytes of a held long request as they were taken (kind at 1, tag at 2, parameters at 4). -/
structure Holding where
  taken : List Byte
  deriving DecidableEq, Repr

/-- The Request Unit. -/
structure ReqUnit where
  seen : Vector Byte 16
  holds : Vector (Option Holding) 8
  halt : Bool
  pendingScan : Option PendingScan
  /-- The scan timer: stopped, or running with the period in force, in ms (R20). -/
  scanTimer : Option Nat
  restartSlots : List (Fin 8)
  deriving DecidableEq, Repr

/-! ### State Controller (chapter 3) -/

/-- Configuration access states (R32). -/
inductive Access
  | locked | armed | opened
  deriving DecidableEq, Repr

/-- Supply states (R52). -/
inductive Supply
  | normal | dip | settle
  deriving DecidableEq, Repr

/-- The kind of a proving cycle, with the slot of the PROVE request that began a REQUEST cycle (R42, R45). -/
inductive ProvingKind
  | start
  | request (slot : Fin 8)
  deriving DecidableEq, Repr

/-- A running proving cycle: its kind, its timer (none once expired) and the pointers whose sweeps have not returned. -/
structure Proving where
  kind : ProvingKind
  timer : Timer
  sweeps : List (Fin 6)
  deriving DecidableEq, Repr

/-- A running commit (R47): how many 32-byte pieces of the configuration area are in the staging copy, and the copy. -/
structure CommitRun where
  copied : Nat
  staging : Mem
  deriving DecidableEq, Repr

/-- The State Controller. While `restart` holds a cause, `op` is the operating state held when the restart began. -/
structure Control where
  op : OpState
  access : Access
  /-- Whether INIT has done its work (log entry 2). -/
  initDone : Bool
  restart : Option Cause
  resetLine : Bool
  supplyLow : Bool
  supply : Supply
  settle : Timer
  proving : Option Proving
  strap : Bool
  commit : Option CommitRun
  deriving DecidableEq, Repr

/-! ### Measuring units (chapter 4) -/

/-- The Conversion Unit. A held level is in units of 2^-20 of the sender reference (log entry 18). -/
structure Conv where
  pos : Fin 8
  busy : Option (Fin 8 × Int)
  codes : Vector Nat 8
  sref : Bool
  deriving DecidableEq, Repr

/-- The accepted edges of one pulse window: their count m and the times of the first and the last. -/
structure Edges where
  m : Nat
  first : Word
  last : Word
  deriving DecidableEq, Repr

/-- One pulse input. `next` counts edges met before the window end whose timestamps belong to the next window (R67). -/
structure PulseIn where
  lastEdge : Option Word
  start : Word
  len : Nat
  win : Edges
  next : Edges
  tref : Option Word
  freq : Nat
  deriving DecidableEq, Repr

/-- One switch input: raw level, debounced state, whether that state has been taken, debounce count. -/
structure Switch where
  raw : Bool
  deb : Bool
  taken : Bool
  count : Nat
  deriving DecidableEq, Repr

/-- The ignition line: its debounced state and debounce count (R76). -/
structure Ign where
  on : Bool
  count : Nat
  deriving DecidableEq, Repr

/-! ### Channel Table (chapter 5) -/

/-- Channel qualities (R77). -/
inductive Quality
  | unset | good | held | stale | low | high | dip | fault
  deriving DecidableEq, Repr

/-- A channel's result as consumers are told of it. -/
structure Result where
  quality : Quality
  value : Int
  deriving DecidableEq, Repr

/-- The running state of a channel (R77). -/
structure Chan where
  quality : Quality
  value : Int
  acc : Int
  count : Nat
  age : Nat
  update : Half
  deriving DecidableEq, Repr

/-! ### Pointer Unit (chapter 6) -/

/-- Pointer states (Table 6-3). -/
inductive PtrState
  | released | homeNeeded | homing | sweep | follow | return
  deriving DecidableEq, Repr

/-- Sweep phases (Table 6-2). -/
inductive SweepPhase
  | waiting | out | back
  deriving DecidableEq, Repr

/-- A signed duty pair in percent for coils A and B (R107). -/
structure Duty where
  a : Int
  b : Int
  deriving DecidableEq, Repr

/-- The running state of a pointer (Table 6-2) and its two duty buffers (R108). -/
structure Ptr where
  state : PtrState
  homeNeeded : Bool
  pos : Nat
  target : Nat
  speed : Int
  phase : Nat
  sweep : SweepPhase
  stepsLeft : Nat
  last : Result
  pending : Duty
  active : Duty
  deriving DecidableEq, Repr

/-- R113: an accepted HOME_POINTER request: its slot and the pointers it named whose homings have not ended. -/
structure HomeReq where
  slot : Fin 8
  left : List (Fin 6)
  deriving DecidableEq, Repr

/-! ### Lamp Unit and chime (chapter 7) -/

/-- Lamp states (Table 7-4). -/
inductive LampState
  | off | pending | on | acked | latched
  deriving DecidableEq, Repr

/-- Output modes (R133). -/
inductive OutMode
  | unlit | steady | slow | fast
  deriving DecidableEq, Repr

/-- Diagnoses (7.5). -/
inductive Diag
  | untested | ok | open | short
  deriving DecidableEq, Repr

/-- Sense readings (R138, R139). -/
inductive Sense
  | none | low | normal | over
  deriving DecidableEq, Repr

/-- Message states of a lamp (R121). -/
inductive MsgState
  | none | queued | shown | dismissed | waiting
  deriving DecidableEq, Repr

/-- The running state of a lamp (R121) and of its output Ln (R133 to R139). Duties are in sixteenths (R135). -/
structure Lamp where
  state : LampState
  cond : Bool
  hyst : Bool
  onDelay : Timer
  requested : Bool
  chanLast : Result
  gateLast : Result
  msg : MsgState
  diag : Diag
  lowCount : Nat
  sense : Sense
  owed : Bool
  mode : OutMode
  lit : Bool
  pending : Nat
  active : Nat
  deriving DecidableEq, Repr

/-- What the Lamp Unit holds for all lamps: its copy of the active warnings (R126), the dimming channel's last notified
result (R135), the flash phases (R134), and whether conditions are frozen (R128). -/
structure LampUnit where
  warn : BitVec 6
  dim : Result
  slowLit : Bool
  fastLit : Bool
  frozen : Bool
  deriving DecidableEq, Repr

/-- Phases of the chime arbiter (R141), each sounding or pausing phase with its timer. -/
inductive ChimePhase
  | idle
  | tone (left : Nat)
  | gap (left : Nat)
  deriving DecidableEq, Repr

/-- The chime arbiter (R141). The REPEAT and owed ONCE sets are those of the lamps (log entry 31). -/
structure Chime where
  phase : ChimePhase
  lastRepeat : Bool
  served : List (Fin 32)
  test : Timer
  testMuted : Bool
  deferred : Bool
  deriving DecidableEq, Repr

/-! ### Accounting Unit (chapter 8) -/

/-- The running confirm timer of the motion detector (8.3). -/
structure Confirm where
  toMoving : Bool
  left : Nat
  paused : Bool
  deriving DecidableEq, Repr

/-- A present seat record (Table 8-2); its warning flags are read off the active warnings (R161, log entry 31). -/
structure Seat where
  identity : Identity
  selected : Activity
  effective : Activity
  span : Nat
  cdt : Nat
  ddt : Nat
  split : Bool
  breakInSpan : Bool
  deriving DecidableEq, Repr

/-- A derived value with the presence of the seat concerned (R164). -/
structure Derived where
  value : Nat
  present : Bool
  deriving DecidableEq, Repr

/-- The time limits of Table 8-1, in minutes, that the counters are compared with (R148). -/
structure Limits where
  split1 : Nat
  split2 : Nat
  fullBreak : Nat
  dailyRest : Nat
  contLimit : Nat
  warnMargin : Nat
  dailyLimit : Nat
  deriving DecidableEq, Repr

/-- The Accounting Unit. `warnings` has the bits of Table 11-1; `limits` are those of the last second tick (R148). -/
structure Acct where
  clock : Word
  timeValid : Bool
  moving : Bool
  confirm : Option Confirm
  warnings : BitVec 6
  limits : Limits
  seat1 : Option Seat
  seat2 : Option Seat
  derived : Vector Derived 8
  deriving DecidableEq, Repr

/-! ### Journal (chapter 9) -/

/-- The Journal's four quantities (R167). -/
structure Journal where
  wm : Fin 64
  rm : Fin 64
  seq : Half
  lost : Half
  deriving DecidableEq, Repr

/-! ### Panel Unit (chapter 10) -/

/-- Lamp classes, in order of precedence (Table 7-1). -/
inductive LampClass
  | red | amber | info
  deriving DecidableEq, Repr

/-- An entry of the message stack (10.5). -/
structure Entry where
  lamp : Fin 32
  cls : LampClass
  shown : Nat
  deriving DecidableEq, Repr

/-- A frame (R177): cells, colour records and what is shown. -/
structure Frame where
  cells : List Byte
  baseColour : Byte
  overlayColour : Byte
  baseShown : Bool
  overlayShown : Bool
  deriving DecidableEq, Repr

/-- The Panel Unit. -/
structure Panel where
  basePage : Nat
  stack : List Entry
  lastSent : Option Frame
  sinceSend : Nat
  deriving DecidableEq, Repr

/-! ### The whole -/

/-- Everything the manual gives the part. Commands change this; the queue is beside it. -/
structure Part where
  /-- The exchange memory as the accesses granted so far have left it. -/
  exch : Mem
  arb : Arbiter
  working : Mem
  link : Link
  req : ReqUnit
  ctl : Control
  conv : Conv
  free : Word
  pulse : Vector PulseIn 4
  sw : Vector Switch 8
  ign : Ign
  chans : Vector Chan 32
  ptrs : Vector Ptr 6
  homeReqs : List HomeReq
  lamps : Vector Lamp 32
  lampU : LampUnit
  chime : Chime
  acct : Acct
  jour : Journal
  panel : Panel
  /-- The model's own: which free value of a commit's copy comes next (log entry 11). -/
  freeIdx : Nat
  deriving DecidableEq, Repr

/-- The part and the queue of waiting commands, first in, first out. -/
structure State extends Part where
  pending : List Instr
  deriving DecidableEq, Repr

/-- The reasons a step stops with a fault: there is none. The manual gives the LK6 no condition that stops it; what goes
wrong is a notice, an answer status, an error record or a restart (log entry 34). Safe: no run ends here. -/
inductive Fault
  deriving DecidableEq, Repr

/-- The reasons a command is refused. -/
inductive Refusal
  /-- Raised by `exec` alone, in the arm of a row that has no meaning yet. Safe: the run ends. -/
  | notModelled (mnemonic : String)
  deriving DecidableEq, Repr

/-! ### Values at power-on -/

def Result.unset : Result := { quality := .unset, value := 0 }

/-- R98. -/
def Chan.reset : Chan := { quality := .unset, value := 0, acc := 0, count := 0, age := 0, update := 0 }

/-- R102; the homing steps left and the sweep phase, which R102 does not list, are the model's (log entry 1). -/
def Ptr.reset : Ptr :=
  { state := .released, homeNeeded := true, pos := 0, target := 0, speed := 0, phase := 0, sweep := .waiting,
    stepsLeft := 0, last := Result.unset, pending := { a := 0, b := 0 }, active := { a := 0, b := 0 } }

/-- R121. -/
def Lamp.reset : Lamp :=
  { state := .off, cond := false, hyst := false, onDelay := none, requested := false, chanLast := Result.unset,
    gateLast := Result.unset, msg := .none, diag := .untested, lowCount := 0, sense := .none, owed := false,
    mode := .unlit, lit := false, pending := 0, active := 0 }

def Edges.none : Edges := { m := 0, first := 0, last := 0 }

/-- R71. -/
def PulseIn.reset : PulseIn :=
  { lastEdge := none, start := 0, len := 0, win := Edges.none, next := Edges.none, tref := none, freq := 0 }

/-- R75. -/
def Switch.reset : Switch := { raw := false, deb := false, taken := false, count := 0 }

/-- R141. -/
def Chime.reset : Chime :=
  { phase := .idle, lastRepeat := false, served := [], test := none, testMuted := false, deferred := true }

/-- Table 8-1: the limits that an all-zero accounting limits record selects. -/
def Limits.defaults : Limits :=
  { split1 := 15, split2 := 30, fullBreak := 45, dailyRest := 660, contLimit := 270, warnMargin := 15, dailyLimit := 540 }

/-- Nothing waits. The manual gives no side the last grant before the first (log entry 38). -/
def Arbiter.reset : Arbiter := { last := .record, waiting := [], idx := 0 }

/-- The part as power is applied: in INIT, its memory clear, its keep domain empty (R33, R57). -/
def Part.reset : Part :=
  { exch := []
    arb := Arbiter.reset
    working := []
    link := { state := .idle, sdo := none }
    req := { seen := Vector.replicate 16 0, holds := Vector.replicate 8 none, halt := false, pendingScan := none,
             scanTimer := none, restartSlots := [] }
    ctl := { op := .init, access := .locked, initDone := false, restart := none, resetLine := false,
             supplyLow := false, supply := .normal, settle := none, proving := none, strap := false, commit := none }
    conv := { pos := 0, busy := none, codes := Vector.replicate 8 0, sref := false }
    free := 0
    pulse := Vector.replicate 4 PulseIn.reset
    sw := Vector.replicate 8 Switch.reset
    ign := { on := false, count := 0 }
    chans := Vector.replicate 32 Chan.reset
    ptrs := Vector.replicate 6 Ptr.reset
    homeReqs := []
    lamps := Vector.replicate 32 Lamp.reset
    lampU := { warn := 0, dim := Result.unset, slowLit := true, fastLit := true, frozen := false }
    chime := Chime.reset
    acct := { clock := 0, timeValid := false, moving := false, confirm := none, warnings := 0,
              limits := Limits.defaults, seat1 := none, seat2 := none, derived := Vector.replicate 8 { value := 0, present := false } }
    jour := { wm := 0, rm := 0, seq := 0, lost := 0 }
    panel := { basePage := 0, stack := [], lastSent := none, sinceSend := 0 }
    freeIdx := 0 }

/-- The machine right after reset: power applied, INIT begun, nothing in the queue (log entries 1 and 2). -/
def State.reset : State := { Part.reset with pending := [] }

end Sys2Proof.Machine
end

