-- ==== Sys2Proof/Machine/Ops.lean ====
section
/-! DEFINITION. The named operations under every command: bytes and their order, exchange memory, the codes of
chapter 11, indexed updates, and the rewriting of a result record. -/

namespace Sys2Proof

/-! ### Codes of what commands name (Table 11-1, Table 8-3, Table 11-15) -/

def OpState.code : OpState → Byte
  | .init => 0 | .unconfigured => 1 | .starting => 2 | .run => 3 | .parking => 4 | .park => 5

def Activity.code : Activity → Byte
  | .rest => 0 | .available => 1 | .work => 2 | .driving => 3

def SeatId.code : SeatId → Byte
  | .one => 1 | .two => 2

def Cause.code : Cause → Byte
  | .reset => 1 | .supply => 2 | .request => 3

end Sys2Proof

namespace Sys2Proof.Machine

/-! ### Bytes, little-endian (3.1) -/

/-- The low `n` bytes of `x`, least significant first. -/
def leBytes : Nat → Nat → List Byte
  | 0, _ => []
  | n + 1, x => BitVec.ofNat 8 x :: leBytes n (x / 256)

/-- The unsigned quantity that little-endian bytes hold. -/
def leNat : List Byte → Nat
  | [] => 0
  | b :: bs => b.toNat + 256 * leNat bs

/-- The signed 32-bit quantity that four little-endian bytes hold. -/
def leInt32 (bs : List Byte) : Int := (BitVec.ofNat 32 (leNat bs)).toInt

/-- The four bytes of a signed 32-bit quantity. -/
def int32Bytes (x : Int) : List Byte := leBytes 4 (BitVec.ofInt 32 x).toNat

/-- One byte holding a truth, 0 clear and 1 set. -/
def flagByte (b : Bool) : Byte := if b then 1 else 0

def zeros (n : Nat) : List Byte := List.replicate n 0

/-- R9: the exclusive-or of all the bytes of a record; the check holds when it is 0x00. -/
def xorBytes (bs : List Byte) : Byte := bs.foldl (· ^^^ ·) 0

/-- The sixteen bytes of a card identity. -/
def identityBytes (i : Identity) : List Byte := leBytes 16 i.toNat

/-! ### Exchange memory -/

/-- What an unlisted byte reads as: INIT clears the memory to 0x00 (R33, log entry 20). -/
def unlistedByte : Byte := 0

/-- The byte at an address. -/
def memRead : Mem → Nat → Byte
  | [], _ => unlistedByte
  | (b, v) :: m, a => if a = b then v else if a < b then unlistedByte else memRead m a

/-- Store a byte; storing the unlisted value removes the entry, so the form stays canonical. -/
def memWrite : Mem → Nat → Byte → Mem
  | [], a, v => if v = unlistedByte then [] else [(a, v)]
  | (b, w) :: m, a, v =>
    if a < b then (if v = unlistedByte then (b, w) :: m else (a, v) :: (b, w) :: m)
    else if a = b then (if v = unlistedByte then m else (a, v) :: m)
    else (b, w) :: memWrite m a v

/-- `n` bytes from an address upwards. -/
def memReadN (m : Mem) (a : Nat) : Nat → List Byte
  | 0 => []
  | n + 1 => memRead m a :: memReadN m (a + 1) n

/-- Store bytes from an address upwards. -/
def memWriteN : Mem → Nat → List Byte → Mem
  | m, _, [] => m
  | m, a, b :: bs => memWriteN (memWrite m a b) (a + 1) bs

/-- The part of a memory from `lo` up to, but not including, `hi`. -/
def memSlice (m : Mem) (lo hi : Nat) : Mem := m.filter fun c => decide (lo ≤ c.1) && decide (c.1 < hi)

def readNat (m : Mem) (a n : Nat) : Nat := leNat (memReadN m a n)
def readByte (m : Mem) (a : Nat) : Nat := (memRead m a).toNat
def readInt32 (m : Mem) (a : Nat) : Int := leInt32 (memReadN m a 4)

/-- The canonical form of a memory (log entry 20): addresses strictly rising and no unlisted value listed. -/
def Memory.wf : Mem → Bool
  | [] => true
  | (a, v) :: m => v != unlistedByte && (match m with
    | [] => true
    | (b, _) :: _ => decide (a < b)) && Memory.wf m

/-! ### Addresses of records (Table 1-2, chapter 11) -/

def noticeAddr : Nat := 0x0008
def maskAddr : Nat := 0x000A
def scanCountAddr : Nat := 0x000C
def clockMirrorAddr : Nat := 0x000E
def inboxAddr (slot : Nat) : Nat := 0x0040 + 8 * slot
def slotAddr (slot : Nat) : Nat := 0x00C0 + 32 * slot
def checkRecordAddr : Nat := 0x01C0
def protectionRecordAddr : Nat := 0x01D0
def journalControlAddr : Nat := 0x01E0
def readMarkAddr : Nat := 0x01E1
def diagAddr : Nat := 0x0200
def chanResultAddr (c : Nat) : Nat := 0x0300 + 16 * c
def ptrResultAddr (i : Nat) : Nat := 0x0500 + 16 * i
def lampResultAddr (i : Nat) : Nat := 0x0580 + 8 * i
def summaryAddr : Nat := 0x0680
def seatAddr : SeatId → Nat
  | .one => 0x06A0
  | .two => 0x06E0
def mirrorAddr : Nat := 0x0780
def journalEntryAddr (pos : Nat) : Nat := 0x0800 + 32 * pos
def configStart : Nat := 0x1000
def configEnd : Nat := 0x3F00
def identAddr : Nat := 0x3FF0
def stateAddr : Nat := 0x3FF2
def keyAddr : Nat := 0x3FF3
def promptAddr : Nat := 0x3FF4

/-- R5: the part identity. -/
def partIdentity : Nat := 0x1E6B

/-! ### The notice word and the error log in a memory (Table 1-3, R14) -/

/-- The bit of each notice (Table 1-3). -/
def Notice.bit : Notice → Nat
  | .reply => 0 | .check => 1 | .wprot => 2 | .state => 3 | .journal => 4 | .jfull => 5 | .lampfault => 6
  | .stale => 7 | .drivetime => 8 | .dip => 9 | .keyrefused => 10 | .commit => 11

def noticeWord (m : Mem) : Half := BitVec.ofNat 16 (readNat m noticeAddr 2)
def noticeMask (m : Mem) : Half := BitVec.ofNat 16 (readNat m maskAddr 2)

/-- Whether a notice is set. -/
def noticeOn (m : Mem) (n : Notice) : Bool := (noticeWord m).getLsbD n.bit

/-- R11: the bytes of the notice word with a bit set and every other bit as it was. -/
def noticeBytes (n : Notice) (m : Mem) : List Byte := leBytes 2 (noticeWord m ||| (1#16 <<< n.bit)).toNat

/-- A byte one higher, at most 255. -/
def saturatingInc (b : Byte) : Byte := if b = 0xFF then 0xFF else b + 1

def scanCount (m : Mem) : Nat := readNat m scanCountAddr 2

/-- R14: what a failed record check writes: the check record and CHECK, or, with CHECK already set, its further-failures count.
`area` is 1 for INBOX and 2 for REQUEST; `bytes` are the slot's bytes as read. -/
def checkFailurePieces (area : Byte) (slot : Nat) (bytes : List Byte) (m : Mem) : List Piece :=
  if noticeOn m .check then
    [{ addr := checkRecordAddr + 12, bytes := [saturatingInc (memRead m (checkRecordAddr + 12))] }]
  else
    [{ addr := checkRecordAddr
       bytes := area :: BitVec.ofNat 8 slot :: (leBytes 2 (scanCount m) ++ bytes.take 8 ++ zeros 4) },
     { addr := noticeAddr, bytes := noticeBytes .check m }]

/-! ### Slot states (Table 2-1) -/

def slotPosted : Byte := 1
def slotTaken : Byte := 2
def slotAnswered : Byte := 3

/-- R24: the slot has not been withdrawn; a state byte above 0x03 counts as EMPTY (R19, log entry 19). -/
def answerable (m : Mem) (i : Fin 8) : Bool :=
  memRead m (slotAddr i) == slotPosted || memRead m (slotAddr i) == slotTaken

/-! ### Record accesses and the arbiter (R7) -/

/-- Store each of several runs of bytes, the first one first. -/
def memWriteAll (m : Mem) (xs : List Piece) : Mem := xs.foldl (fun m x => memWriteN m x.addr x.bytes) m

/-- What a record access writes when its grant finds the memory `m`. -/
def RecordAccess.pieces (m : Mem) : RecordAccess → List Piece
  | .write a bs => [{ addr := a, bytes := bs }]
  | .notice n => [{ addr := noticeAddr, bytes := noticeBytes n m }]
  | .checkFailure area slot bytes => checkFailurePieces area slot bytes m
  | .answer i bs => if answerable m i then [{ addr := slotAddr i, bytes := bs }] else []

/-- R24: an answer write that takes place sets REPLY in an access that comes next. DESIGN CHOICE (log entry 7): that access
counts as requested together with the answer, so it stands before those requested since. `m` is the memory that the answer
finds. -/
def RecordAccess.next (m : Mem) : RecordAccess → List RecordAccess
  | .write _ _ => []
  | .notice _ => []
  | .checkFailure _ _ _ => []
  | .answer i _ => if answerable m i then [.notice .reply] else []

/-- R7: the first waiting record accesses are granted, at most `n`, in order, each whole: the memory, and those that still
wait. -/
def grantSome : Nat → Mem → List RecordAccess → Mem × List RecordAccess
  | 0, m, w => (m, w)
  | _ + 1, m, [] => (m, [])
  | n + 1, m, x :: w => grantSome n (memWriteAll m (x.pieces m)) (x.next m ++ w)

/-- What a record access makes of the memory, with the one that comes next. -/
def RecordAccess.effect (m : Mem) (x : RecordAccess) : Mem :=
  (x.next m).foldl (fun m y => memWriteAll m (y.pieces m)) (memWriteAll m (x.pieces m))

/-- R7: the memory once all of several record accesses have been granted, one after another. -/
def grantAccesses (m : Mem) (xs : List RecordAccess) : Mem := xs.foldl RecordAccess.effect m

/-- The memory once every waiting record access has been granted: what the blocks read, whose reading accesses come after those
requested before them (log entry 7). -/
def Part.mem (p : Part) : Mem := grantAccesses p.exch p.arb.waiting

/-- R7: a record access is requested, behind those that wait. The side of the last grant changes at a grant alone. -/
def Part.request (x : RecordAccess) (p : Part) : Part := { p with arb := { p.arb with waiting := p.arb.waiting ++ [x] } }

/-- One record access that writes `bs` at `a`. -/
def Part.store (a : Nat) (bs : List Byte) (p : Part) : Part := p.request (.write a bs)

/-- R7: the first waiting record accesses, at most `n`, are granted in the order they were requested. -/
def Part.grantRecords (n : Nat) (p : Part) : Part :=
  let r := grantSome n p.exch p.arb.waiting
  { p with
    exch := r.1
    arb := { p.arb with
      last := if n = 0 || p.arb.waiting.isEmpty then p.arb.last else .record
      waiting := r.2 } }

/-- The waiting record accesses have all been granted. -/
def Part.grantAll (p : Part) : Part :=
  { p with
    exch := p.mem
    arb := { p.arb with last := if p.arb.waiting.isEmpty then p.arb.last else .record, waiting := [] } }

/-- R7: a block's record access that reads is granted, after those requested before it; the model holds none back (log entry 7).
-/
def Part.grantReading (p : Part) : Part :=
  let q := p.grantAll
  { q with arb := { q.arb with last := .record } }

/-- R7: how many of the waiting record accesses are granted before a link byte access: a free number before it was asked for
(log entry 38), and where the link would hold two grants running ahead of a waiting one, that one. -/
def Arbiter.beforeLink (r : Arbiter) : Nat :=
  let n := Config.grantProgress r.idx
  if r.last = .link then max 1 n else n

/-- R7: a link byte access is granted. -/
def Part.grantLink (p : Part) : Part :=
  let q := p.grantRecords p.arb.beforeLink
  { q with arb := { q.arb with last := .link, idx := q.arb.idx + 1 } }

/-- A byte written within a link byte access. -/
def Part.storeByte (a : Nat) (v : Byte) (p : Part) : Part := { p with exch := memWrite p.exch a v }

/-- Bytes written within a link byte access. -/
def Part.storeBytes (a : Nat) (bs : List Byte) (p : Part) : Part := { p with exch := memWriteN p.exch a bs }

/-- R10: the bytes of a rewritten result record: the edition, one above the last, modulo 256, in both edition bytes
around the body. -/
def editioned (m : Mem) (a : Nat) (body : List Byte) : List Byte :=
  let e := memRead m a + 1
  e :: (body ++ [e])

/-- R10: a rewrite of a result record of up to 32 bytes, in one record access. -/
def Part.rewriteRecord (a : Nat) (body : List Byte) (p : Part) : Part := p.store a (editioned p.mem a body)

/-! ### Runs of record accesses (R8) -/

/-- R8, R31: a long record in pieces of up to 32 bytes, in descending address order; `n` is the number of pieces. -/
def pieces : Nat → Nat → List Byte → List Piece
  | 0, _, _ => []
  | n + 1, a, bs => pieces n (a + 32) (bs.drop 32) ++ [{ addr := a, bytes := bs.take 32 }]

/-- R8, R31: a long record is written as a run of record accesses, one for each piece; link byte accesses may be granted
between any two of them. -/
def Part.storeRun (a : Nat) (bs : List Byte) (p : Part) : Part :=
  (pieces ((bs.length + 31) / 32) a bs).foldl (fun q x => q.store x.addr x.bytes) p

/-- R8, R10: a rewrite of a result record longer than 32 bytes: the first piece carries the trailing edition byte and the last
the leading one. -/
def Part.rewriteLongRecord (a : Nat) (body : List Byte) (p : Part) : Part := p.storeRun a (editioned p.mem a body)

/-! ### Indexed updates -/

/-- Change the `i`-th of a fixed number of like things. -/
def updAt {α : Type} {n : Nat} (i : Fin n) (f : α → α) (v : Vector α n) : Vector α n := v.set i (f v[i])

def allLamps : List (Fin 32) := List.finRange 32
def allChans : List (Fin 32) := List.finRange 32
/-- DESIGN CHOICE (log entry 12): several pointers that act at one event do so, and have their records rewritten, in the order
of their indices. -/
def allPtrs : List (Fin 6) := List.finRange 6
def allSlots : List (Fin 8) := List.finRange 8

/-- Run an operation once for each index, in order. -/
def forEach {α : Type} (is : List α) (f : α → Part → Part) (p : Part) : Part := is.foldl (fun q i => f i q) p

/-- Run an operation when a condition holds. -/
def onlyIf (c : Bool) (f : Part → Part) (p : Part) : Part := if c then f p else p

/-! ### Codes of states (Table 11-1) -/

def Access.code : Access → Byte
  | .locked => 0 | .armed => 1 | .opened => 2

def Quality.code : Quality → Byte
  | .unset => 0 | .good => 1 | .held => 2 | .stale => 3 | .low => 4 | .high => 5 | .dip => 6 | .fault => 7

def PtrState.code : PtrState → Byte
  | .released => 0 | .homeNeeded => 1 | .homing => 2 | .sweep => 3 | .follow => 4 | .return => 5

def LampState.code : LampState → Byte
  | .off => 0 | .pending => 1 | .on => 2 | .acked => 3 | .latched => 4

def OutMode.code : OutMode → Byte
  | .unlit => 0 | .steady => 1 | .slow => 2 | .fast => 3

def Diag.code : Diag → Byte
  | .untested => 0 | .ok => 1 | .open => 2 | .short => 3

def Sense.code : Sense → Byte
  | .none => 0 | .low => 1 | .normal => 2 | .over => 3

def MsgState.code : MsgState → Byte
  | .none => 0 | .queued => 1 | .shown => 2 | .dismissed => 3 | .waiting => 4

def LampClass.code : LampClass → Byte
  | .red => 0 | .amber => 1 | .info => 2

/-- Precedence of a class: RED before AMBER before INFO (R181). -/
def LampClass.rank : LampClass → Nat
  | .red => 0 | .amber => 1 | .info => 2

/-! ### The life of the part -/

/-- The part is running: neither in INIT nor in a restart (R2). The link, the scans and the timer events of every block
but the second tick need it. -/
def Part.live (p : Part) : Bool := p.ctl.op != .init && p.ctl.restart.isNone

/-- R13: in a restart, where the link asks for no access, each record access is granted at once (log entry 7). -/
def grantUnlessLive (p : Part) : Part := onlyIf (!p.live) Part.grantAll p

/-- Table 4-3: the Conversion Unit, the Pulse Unit and the switch inputs run. -/
def Part.unitsRun (p : Part) : Bool :=
  p.ctl.restart.isNone && (p.ctl.op == .unconfigured || p.ctl.op == .starting || p.ctl.op == .run)

/-- R79: channels take arrivals and advances of age. -/
def Part.channelsTake (p : Part) : Bool := p.unitsRun

/-- R52: the supply state is DIP. -/
def Part.inDip (p : Part) : Bool := p.ctl.supply == .dip

end Sys2Proof.Machine
end

