-- ==== Sys2Proof/Machine/Operands.lean ====
section
/-! DEFINITION. The configuration records as the blocks read them from the working configuration (chapter 11, Tables
11-13 and 11-14), with the default of each field that holds 0 (R48), and piecewise-linear tables. -/

namespace Sys2Proof.Machine

/-- R48: a field that holds 0 selects its default. -/
def orDefault (x d : Nat) : Nat := if x = 0 then d else x

/-- A byte that holds an index plus one, 0 for none (Table 11-13). -/
def indexPlusOne (b : Nat) : Option Nat := if b = 0 then none else some (b - 1)

/-! ### The general configuration record (Table 11-13) -/

def generalAddr : Nat := 0x1000

def gByte (w : Mem) (k : Nat) : Nat := readByte w (generalAddr + k)

/-- R20: the scan period selected for STARTING, RUN and PARKING, in ms. -/
def scanPeriodOf (w : Mem) : Nat := orDefault (gByte w 0) 20

/-- 1.6: whether the check policy is HALT (an all-zero record selects HALT). -/
def policyHalt (w : Mem) : Bool := gByte w 1 != 2

/-- R42: the proving time in µs. -/
def provingTime (w : Mem) : Nat := orDefault (gByte w 2) 3 * 1000000

/-- R53: the settle time in µs. -/
def settleTime (w : Mem) : Nat := orDefault (gByte w 3) 3 * 100000

def motionChannel (w : Mem) : Option (Fin 32) := (indexPlusOne (gByte w 4)).map (Fin.ofNat 32)

def dimmingChannel (w : Mem) : Option (Fin 32) := (indexPlusOne (gByte w 5)).map (Fin.ofNat 32)

def startPage (w : Mem) : Nat := gByte w 6

def parkPage (w : Mem) : Option Nat := indexPlusOne (gByte w 7)

/-- R183: the number of placed compositions after which an AMBER or INFO entry leaves. -/
def displayLimit (w : Mem) : Nat := orDefault (gByte w 8) 8 * 10

/-- R174: the base block is shown. -/
def baseShown (w : Mem) : Bool := (gByte w 9).testBit 0 && (gByte w 9).testBit 1

/-- R174: the overlay block is shown. -/
def overlayShown (w : Mem) : Bool := (gByte w 9).testBit 0 && (gByte w 9).testBit 2

/-- A colour record; bit 7 has no effect and is shown 0 (11.4). -/
def colourAt (w : Mem) (a : Nat) : Byte := memRead w a &&& 0x7F

def overlayColour (w : Mem) (c : LampClass) : Byte := colourAt w (generalAddr + 10 + c.rank)

/-- R66: the edge polarity is FALLING. -/
def fallingEdges (w : Mem) (i : Fin 4) : Bool := (gByte w 13).testBit i

/-- R72: the switch polarity is LOW_IS_1. -/
def lowIsOne (w : Mem) (i : Fin 8) : Bool := (gByte w 14).testBit i

/-- R72: the switch pull is UP. -/
def pullUp (w : Mem) (i : Fin 8) : Bool := (gByte w 15).testBit i

/-- R73: the debounce count N. -/
def debounceCount (w : Mem) (i : Fin 8) : Nat := orDefault (gByte w (16 + i)) 3

/-- R67: the window W in µs. -/
def windowLength (w : Mem) (i : Fin 4) : Nat := orDefault (gByte w (24 + i)) 2 * 50000

/-- R69: the zero timeout Z in µs. -/
def zeroTimeout (w : Mem) (i : Fin 4) : Nat := orDefault (readNat w (generalAddr + 28 + 2 * i) 2) 20 * 100000

/-! ### The accounting limits (Table 8-1, 11.6) -/

def limitsAddr : Nat := 0x1040

def limit16 (w : Mem) (k d : Nat) : Nat := orDefault (readNat w (limitsAddr + k) 2) d

def split1 (w : Mem) : Nat := limit16 w 0 15
def split2 (w : Mem) : Nat := limit16 w 2 30
def fullBreak (w : Mem) : Nat := limit16 w 4 45
def dailyRest (w : Mem) : Nat := limit16 w 6 660
def contLimit (w : Mem) : Nat := limit16 w 8 270
def warnMargin (w : Mem) : Nat := limit16 w 10 15
def dailyLimit (w : Mem) : Nat := limit16 w 12 540

/-- R148: the time limits as a second tick takes them. -/
def limitsOf (w : Mem) : Limits :=
  { split1 := split1 w, split2 := split2 w, fullBreak := fullBreak w, dailyRest := dailyRest w
    contLimit := contLimit w, warnMargin := warnMargin w, dailyLimit := dailyLimit w }

def motionThreshold (w : Mem) : Nat := limit16 w 14 300
/-- Confirm times in seconds. -/
def motionConfirm (w : Mem) : Nat := orDefault (readByte w (limitsAddr + 16)) 5
def stopConfirm (w : Mem) : Nat := orDefault (readNat w (limitsAddr + 17) 2) 60

/-! ### Channel records (Table 5-1) -/

/-- Source kinds (Table 5-2). -/
inductive SourceKind
  | none | sender | pulse | discrete | inbox | account
  deriving DecidableEq, Repr

/-- A channel record. `curve` is set in CURVE mode alone (R185: any other mode byte selects LINEAR). -/
structure ChanRec where
  kind : SourceKind
  index : Nat
  curve : Option Nat
  shift : Nat
  persistence : Nat
  short : Nat
  openCode : Nat
  mul : Int
  div : Int
  offset : Int
  lo : Int
  hi : Int
  ageLimit : Nat
  deriving DecidableEq, Repr

def chanAddr (n : Nat) : Nat := 0x1100 + 32 * n

def sourceKind (b : Nat) : SourceKind :=
  match b with
  | 1 => .sender | 2 => .pulse | 3 => .discrete | 4 => .inbox | 5 => .account | _ => .none

def chanRec (w : Mem) (n : Nat) : ChanRec :=
  let a := chanAddr n
  { kind := sourceKind (readByte w a)
    index := readByte w (a + 1)
    curve := if readByte w (a + 2) = 1 then some (readByte w (a + 3)) else none
    shift := readByte w (a + 4)
    persistence := readByte w (a + 5)
    short := readNat w (a + 6) 2
    openCode := readNat w (a + 8) 2
    mul := readInt32 w (a + 10)
    div := readInt32 w (a + 14)
    offset := readInt32 w (a + 18)
    lo := readInt32 w (a + 22)
    hi := readInt32 w (a + 26)
    ageLimit := readNat w (a + 30) 2 }

/-- R77. -/
def chanKind (w : Mem) (n : Nat) : SourceKind := sourceKind (readByte w (chanAddr n))

/-- The source kind and index of a channel name this source (R78). -/
def chanNames (w : Mem) (n : Nat) (kind : SourceKind) (index : Nat) : Bool :=
  chanKind w n == kind && kind != .none && readByte w (chanAddr n + 1) == index

/-! ### Curves and scales -/

def curveAddr (n : Nat) : Nat := 0x1500 + 128 * n

/-- The (x, y) points of a curve up to its point count. -/
def curvePoints (w : Mem) (n : Nat) : List (Int × Int) :=
  (List.range (min 15 (readByte w (curveAddr n)))).map fun k =>
    (readInt32 w (curveAddr n + 4 + 8 * k), readInt32 w (curveAddr n + 8 + 8 * k))

/-- The value on the segments that follow a point not above `r`: the quotient is rounded toward zero; at an inner point
the segment that starts there is used; beyond the last point its value stands (R83, R103). -/
def interpFrom : Int × Int → List (Int × Int) → Int → Int
  | (_, y0), [], _ => y0
  | (x0, y0), (x1, y1) :: rest, r =>
    if r < x1 then y0 + ((r - x0) * (y1 - y0)).tdiv (x1 - x0) else interpFrom (x1, y1) rest r

/-- A piecewise-linear table read at `r`, clamped at both ends (R83, R103). -/
def interp : List (Int × Int) → Int → Int
  | [], _ => 0
  | (x0, y0) :: rest, r => if r < x0 then y0 else interpFrom (x0, y0) rest r

/-! ### Pointer records (Table 6-1) -/

/-- A pointer record. -/
structure PtrRec where
  used : Bool
  chan : Nat
  scale : List (Int × Int)
  smax : Nat
  shift : Nat
  hold : Bool
  sweep : Bool
  travel : Nat
  deriving DecidableEq, Repr

def ptrAddr (n : Nat) : Nat := 0x1900 + 64 * n

def scalePoints (w : Mem) (n : Nat) : List (Int × Int) :=
  (List.range (min 8 (readByte w (ptrAddr n + 2)))).map fun k =>
    (readInt32 w (ptrAddr n + 16 + 6 * k), (readNat w (ptrAddr n + 20 + 6 * k) 2 : Int))

def ptrRec (w : Mem) (n : Nat) : PtrRec :=
  let a := ptrAddr n
  { used := readByte w a != 0
    chan := readByte w (a + 1)
    scale := scalePoints w n
    smax := readByte w (a + 3)
    shift := readByte w (a + 4)
    hold := readByte w (a + 5) == 1
    sweep := readByte w (a + 6) != 0
    travel := readNat w (a + 8) 2 }

/-- R101. -/
def ptrUsed (w : Mem) (n : Nat) : Bool := readByte w (ptrAddr n) != 0

/-! ### Lamp records (Table 7-1) -/

/-- Condition kinds (Table 7-2). -/
inductive LampKind
  | none | above | below | invalid | switch | request | drivetime | lampfault
  deriving DecidableEq, Repr

/-- A lamp record. -/
structure LampRec where
  kind : LampKind
  cls : LampClass
  pattern : OutMode
  latch : Bool
  chime : Bool
  prove : Bool
  drive : Bool
  park : Bool
  chan : Nat
  gate : Option Nat
  onDelay : Nat
  text : Option Nat
  selector : Nat
  onAt : Int
  offAt : Int
  gateAt : Int
  deriving DecidableEq, Repr

def lampAddr (n : Nat) : Nat := 0x1B00 + 32 * n

def lampKind (b : Nat) : LampKind :=
  match b with
  | 1 => .above | 2 => .below | 3 => .invalid | 4 => .switch | 5 => .request | 6 => .drivetime | 7 => .lampfault
  | _ => .none

def lampClass (b : Nat) : LampClass :=
  match b with
  | 0 => .red | 1 => .amber | _ => .info

def lampPattern (b : Nat) : OutMode :=
  match b with
  | 0 => .steady | 1 => .slow | _ => .fast

/-- 0xFF names none (Table 11-14). -/
def orNone (b : Nat) : Option Nat := if b = 0xFF then none else some b

def lampRec (w : Mem) (n : Nat) : LampRec :=
  let a := lampAddr n
  let flags := readByte w (a + 3)
  { kind := lampKind (readByte w a)
    cls := lampClass (readByte w (a + 1))
    pattern := lampPattern (readByte w (a + 2))
    latch := flags.testBit 0
    chime := flags.testBit 1
    prove := flags.testBit 2
    drive := flags.testBit 3
    park := flags.testBit 4
    chan := readByte w (a + 4)
    gate := orNone (readByte w (a + 5))
    onDelay := readByte w (a + 6)
    text := orNone (readByte w (a + 7))
    selector := readByte w (a + 8)
    onAt := readInt32 w (a + 12)
    offAt := readInt32 w (a + 16)
    gateAt := readInt32 w (a + 20) }

/-- R121. -/
def lampUsed (w : Mem) (n : Nat) : Bool := lampKind (readByte w (lampAddr n)) != .none

/-- Table 7-1: the kinds that use the channel field. -/
def LampKind.usesChannel : LampKind → Bool
  | .above | .below | .invalid | .switch => true
  | _ => false

/-! ### Pages and texts (10.2, Table 11-14) -/

def pageAddr (n : Nat) : Nat := 0x1F00 + 128 * n
def textAddr (n : Nat) : Nat := 0x2500 + 40 * n

/-- A page field's source (11.6). -/
inductive FieldSource
  | chan (n : Fin 32)
  | derived (n : Fin 8)
  | clock
  deriving DecidableEq, Repr

/-- A page field's format (Table 10-1). -/
inductive FieldFormat
  | int | dec1 | dec2 | hhmm | mmss | activity
  deriving DecidableEq, Repr

/-- A page field. -/
structure Field where
  row : Nat
  col : Nat
  width : Nat
  source : FieldSource
  format : FieldFormat
  deriving DecidableEq, Repr

def fieldSource (b : Nat) : FieldSource :=
  if b < 0x40 then .chan (Fin.ofNat 32 b) else if b < 0x80 then .derived (Fin.ofNat 8 (b - 0x40)) else .clock

def fieldFormat (b : Nat) : FieldFormat :=
  match b with
  | 0 => .int | 1 => .dec1 | 2 => .dec2 | 3 => .hhmm | 4 => .mmss | _ => .activity

def pageField (w : Mem) (page n : Nat) : Field :=
  let a := pageAddr page + 88 + 5 * n
  { row := readByte w a
    col := readByte w (a + 1)
    width := readByte w (a + 2)
    source := fieldSource (readByte w (a + 3))
    format := fieldFormat (readByte w (a + 4)) }

/-- The used fields of a page, in order (R175). -/
def pageFields (w : Mem) (page : Nat) : List Field :=
  ((List.range 8).map (pageField w page)).filter fun f => f.width != 0

end Sys2Proof.Machine
end

