-- ==== Sys2Proof/Machine/Flags.lean ====
section
/-! DEFINITION. The part's flags to the host: the notice word, the notice mask and ATTN (R11 to R13), the error log
(R4, R14), the header's state bytes (R5, R32) and the commit result (R47). -/

namespace Sys2Proof.Machine

/-! ### Notices (R11 to R13) -/

/-- R11: a block sets a notice, in one record access. -/
def setNotice (n : Notice) (p : Part) : Part := p.request (.notice n)

/-- R13: ATTN is asserted while the notice word and the mask share a set bit; it follows every granted change of either. -/
def Part.attn (p : Part) : Bool := (noticeWord p.exch &&& noticeMask p.exch) != 0

/-- R12: an emptied check record is all zero. -/
def emptyCheckRecord (p : Part) : Part := p.storeBytes checkRecordAddr (zeros 16)

/-- R12: an emptied protection record is all zero. -/
def emptyProtectionRecord (p : Part) : Part := p.storeBytes protectionRecordAddr (zeros 16)

/-- R11, R12: a host write to a byte of the notice word: each 0 clears its bit, and bits 12 to 15 read as 0 whatever is
written; clearing a set CHECK or WPROT bit empties its record in the same access. -/
def clearNotices (high : Bool) (v : Byte) (p : Part) : Part :=
  let a := if high then noticeAddr + 1 else noticeAddr
  let q := p.storeByte a (memRead p.exch a &&& v &&& (if high then 0x0F else 0xFF))
  let q := onlyIf (noticeOn p.exch .check && !noticeOn q.exch .check) emptyCheckRecord q
  onlyIf (noticeOn p.exch .wprot && !noticeOn q.exch .wprot) emptyProtectionRecord q

/-! ### Error log (R4, R14, Table 11-3) -/

/-- Causes of a protected write (R4). -/
inductive ProtCause
  | area | configuration | readMark
  deriving DecidableEq, Repr

def ProtCause.code : ProtCause → Byte
  | .area => 1 | .configuration => 2 | .readMark => 3

/-- R4: the protection record is filled and WPROT set, or, with WPROT already set, its further-writes count rises, within the
link byte access. -/
def protectedWrite (cause : ProtCause) (a : Nat) (v : Byte) (p : Part) : Part :=
  if noticeOn p.exch .wprot then
    p.storeByte (protectionRecordAddr + 6) (saturatingInc (memRead p.exch (protectionRecordAddr + 6)))
  else
    (p.storeBytes protectionRecordAddr
      (cause.code :: v :: (leBytes 2 a ++ leBytes 2 (scanCount p.exch) ++ zeros 10))).storeBytes noticeAddr
        (noticeBytes .wprot p.exch)

/-- R14: a failed record check is logged, in one record access. -/
def logCheckFailure (area : Byte) (slot : Nat) (bytes : List Byte) (p : Part) : Part := p.request (.checkFailure area slot bytes)

/-! ### The header and the STATE register -/

/-- R5, R32: the header's operating-state and access-state bytes follow the State Controller. They are written together with
the STATE register, so the change of state stands at the grant of this access, which comes at once (log entry 7). -/
def writeStateBytes (p : Part) : Part := (p.store 0x0002 [p.ctl.op.code, p.ctl.access.code]).grantAll

/-- 11.1: the STATE register: operating state in bits 0 to 3, access state in bits 4 and 5. -/
def Part.stateRegister (p : Part) : Byte := p.ctl.op.code ||| (p.ctl.access.code <<< 4)

/-- R32: a change of the access state writes the header and sets no notice. -/
def setAccess (a : Access) (p : Part) : Part :=
  if p.ctl.access = a then p else writeStateBytes { p with ctl := { p.ctl with access := a } }

/-- R47: the commit result is written and COMMIT set. -/
def writeCommitResult (table index reason : Nat) (p : Part) : Part :=
  setNotice .commit (p.store 0x0004 [BitVec.ofNat 8 table, BitVec.ofNat 8 index, BitVec.ofNat 8 reason])

end Sys2Proof.Machine
end

