-- ==== Sys2Proof/Machine/Journal.lean ====
section
/-! DEFINITION. The Journal (chapter 9): entries, submissions, GAP entries and the read mark. -/

namespace Sys2Proof.Machine

/-! ### Positions (R167) -/

/-- How far `b` lies above `a`, counting positions upward and wrapping from 63 to 0. -/
def journalAhead (a b : Fin 64) : Nat := (b - a).val

/-- The number of unread entries. -/
def unreadCount (j : Journal) : Nat := journalAhead j.rm j.wm

/-- The position after the write mark differs from the read mark. -/
def journalHasRoom (j : Journal) : Bool := j.wm + 1 != j.rm

/-- R167: the control record mirrors the four quantities (Table 11-4). -/
def writeJournalControl (p : Part) : Part :=
  p.store journalControlAddr
    (BitVec.ofNat 8 p.jour.wm.val :: BitVec.ofNat 8 p.jour.rm.val ::
      (leBytes 2 p.jour.lost.toNat ++ leBytes 2 p.jour.seq.toNat ++ zeros 10))

/-! ### Entries (R168, Table 9-1, Table 11-15) -/

/-- What an entry holds besides its sequence number and its stamp: kind, seat, split flag and data. -/
structure EntryBody where
  kind : Byte
  seat : Byte
  split : Bool
  data : List Byte
  deriving DecidableEq, Repr

def entryBody : Submission → EntryBody
  | .powerOn => { kind := 1, seat := 0, split := false, data := [] }
  | .restart c was => { kind := 2, seat := 0, split := false, data := [c.code, was.code] }
  | .activity seat b a => { kind := 3, seat := seat.code, split := false, data := [b.code, a.code] }
  | .cardIn seat i c d split act =>
    { kind := 4, seat := seat.code, split := split
      data := identityBytes i ++ leBytes 3 c.toNat ++ leBytes 3 d.toNat ++ [act.code] }
  | .cardOut seat i c d split =>
    { kind := 5, seat := seat.code, split := split, data := identityBytes i ++ leBytes 3 c.toNat ++ leBytes 3 d.toNat }
  | .swap seat i => { kind := 6, seat := seat.code, split := false, data := identityBytes i }
  | .breakTaken seat full c =>
    { kind := 7, seat := seat.code, split := false, data := (if full then 2 else 1) :: leBytes 4 c.toNat }
  | .dailyRest seat c d =>
    { kind := 8, seat := seat.code, split := false, data := leBytes 4 c.toNat ++ leBytes 4 d.toNat }
  | .overrun daily => { kind := 9, seat := 1, split := false, data := [if daily then 2 else 1] }
  | .noCardMoving ends => { kind := 10, seat := 1, split := false, data := [if ends then 2 else 1] }
  | .speedLost ends => { kind := 11, seat := 0, split := false, data := [if ends then 2 else 1] }
  | .timeSet oc ov nc =>
    { kind := 12, seat := 0, split := false, data := leBytes 4 oc.toNat ++ [flagByte ov] ++ leBytes 4 nc.toNat }

/-- A GAP entry holds the lost count (R170). -/
def gapBody (lost : Half) : EntryBody := { kind := 13, seat := 0, split := false, data := leBytes 2 lost.toNat }

/-- The thirty-two bytes of an entry (11.7); unused data bytes are 0x00. -/
def entryBytes (seq : Half) (clock : Word) (valid : Bool) (b : EntryBody) : List Byte :=
  leBytes 2 seq.toNat ++ [b.kind, b.seat] ++ leBytes 4 clock.toNat ++ [flagByte valid ||| (flagByte b.split <<< 1)] ++
    b.data ++ zeros (23 - b.data.length)

/-- R169, with room: the entry is written at the write mark under the next sequence number, stamped with the clock and
TIME_VALID as they stand; the marks and the control record follow. `lost` is the lost count after. -/
def recordEntry (b : EntryBody) (lost : Half) (p : Part) : Part :=
  let q := p.store (journalEntryAddr p.jour.wm) (entryBytes p.jour.seq p.acct.clock p.acct.timeValid b)
  writeJournalControl { q with jour := { q.jour with wm := q.jour.wm + 1, seq := q.jour.seq + 1, lost := lost } }

/-- R169: an entry is written, and JOURNAL is set. -/
def writeEntry (b : EntryBody) (lost : Half) (p : Part) : Part := setNotice .journal (recordEntry b lost p)

/-- R169, full: the entry is lost. It takes its sequence number unless the lost count already stands at 65,535. -/
def loseEntry (p : Part) : Part :=
  let j := if p.jour.lost = 0xFFFF then p.jour else { p.jour with lost := p.jour.lost + 1, seq := p.jour.seq + 1 }
  setNotice .jfull (writeJournalControl { p with jour := j })

/-- R169: the Journal takes a submission. -/
def submit (sub : Submission) (p : Part) : Part :=
  if journalHasRoom p.jour then writeEntry (entryBody sub) p.jour.lost p else loseEntry p

/-- R170: at an accepted read mark that leaves room, a lost count above 0 is written as a GAP entry at once. -/
def writeGap (p : Part) : Part :=
  if journalHasRoom p.jour && p.jour.lost != 0 then writeEntry (gapBody p.jour.lost) 0 p else p

/-- R171: whether an offered value lies on the way from the read mark to the write mark, both ends included. -/
def readMarkAccepted (j : Journal) (v : Byte) : Bool :=
  decide (v.toNat < 64) && decide (journalAhead j.rm (Fin.ofNat 64 v.toNat) ≤ unreadCount j)

/-- R171: the Journal judges a written read mark. -/
def offerReadMark (v : Byte) (p : Part) : Part :=
  if readMarkAccepted p.jour v then
    if Fin.ofNat 64 v.toNat = p.jour.rm then p
    else writeGap (writeJournalControl { p with jour := { p.jour with rm := Fin.ofNat 64 v.toNat } })
  else protectedWrite .readMark readMarkAddr v p

/-- JOURNAL_SUBMISSION (R169): the Journal takes submissions in every state and through restarts (R172); in INIT the POWER_ON
entry is the only one (log entry 2). -/
def execJournalSubmission (sub : Submission) (s : State) : Host.Outcome State Fault Refusal :=
  .next { s with toPart := onlyIf (s.ctl.op != .init) (fun p => grantUnlessLive (submit sub p)) s.toPart }

end Sys2Proof.Machine
end

