-- ==== Sys2Proof/Machine/Results.lean ====
section
/-! DEFINITION. The result records of channels, pointers and lamps (Tables 11-7 to 11-9) and the updates that rewrite them
after each change of a shown field (R94, R102, R144, log entry 13). -/

namespace Sys2Proof.Machine

/-- Table 11-7, between the edition bytes. -/
def chanBody (c : Chan) : List Byte := c.quality.code :: (int32Bytes c.value ++ leBytes 2 c.update.toNat ++ zeros 7)

/-- Table 11-8, between the edition bytes: the position reads 0xFFFF while HOMING; the mark reads 0x00 while set. -/
def ptrBody (x : Ptr) : List Byte :=
  x.state.code :: flagByte (!x.homeNeeded) :: (leBytes 2 (if x.state = .homing then 0xFFFF else x.pos) ++
    leBytes 2 x.target ++ [BitVec.ofInt 8 x.speed] ++ zeros 7)

/-- Table 11-9, between the edition bytes. -/
def lampBody (l : Lamp) : List Byte :=
  [l.state.code, flagByte l.cond, l.mode.code, l.diag.code, l.msg.code, l.sense.code]

def rewriteChan (c : Fin 32) (p : Part) : Part := p.rewriteRecord (chanResultAddr c) (chanBody p.chans[c])
def rewritePtr (i : Fin 6) (p : Part) : Part := p.rewriteRecord (ptrResultAddr i) (ptrBody p.ptrs[i])
def rewriteLamp (i : Fin 32) (p : Part) : Part := p.rewriteRecord (lampResultAddr i) (lampBody p.lamps[i])

/-- Change a channel's running state without a rewrite. -/
def setChan (c : Fin 32) (f : Chan → Chan) (p : Part) : Part := { p with chans := updAt c f p.chans }

/-- Change a pointer's running state without a rewrite. -/
def setPtr (i : Fin 6) (f : Ptr → Ptr) (p : Part) : Part := { p with ptrs := updAt i f p.ptrs }

/-- Change a lamp's running state without a rewrite. -/
def setLamp (i : Fin 32) (f : Lamp → Lamp) (p : Part) : Part := { p with lamps := updAt i f p.lamps }

/-- R102: change a pointer, and rewrite its record if a shown field changed. -/
def updPtr (i : Fin 6) (f : Ptr → Ptr) (p : Part) : Part :=
  let q := setPtr i f p
  onlyIf (ptrBody q.ptrs[i] != ptrBody p.ptrs[i]) (rewritePtr i) q

/-- R144: change a lamp, and rewrite its record if a shown field changed. -/
def updLamp (i : Fin 32) (f : Lamp → Lamp) (p : Part) : Part :=
  let q := setLamp i f p
  onlyIf (lampBody q.lamps[i] != lampBody p.lamps[i]) (rewriteLamp i) q

end Sys2Proof.Machine
end

