-- ==== Sys2Proof/Machine/Chime.lean ====
section
/-! DEFINITION. The chime arbiter (7.6): demands of ON lamps, tones, gaps, the test tone, and when demands are served. -/

namespace Sys2Proof.Machine

/-- A tone lasts 300 ms and a GAP 700 ms (R142, R143). -/
def toneTime : Nat := 300000
def gapTime : Nat := 700000

/-- R141: the lamp has a REPEAT demand: a used RED lamp with the chime flag that is ON. -/
def repeatDemand (p : Part) (i : Fin 32) : Bool :=
  let r := lampRec p.working i
  r.kind != .none && r.cls == .red && r.chime && p.lamps[i].state == .on

/-- R141: the REPEAT set is not empty. -/
def anyRepeat (p : Part) : Bool := allLamps.any (repeatDemand p)

/-- R141: the owed ONCE demands. -/
def owedLamps (p : Part) : List (Fin 32) := allLamps.filter fun i => p.lamps[i].owed

def setChime (f : Chime → Chime) (p : Part) : Part := { p with chime := f p.chime }

/-- R141: the ONCE demands of the sounding tone's served set are satisfied: they leave the owed set. -/
def satisfyServed (p : Part) : Part :=
  setChime (fun c => { c with served := [] }) (forEach p.chime.served (fun i => setLamp i fun l => { l with owed := false }) p)

/-- R142: a tone starts: a REPEAT tone if the REPEAT set is not empty and a ONCE tone otherwise; it serves every ONCE
demand owed at its start. -/
def startTone (p : Part) : Part :=
  setChime (fun c => { c with phase := .tone toneTime, lastRepeat := anyRepeat p, served := owedLamps p }) p

/-- R142, IDLE: a tone starts at once when a demand is held. -/
def chimeIdle (p : Part) : Part :=
  let q := setChime (fun c => { c with phase := .idle }) p
  if anyRepeat q || !(owedLamps q).isEmpty then startTone q else q

/-- R142: the arbiter takes a new demand of lamp `i`. A REPEAT demand cuts a ONCE tone short and ends a GAP that followed
one. -/
def chimeDemand (i : Fin 32) (p : Part) : Part :=
  if p.chime.deferred then p
  else match p.chime.phase with
    | .idle => chimeIdle p
    | .tone _ => if repeatDemand p i && !p.chime.lastRepeat then startTone (satisfyServed p) else p
    | .gap _ => if repeatDemand p i && !p.chime.lastRepeat then startTone p else p

/-- R132, R142: lamp `i` leaves ON: its owed ONCE demand is withdrawn; a tone whose REPEAT set is empty and whose served
demands have all been withdrawn stops at once. -/
def chimeWithdraw (i : Fin 32) (p : Part) : Part :=
  let q := setChime (fun c => { c with served := c.served.filter (· != i) }) (setLamp i (fun l => { l with owed := false }) p)
  match q.chime.phase with
  | .tone _ => if q.chime.served.isEmpty && !anyRepeat q then setChime (fun c => { c with phase := .gap gapTime }) q else q
  | _ => q

/-- R142: lamp demands are served while the state is RUN, no proving cycle runs and the supply is not in DIP. -/
def chimeServes (p : Part) : Bool :=
  p.ctl.op == .run && p.ctl.restart.isNone && p.ctl.proving.isNone && !p.inDip

/-- R142: a tone that is sounding when serving stops, stops at once and satisfies its served ONCE demands. -/
def chimeStop (p : Part) : Part :=
  setChime (fun c => { c with phase := .idle, deferred := true })
    (match p.chime.phase with
     | .tone _ => satisfyServed p
     | _ => p)

/-- R142: bring the deferral in line with the state: serving stops, or begins with the IDLE step. -/
def chimeSync (p : Part) : Part :=
  if p.chime.deferred && chimeServes p then chimeIdle (setChime (fun c => { c with deferred := false }) p)
  else if !p.chime.deferred && !chimeServes p then chimeStop p
  else p

/-- R143: the test tone starts; in a dip it starts silent (log entry 21). -/
def startTestTone (p : Part) : Part := setChime (fun c => { c with test := some toneTime, testMuted := false }) p

def stopTestTone (p : Part) : Part := setChime (fun c => { c with test := none, testMuted := false }) p

/-- R143: a dip start silences the test tone, and the rest of it is not sounded. -/
def muteTestTone (p : Part) : Part := setChime (fun c => { c with testMuted := c.test.isSome }) p

/-- R141: all sets empty, IDLE, no test tone; the sets of the lamps go with the lamps. DESIGN CHOICE (log entry 42): the kind of
the tone last sounded becomes ONCE too; R141 and R145 leave it open. -/
def chimeReset (p : Part) : Part :=
  forEach allLamps (fun i => setLamp i fun l => { l with owed := false }) { p with chime := Chime.reset }

/-- CHM sounds: a lamp tone, or the test tone outside a dip (R142, R143). -/
def Part.chimeSounds (p : Part) : Bool :=
  (match p.chime.phase with
   | .tone _ => true
   | _ => false) ||
  (p.chime.test.isSome && !p.chime.testMuted && !p.inDip && p.ctl.restart.isNone)

/-- R142: a tone ends: its served demands still owed are satisfied, and a GAP follows. -/
def chimeToneEnd (p : Part) : Part :=
  match p.chime.phase with
  | .tone _ => setChime (fun c => { c with phase := .gap gapTime }) (satisfyServed p)
  | _ => p

/-- R142: a GAP ends, the phase becomes IDLE and the IDLE step applies at once. -/
def chimeGapEnd (p : Part) : Part :=
  match p.chime.phase with
  | .gap _ => chimeIdle p
  | _ => p

/-- CHIME_TONE_END (R142). -/
def execChimeToneEnd (s : State) : Host.Outcome State Fault Refusal := .next { s with toPart := chimeToneEnd s.toPart }

/-- CHIME_GAP_END (R142). -/
def execChimeGapEnd (s : State) : Host.Outcome State Fault Refusal := .next { s with toPart := chimeGapEnd s.toPart }

/-- TEST_TONE_END (R143): the test tone's timer expires and the tone stops; nothing happens when it does not run. -/
def execTestToneEnd (s : State) : Host.Outcome State Fault Refusal :=
  .next { s with toPart := onlyIf s.chime.test.isSome stopTestTone s.toPart }

end Sys2Proof.Machine
end

