-- ==== Sys2Proof/Machine/Panel.lean ====
section
/-! DEFINITION. The Panel Unit (chapter 10): the message stack, the rendering of pages, fields and texts, the composition
of frames, the mirror and the panel line, and SHOW_PAGE's base page. -/

namespace Sys2Proof.Machine

def setPanel (f : Panel → Panel) (p : Part) : Part := { p with panel := f p.panel }

/-! ### The message stack (10.5) -/

/-- The part sets a lamp's message state (R121); the lamp's record is rewritten if it changes (R144). -/
def setMsg (i : Fin 32) (m : MsgState) (p : Part) : Part := updLamp i (fun l => { l with msg := m }) p

/-- R181: the top entry's lamp is SHOWN and every other entry's lamp QUEUED. DESIGN CHOICE (log entry 44): the top's record is
rewritten first and the others follow in the order of the stack; R144, R181 and R182 give no order between lamps. -/
def syncShown (p : Part) : Part :=
  match p.panel.stack with
  | [] => p
  | top :: rest => forEach rest (fun e => setMsg e.lamp .queued) (setMsg top.lamp .shown p)

/-- R181: an entry is inserted after the last entry of its class. -/
def stackInsert (e : Entry) : List Entry → List Entry
  | [] => [e]
  | x :: xs => if x.cls.rank ≤ e.cls.rank then x :: stackInsert e xs else e :: x :: xs

def lampClassOf (p : Part) (i : Fin 32) : LampClass := (lampRec p.working i).cls

/-- An entry for lamp `i` with shown time 0 comes into the stack. -/
def pushEntry (i : Fin 32) (p : Part) : Part :=
  setPanel (fun q => { q with stack := stackInsert { lamp := i, cls := lampClassOf p i, shown := 0 } q.stack }) p

/-- The stack holds at most eight entries (10.5). -/
def stackLimit : Nat := 8

/-- R181: the message of a lamp entering ON is admitted, with the eviction of a last entry of a lower class, or the lamp
becomes WAITING. The evicted lamp's record is rewritten first (log entry 44). -/
def admitMessage (i : Fin 32) (p : Part) : Part :=
  if p.panel.stack.length < stackLimit then syncShown (pushEntry i p)
  else match p.panel.stack.getLast? with
    | some e =>
      if (lampClassOf p i).rank < e.cls.rank then
        syncShown (pushEntry i (setMsg e.lamp .waiting (setPanel (fun q => { q with stack := q.stack.dropLast }) p)))
      else setMsg i .waiting p
    | none => p

/-- R182: the WAITING lamp of the highest class, and the lowest index within it. -/
def nextWaiting (p : Part) : Option (Fin 32) :=
  [LampClass.red, .amber, .info].findSome? fun c =>
    allLamps.find? fun i => p.lamps[i].msg == .waiting && lampClassOf p i == c

/-- R182: the entry of lamp `i` leaves the stack, the lamp takes a message state, and one WAITING lamp is admitted;
the leaving lamp's record is rewritten first (log entry 44). -/
def leaveStack (i : Fin 32) (m : MsgState) (p : Part) : Part :=
  let q := setMsg i m (setPanel (fun r => { r with stack := r.stack.filter fun e => e.lamp != i }) p)
  syncShown (match nextWaiting q with
    | some j => pushEntry j q
    | none => q)

/-- R181, R182: the Panel Unit acts on a reported lamp state change. -/
def panelReport (i : Fin 32) (before after : LampState) (p : Part) : Part :=
  let inStack := p.lamps[i].msg == .queued || p.lamps[i].msg == .shown
  match after with
  | .on => if p.lamps[i].msg = .none then admitMessage i p else p
  | .acked => if p.lamps[i].msg = .none then p else if inStack then leaveStack i .dismissed p else setMsg i .dismissed p
  | .off => if before = .pending then p else if inStack then leaveStack i .none p else setMsg i .none p
  | .latched => p
  | .pending => p

/-! ### Rendering (R173 to R176) -/

/-- R173: a text or icon code as it stands; any other byte as 0x3F. -/
def renderByte (b : Byte) : Byte :=
  if (0x20 ≤ b.toNat ∧ b.toNat ≤ 0x7E) ∨ (0x80 ≤ b.toNat ∧ b.toNat ≤ 0x9F) then b else 0x3F

def digitByte (n : Nat) : Byte := BitVec.ofNat 8 (0x30 + n % 10)

/-- The decimal digits of `n`, at most `fuel + 1` of them. -/
def decDigits : Nat → Nat → List Byte
  | 0, n => [digitByte n]
  | fuel + 1, n => if n < 10 then [digitByte n] else decDigits fuel (n / 10) ++ [digitByte n]

/-- An int32 has at most ten digits. -/
def digits (n : Nat) : List Byte := decDigits 9 n

def twoDigits (n : Nat) : List Byte := [digitByte (n / 10), digitByte n]

/-- At least two digits. -/
def digitsMin2 (n : Nat) : List Byte := if n < 10 then 0x30 :: digits n else digits n

/-- R176: the string of the magnitude of a value; none for an ACTIVITY value outside 0 to 3. -/
def magnitudeString (f : FieldFormat) (n : Nat) : List Byte :=
  match f with
  | .int => digits n
  | .dec1 => digits (n / 10) ++ [0x2E, digitByte n]
  | .dec2 => digits (n / 100) ++ 0x2E :: twoDigits (n % 100)
  | .hhmm => digitsMin2 (n / 60) ++ 0x3A :: twoDigits (n % 60)
  | .mmss => digitsMin2 (n / 60) ++ 0x3A :: twoDigits (n % 60)
  | .activity => [BitVec.ofNat 8 (0x80 + n)]

/-- R176: a valid value's string; none where it never fits. -/
def fieldString (f : FieldFormat) (v : Int) : Option (List Byte) :=
  if f = .activity then (if 0 ≤ v ∧ v ≤ 3 then some (magnitudeString f v.natAbs) else none)
  else some (if v < 0 then 0x2D :: magnitudeString f v.natAbs else magnitudeString f v.natAbs)

/-- R175: what a field's source reads; none while it is invalid. -/
def readSource (src : FieldSource) (p : Part) : Option Int :=
  match src with
  | .chan n =>
    let c := p.chans[n]
    if c.quality = .good ∨ c.quality = .held ∨ c.quality = .dip then some c.value else none
  | .derived n => if p.acct.derived[n].present then some (p.acct.derived[n].value : Int) else none
  | .clock => if p.acct.timeValid then some ((p.acct.clock.toNat % 86400 / 60 : Nat) : Int) else none

/-- R175, R176: the cells of a field: dashes for an invalid source, asterisks for a string that does not fit, else the
string right-aligned. -/
def fieldCells (f : Field) (p : Part) : List Byte :=
  match readSource f.source p with
  | none => List.replicate f.width 0x2D
  | some v =>
    match fieldString f.format v with
    | none => List.replicate f.width 0x2A
    | some t =>
      if f.width < t.length then List.replicate f.width 0x2A else List.replicate (f.width - t.length) 0x20 ++ t

/-- Codes placed over the cells from `start` on. -/
def placeCells : Nat → List Byte → List Byte → List Byte
  | _, [], cells => cells
  | start, b :: bs, cells => placeCells (start + 1) bs (cells.set start b)

def placeField (p : Part) (cells : List Byte) (f : Field) : List Byte :=
  placeCells (20 * f.row + f.col) (fieldCells f p) cells

/-- R175: a page: its eighty cell bytes, then its used fields in order. -/
def renderPage (page : Nat) (p : Part) : List Byte :=
  (pageFields p.working page).foldl (placeField p) ((memReadN p.working (pageAddr page) 80).map renderByte)

/-! ### Composition (R174, R177) -/

/-- R177: the page shown. -/
def pageShown (p : Part) : Option Nat :=
  if p.ctl.op = .parking ∨ p.ctl.op = .park then parkPage p.working else some p.panel.basePage

/-- R177: the top entry, when the overlay is placed. -/
def overlayTop (p : Part) : Option Entry :=
  if p.ctl.op == .run && p.ctl.proving.isNone && overlayShown p.working then p.panel.stack.head? else none

/-- The forty cells of the message text that lamp `i` names (R177). -/
def messageCells (i : Fin 32) (p : Part) : List Byte :=
  (memReadN p.working (textAddr ((lampRec p.working i).text.getD 0)) 40).map renderByte

/-- R174: the cells under the overlay. -/
def baseCells (p : Part) : List Byte :=
  match pageShown p with
  | some page => if baseShown p.working then renderPage page p else List.replicate 80 0x20
  | none => List.replicate 80 0x20

/-- R177: the frame of a composition. -/
def composeFrame (p : Part) : Frame :=
  let shown := baseShown p.working && (pageShown p).isSome
  { cells := match overlayTop p with
      | some e => (baseCells p).take 40 ++ messageCells e.lamp p
      | none => baseCells p
    baseColour := if shown then colourAt p.working (pageAddr ((pageShown p).getD 0) + 80) else 0
    overlayColour := match overlayTop p with
      | some e => overlayColour p.working e.cls
      | none => 0
    baseShown := shown
    overlayShown := (overlayTop p).isSome }

def noneByte (x : Option Nat) : Byte :=
  match x with
  | some n => BitVec.ofNat 8 n
  | none => 0xFF

/-- Table 11-11, between the edition bytes. -/
def mirrorBody (f : Frame) (p : Part) : List Byte :=
  f.cells ++ [f.baseColour, f.overlayColour, flagByte f.baseShown ||| (flagByte f.overlayShown <<< 1),
    noneByte (pageShown p), BitVec.ofNat 8 p.panel.basePage,
    noneByte ((overlayTop p).map fun e => e.lamp.val), noneByte ((overlayTop p).map fun e => e.cls.rank),
    BitVec.ofNat 8 p.panel.stack.length] ++
  (List.range 8).map (fun k => noneByte (p.panel.stack[k]?.map fun e => e.lamp.val)) ++ zeros 30

/-- R179: the mirror is rewritten, in four pieces, if any of its contents differ from what it holds. DESIGN CHOICE (log entry
43): at the first composition after a commit or a restart too, where R184 and Table 10-3 say that it is rewritten. -/
def writeMirror (f : Frame) (p : Part) : Part :=
  onlyIf (memReadN p.mem (mirrorAddr + 1) 126 != mirrorBody f p) (Part.rewriteLongRecord mirrorAddr (mirrorBody f p)) p

/-- R180: the panel line is active. -/
def Part.lineActive (p : Part) : Bool :=
  p.ctl.strap && p.ctl.restart.isNone &&
  (match p.ctl.op with
   | .init => false
   | .unconfigured => false
   | .park => (parkPage p.working).isSome
   | .starting => true
   | .run => true
   | .parking => true)

/-- R180: an idle line forgets the last frame sent (log entry 27). -/
def forgetFrameIfIdle (p : Part) : Part :=
  onlyIf (!p.lineActive) (setPanel fun q => { q with lastSent := none, sinceSend := 0 }) p

/-- R180: the frame is sent if it differs from the last one sent, or if ten refreshes have passed since. -/
def sendFrame (f : Frame) (p : Part) : Part :=
  if p.lineActive then
    setPanel (fun q => if q.lastSent ≠ some f ∨ 10 ≤ q.sinceSend + 1 then { q with lastSent := some f, sinceSend := 0 }
      else { q with sinceSend := q.sinceSend + 1 }) p
  else forgetFrameIfIdle p

def bumpTop : List Entry → List Entry
  | [] => []
  | e :: es => { e with shown := e.shown + 1 } :: es

/-- R183: a composition that placed the overlay counts the top entry's shown time; an AMBER or INFO entry that reaches the
display time leaves as DISMISSED. -/
def countDisplay (top : Option Entry) (p : Part) : Part :=
  match top with
  | none => p
  | some e =>
    let q := setPanel (fun r => { r with stack := bumpTop r.stack }) p
    if e.cls ≠ .red ∧ displayLimit p.working ≤ e.shown + 1 then leaveStack e.lamp .dismissed q else q

/-- R177: a panel refresh: the mirror and the line, then the display count, the order being the model's (log entry 37). In DIP
it composes nothing and counts as a refresh passed (R180). -/
def panelRefresh (p : Part) : Part :=
  if p.inDip then setPanel (fun q => { q with sinceSend := q.sinceSend + 1 }) p
  else
    let f := composeFrame p
    countDisplay (overlayTop p) (sendFrame f (writeMirror f p))

/-- R183: the display time of an AMBER or INFO top entry has expired: it leaves as DISMISSED. A top entry that has not been
shown for the display time is left. -/
def displayTimeout (p : Part) : Part :=
  match overlayTop p with
  | some e => if e.cls ≠ .red ∧ displayLimit p.working ≤ e.shown then leaveStack e.lamp .dismissed p else p
  | none => p

/-- R178: the base page becomes the start page. -/
def toStartPage (p : Part) : Part := setPanel (fun q => { q with basePage := startPage p.working }) p

/-- PANEL_REFRESH (R177): every 100 ms outside INIT and restarts. -/
def execPanelRefresh (s : State) : Host.Outcome State Fault Refusal :=
  .next { s with toPart := onlyIf s.live panelRefresh s.toPart }

/-- MESSAGE_DISPLAY_TIMEOUT (R183): taken while the overlay is placed and its entry has reached the display time; a panel
refresh that brings the time to its limit takes the expiry itself (log entry 4). -/
def execMessageDisplayTimeout (s : State) : Host.Outcome State Fault Refusal :=
  .next { s with toPart := onlyIf (s.live && !s.inDip) displayTimeout s.toPart }

end Sys2Proof.Machine
end

