-- ==== Sys2Proof/Machine/Lamps.lean ====
section
/-! DEFINITION. The Lamp Unit (chapter 7): output composition and dimming, conditions, the lamp state machine, open and short
diagnosis, the flash generators, and the values at commits and restarts. -/

namespace Sys2Proof.Machine

/-! ### Output composition (7.4) -/

/-- R136: the proving cycle forces the lamp. -/
def lampForced (p : Part) (i : Fin 32) : Bool :=
  let r := lampRec p.working i
  p.ctl.proving.isSome && r.kind != .none && r.prove && r.drive && p.lamps[i].diag != .short

/-- R133: the lamp is eligible; in a restart every output is off (R55). -/
def lampEligible (p : Part) (i : Fin 32) : Bool :=
  let r := lampRec p.working i
  r.kind != .none && r.drive && p.lamps[i].diag != .short && p.ctl.restart.isNone &&
  (match p.ctl.op with
   | .run => true
   | .parking => r.park
   | .park => r.park
   | .init => false
   | .unconfigured => false
   | .starting => false)

/-- R133: the output mode that a lamp state gives. -/
def stateMode (r : LampRec) : LampState → OutMode
  | .on => r.pattern
  | .acked => .steady
  | .latched => .slow
  | .off => .unlit
  | .pending => .unlit

/-- R133, R136: the output mode as composed. -/
def composedMode (p : Part) (i : Fin 32) : OutMode :=
  if lampForced p i then .steady
  else if lampEligible p i then stateMode (lampRec p.working i) p.lamps[i].state
  else .unlit

/-- R133, R134: a mode is lit in the generators' present phases. -/
def modeLit (u : LampUnit) : OutMode → Bool
  | .unlit => false
  | .steady => true
  | .slow => u.slowLit
  | .fast => u.fastLit

/-- R135: the dimming level, 0 to 15. -/
def dimLevel (p : Part) : Nat :=
  if (dimmingChannel p.working).isSome && (p.lampU.dim.quality == .good || p.lampU.dim.quality == .held) then
    (max 0 (min 15 p.lampU.dim.value)).toNat
  else 15

/-- R135: the duty of a lit output in sixteenths, with the red floor. -/
def litDuty (p : Part) (i : Fin 32) : Nat :=
  (if (lampRec p.working i).cls = .red then max (dimLevel p) 8 else dimLevel p) + 1

/-- R135, R137: the output takes its present level and writes its pending duty, unless a dip holds the image. DESIGN CHOICE (log
entry 39): the output counts as lit, for the sense check, SNAPSHOT and overcurrent, from its composition on, at a recovery too;
its duty follows at the period boundary. R135 and R138 do not say from which moment it counts. -/
def driveLamp (i : Fin 32) (p : Part) : Part :=
  if p.inDip then p
  else
    let lit := modeLit p.lampU p.lamps[i].mode
    setLamp i (fun l => { l with lit := lit, pending := if lit then litDuty p i else 0 }) p

/-- R133, R138: the mode is composed anew; a mode leaving UNLIT clears the sense reading and the low-current count. -/
def composeLamp (i : Fin 32) (p : Part) : Part :=
  let m := composedMode p i
  driveLamp i (updLamp i (fun l =>
    if l.mode = .unlit ∧ m ≠ .unlit then { l with mode := m, sense := .none, lowCount := 0 } else { l with mode := m }) p)

/-- R136: every mode is composed anew. DESIGN CHOICE (log entry 44): in ascending order, each lamp's record rewritten before the
next lamp's; R144 orders the rewrites of one lamp alone. -/
def composeLamps (p : Part) : Part := forEach allLamps composeLamp p

/-! ### The lamp state machine (7.3) -/

/-- The on-delay timer's time in µs (R130). -/
def onDelayTime (r : LampRec) : Nat := r.onDelay * 100000

/-- R132: entering ON makes the chime demand of the lamp's class. -/
def lampEntersOn (i : Fin 32) (p : Part) : Part :=
  let r := lampRec p.working i
  if !r.chime then p
  else match r.cls with
    | .red => chimeDemand i p
    | .amber => chimeDemand i (setLamp i (fun l => { l with owed := true }) p)
    | .info => p

/-- R129, R132: lamp `i` changes to a new state. DESIGN CHOICE (log entry 44): the record, the output, the chime and the Panel
Unit follow, in that order. -/
def lampChange (i : Fin 32) (after : LampState) (p : Part) : Part :=
  let r := lampRec p.working i
  let before := p.lamps[i].state
  let q := composeLamp i (updLamp i (fun l =>
    { l with state := after, onDelay := if after = .pending then some (onDelayTime r) else none }) p)
  let q := if after = .on then lampEntersOn i q else if before = .on then chimeWithdraw i q else q
  if r.text.isSome then panelReport i before after q else q

/-- Table 7-4: the condition has become `truth`. -/
def conditionEvent (i : Fin 32) (truth : Bool) (p : Part) : Part :=
  let r := lampRec p.working i
  match p.lamps[i].state, truth with
  | .off, true => lampChange i (if r.onDelay = 0 then .on else .pending) p
  | .pending, false => lampChange i .off p
  | .on, false => lampChange i (if r.latch then .latched else .off) p
  | .acked, false => lampChange i .off p
  | .latched, true => lampChange i .on p
  | _, _ => p

/-- Table 7-4: the lamp is acknowledged. -/
def acknowledge (i : Fin 32) (p : Part) : Part :=
  match p.lamps[i].state with
  | .on => lampChange i .acked p
  | .latched => lampChange i .off p
  | _ => p

/-- Table 7-4, R130: a running on-delay timer expires. -/
def onDelayExpiry (i : Fin 32) (p : Part) : Part :=
  if p.lamps[i].state = .pending ∧ p.lamps[i].onDelay.isSome then lampChange i .on p else p

/-! ### Conditions (7.2) -/

/-- A result holds a trusted value (GOOD or HELD). -/
def Result.trusted (x : Result) : Bool := x.quality == .good || x.quality == .held

/-- R123: the hysteresis truth from the last notified result of the channel. -/
def hysteresis (r : LampRec) (x : Result) (held : Bool) : Bool :=
  match r.kind with
  | .above =>
    if x.trusted then (if r.onAt ≤ x.value then true else if x.value ≤ r.offAt then false else held)
    else if x.quality = .dip then held else false
  | .below =>
    if x.trusted then (if x.value ≤ r.onAt then true else if r.offAt ≤ x.value then false else held)
    else if x.quality = .dip then held else false
  | _ => false

/-- R124: the channel holds no trusted value because of a fault. -/
def invalidQuality : Quality → Bool
  | .stale => true
  | .low => true
  | .high => true
  | .fault => true
  | .unset => false
  | .good => false
  | .held => false
  | .dip => false

/-- R126: some used prove lamp is OPEN or SHORT. -/
def anyLampFault (p : Part) : Bool :=
  allLamps.any fun i =>
    let r := lampRec p.working i
    r.kind != .none && r.prove && (p.lamps[i].diag == .open || p.lamps[i].diag == .short)

/-- R123 to R126: the truth of the lamp's kind, before the gate. -/
def kindTruth (p : Part) (i : Fin 32) (hyst : Bool) : Bool :=
  let r := lampRec p.working i
  let l := p.lamps[i]
  match r.kind with
  | .none => false
  | .above => hyst
  | .below => hyst
  | .invalid => invalidQuality l.chanLast.quality
  | .switch => l.chanLast.trusted && l.chanLast.value != 0
  | .request => l.requested
  | .drivetime => p.lampU.warn.getLsbD r.selector
  | .lampfault => anyLampFault p

/-- R127: the gate is open, or there is none. -/
def gateOpen (p : Part) (i : Fin 32) : Bool :=
  let r := lampRec p.working i
  match r.gate with
  | none => true
  | some _ => p.lamps[i].gateLast.trusted && decide (r.gateAt ≤ p.lamps[i].gateLast.value)

/-- R128: while conditions are frozen, those of park lamps of kind REQUEST, DRIVETIME and LAMPFAULT are not. -/
def conditionFrozen (p : Part) (i : Fin 32) : Bool :=
  let r := lampRec p.working i
  p.lampU.frozen && !(r.park && (r.kind == .request || r.kind == .drivetime || r.kind == .lampfault))

/-- R122: the condition is evaluated from the stored inputs; a new truth rewrites the record and is an event at the lamp
state machine. -/
def evalLamp (i : Fin 32) (p : Part) : Part :=
  if !lampUsed p.working i || conditionFrozen p i then p
  else
    let h := hysteresis (lampRec p.working i) p.lamps[i].chanLast p.lamps[i].hyst
    let truth := kindTruth p i h && gateOpen p i
    let q := setLamp i (fun l => { l with hyst := h }) p
    if truth = p.lamps[i].cond then q
    else conditionEvent i truth (updLamp i (fun l => { l with cond := truth }) q)

/-- Every condition is evaluated, the lamps in ascending order (log entry 12). -/
def evalLamps (p : Part) : Part := forEach allLamps evalLamp p

/-- R126: the LAMPFAULT lamps are evaluated at each change of a diagnosis, in ascending order (log entry 12). -/
def evalLampFaults (p : Part) : Part :=
  forEach (allLamps.filter fun (i : Fin 32) => (lampRec p.working i).kind == .lampfault) evalLamp p

/-- R162: the Lamp Unit is told of one warning and evaluates every DRIVETIME lamp that names it, in ascending order (log
entry 12). -/
def tellWarning (w : Nat) (active : Bool) (p : Part) : Part :=
  let bits := if active then p.lampU.warn ||| (1#6 <<< w) else p.lampU.warn &&& ~~~(1#6 <<< w)
  forEach (allLamps.filter fun (i : Fin 32) => (lampRec p.working i).kind == .drivetime && (lampRec p.working i).selector == w)
    evalLamp { p with lampU := { p.lampU with warn := bits } }

/-- R162: the whole set of active warnings is reported to the Lamp Unit, which evaluates the DRIVETIME lamps in ascending
order (log entry 12). -/
def reportWarnings (p : Part) : Part :=
  forEach (allLamps.filter fun (i : Fin 32) => (lampRec p.working i).kind == .drivetime) evalLamp
    { p with lampU := { p.lampU with warn := p.acct.warnings } }

/-- R97, R122: a lamp stores a notified result of its channel or gate channel and is evaluated. -/
def notifyLamp (c : Fin 32) (x : Result) (i : Fin 32) (p : Part) : Part :=
  let r := lampRec p.working i
  let own := r.kind.usesChannel && r.chan == c.val
  let gate := r.gate == some c.val
  if r.kind != .none && (own || gate) then
    evalLamp i (setLamp i (fun l =>
      { l with chanLast := if own then x else l.chanLast, gateLast := if gate then x else l.gateLast }) p)
  else p

/-- R135: the dimming level is taken anew at each notification of the dimming channel. -/
def notifyDimming (c : Fin 32) (x : Result) (p : Part) : Part :=
  if dimmingChannel p.working = some c then
    forEach allLamps driveLamp { p with lampU := { p.lampU with dim := x } }
  else p

/-! ### Diagnosis (7.5) -/

/-- R138 to R140: a lamp's diagnosis changes with its sense reading and count: the record is rewritten, LAMPFAULT is set on
a new OPEN or SHORT, the output is composed anew, and the LAMPFAULT lamps are evaluated. DESIGN CHOICE (log entry 44): the
notice comes before the rewrite of the lamp's new output mode and before the evaluations; R140 puts it after the rewrite that
shows the diagnosis and orders no more. -/
def setDiag (i : Fin 32) (d : Diag) (sense : Sense) (count : Nat) (p : Part) : Part :=
  let q := updLamp i (fun l => { l with diag := d, sense := sense, lowCount := count }) p
  if d = p.lamps[i].diag then q
  else evalLampFaults (composeLamp i (onlyIf (d == .open || d == .short) (setNotice .lampfault) q))

/-- R139: at the beginning of a proving cycle each SHORT diagnosis is retried, in ascending order, which is a DESIGN CHOICE (log
entry 44). -/
def retryShorts (p : Part) : Part :=
  forEach (allLamps.filter fun (i : Fin 32) => p.lamps[i].diag == .short) (fun i => setDiag i .untested .none 0) p

/-- R138: a lit output gives a reading. -/
def senseLamp (low : Bool) (i : Fin 32) (p : Part) : Part :=
  let l := p.lamps[i]
  if low then
    let n := min 3 (l.lowCount + 1)
    setDiag i (if n = 3 then .open else l.diag) .low n p
  else setDiag i (if l.diag = .untested ∨ l.diag = .open then .ok else l.diag) .normal 0 p

/-- R138: the sense check; an image held by a dip gives no reading. The lamps that read are those lit at the check, in
ascending order (log entry 12). -/
def senseCheck (low : BitVec 32) (p : Part) : Part :=
  if p.inDip then p
  else forEach (allLamps.filter fun (i : Fin 32) => p.lamps[i].lit) (fun i => senseLamp (low.getLsbD i) i) p

/-- R139: the driver switches a lit output off at once and the diagnosis becomes SHORT. -/
def overcurrent (i : Fin 32) (p : Part) : Part :=
  if p.lamps[i].lit then
    setDiag i .short .over p.lamps[i].lowCount
      (setLamp i (fun l => { l with lit := false, pending := 0, active := 0 }) p)
  else p

/-! ### Generators and period boundaries -/

/-- R134: a generator changes its phase; the lamps that follow it change with it. -/
def flashChange (fast : Bool) (p : Part) : Part :=
  let u := if fast then { p.lampU with fastLit := !p.lampU.fastLit } else { p.lampU with slowLit := !p.lampU.slowLit }
  let m := if fast then OutMode.fast else OutMode.slow
  forEach (allLamps.filter fun (i : Fin 32) => p.lamps[i].mode == m) driveLamp { p with lampU := u }

/-- R135, R137: at the period boundary each pending duty becomes active, unless a dip holds the outputs. -/
def lampBoundary (p : Part) : Part :=
  if p.inDip then p else forEach allLamps (fun i => setLamp i fun l => { l with active := l.pending }) p

/-! ### Resets (7.8) -/

/-- R145: the values of a commit and of a restart's end; the last notified results, the diagnosis with its count and
reading, and the output image are kept. -/
def lampResetValues (l : Lamp) : Lamp :=
  { l with state := .off, cond := false, hyst := false, requested := false, onDelay := none, msg := .none, owed := false }

/-- R145: every lamp goes to OFF, the arbiter returns to its starting values, the stack empties (R184), the modes are
composed, and every record is rewritten once, in ascending order, which is a DESIGN CHOICE (log entry 44). -/
def resetLamps (p : Part) : Part :=
  let q := chimeReset (setPanel (fun r => { r with stack := [] })
    (forEach allLamps (fun i => setLamp i lampResetValues) p))
  let q := forEach allLamps (fun i r =>
    driveLamp i (setLamp i (fun l => { l with mode := composedMode r i }) r)) q
  forEach allLamps rewriteLamp q

/-- R55, R145: at the start of a restart every output is turned off and the on-delay timers stop. -/
def lampsOff (p : Part) : Part :=
  forEach allLamps (fun i => setLamp i fun l => { l with lit := false, pending := 0, active := 0, onDelay := none }) p

/-- ON_DELAY_EXPIRY (R130): taken while the lamp's on-delay timer runs, outside INIT and restarts. -/
def execOnDelayExpiry (lamp : Fin 32) (s : State) : Host.Outcome State Fault Refusal :=
  .next { s with toPart := onlyIf s.live (onDelayExpiry lamp) s.toPart }

/-- FLASH_PHASE_CHANGE (R134): the generators stop in restarts. -/
def execFlashPhaseChange (fast : Bool) (s : State) : Host.Outcome State Fault Refusal :=
  .next { s with toPart := onlyIf s.live (flashChange fast) s.toPart }

/-- LAMP_PERIOD_BOUNDARY (R135). -/
def execLampPeriodBoundary (s : State) : Host.Outcome State Fault Refusal :=
  .next { s with toPart := lampBoundary s.toPart }

/-- SENSE_CHECK (R138): bit n of `low` tells that a lit output Ln draws less than the open limit (log entry 29). -/
def execSenseCheck (low : BitVec 32) (s : State) : Host.Outcome State Fault Refusal :=
  .next { s with toPart := onlyIf s.live (senseCheck low) s.toPart }

/-- OVERCURRENT (R139): a dip does not hold it back (R137). -/
def execOvercurrent (lamp : Fin 32) (s : State) : Host.Outcome State Fault Refusal :=
  .next { s with toPart := onlyIf s.live (overcurrent lamp) s.toPart }

end Sys2Proof.Machine
end

