-- ==== Sys2Proof/Machine/Accounting.lean ====
section
/-! DEFINITION. The Accounting Unit (chapter 8): records, warnings, effective activities, the motion detector, cards, seats,
the clock, counting and derived values. -/

namespace Sys2Proof.Machine

def setAcct (f : Acct → Acct) (p : Part) : Part := { p with acct := f p.acct }

def getSeat (a : Acct) : SeatId → Option Seat
  | .one => a.seat1
  | .two => a.seat2

def putSeat (id : SeatId) (x : Option Seat) (p : Part) : Part :=
  setAcct (fun a => match id with
    | .one => { a with seat1 := x }
    | .two => { a with seat2 := x }) p

def otherSeat : SeatId → SeatId
  | .one => .two
  | .two => .one

/-! ### The accounting area (R165, Table 11-10) -/

/-- The summary between its edition bytes. -/
def summaryBody (a : Acct) : List Byte :=
  flagByte a.moving :: a.warnings.zeroExtend 8 :: flagByte a.timeValid :: (leBytes 4 a.clock.toNat ++ zeros 23)

/-- A seat record between its edition bytes; an absent one is all zero. The warning flags are seat 1's alone (R161). -/
def seatBody (a : Acct) (id : SeatId) : List Byte :=
  match getSeat a id with
  | none => zeros 62
  | some x =>
    [1, x.selected.code, x.effective.code, flagByte x.split, flagByte x.breakInSpan,
      (match id with
       | .one => a.warnings.zeroExtend 8 &&& 0x0F
       | .two => 0), 0] ++
    identityBytes x.identity ++ leBytes 4 x.span ++ leBytes 4 x.cdt ++ leBytes 4 x.ddt ++ zeros 27

def rewriteSummary (p : Part) : Part := p.rewriteRecord summaryAddr (summaryBody p.acct)
def rewriteSeat (id : SeatId) (p : Part) : Part := p.rewriteLongRecord (seatAddr id) (seatBody p.acct id)

/-- R162: a warning is active that was not active at `a`. -/
def warningBegan (a : Acct) (p : Part) : Bool := (p.acct.warnings &&& ~~~a.warnings) != 0

/-- R165: after an event that found the unit at `a`: each seat record that shows a change, seat 1 first, and then the summary,
if it shows a change; `seats` and `summary` force the rewrites a rule calls for in any case. Once the summary has been
requested, the beginning of a warning sets DRIVETIME (R162). DESIGN CHOICE (log entry 40): several beginnings at one event set
it in one access; R11 and R162 do not say whether each makes one of its own. -/
def rewriteAccounting (a : Acct) (seats summary : Bool) (p : Part) : Part :=
  let p := onlyIf (seats || seatBody p.acct .one != seatBody a .one) (rewriteSeat .one) p
  let p := onlyIf (seats || seatBody p.acct .two != seatBody a .two) (rewriteSeat .two) p
  onlyIf (warningBegan a p) (setNotice .drivetime) (onlyIf (summary || summaryBody p.acct != summaryBody a) rewriteSummary p)

/-- R146: the header's clock mirror. -/
def writeClockMirror (p : Part) : Part :=
  p.store clockMirrorAddr (leBytes 4 p.acct.clock.toNat ++ [flagByte p.acct.timeValid])

/-! ### Warnings (8.6) -/

/-- The bits of the warnings (Table 11-1), in the order of Table 8-4. -/
def prewarnCont : Nat := 0
def overrunCont : Nat := 1
def prewarnDaily : Nat := 2
def overrunDaily : Nat := 3
def noCardMovingBit : Nat := 4
def speedLostBit : Nat := 5

/-- Table 8-4: whether one of the first five warnings is active, by the limits of the last second tick (R148). -/
def warningActive (a : Acct) (k : Nat) : Bool :=
  match k, a.seat1 with
  | 0, some x => decide ((a.limits.contLimit - a.limits.warnMargin) * 60 ≤ x.cdt) && decide (x.cdt ≤ a.limits.contLimit * 60)
  | 1, some x => decide (a.limits.contLimit * 60 < x.cdt)
  | 2, some x => decide ((a.limits.dailyLimit - a.limits.warnMargin) * 60 ≤ x.ddt) && decide (x.ddt ≤ a.limits.dailyLimit * 60)
  | 3, some x => decide (a.limits.dailyLimit * 60 < x.ddt)
  | 4, none => a.moving
  | _, _ => false

/-- The entry that a warning's beginning or end submits (R162). -/
def warningEntry (k : Nat) (begins : Bool) : Option Submission :=
  match k, begins with
  | 1, true => some (.overrun false)
  | 3, true => some (.overrun true)
  | 4, b => some (.noCardMoving (!b))
  | 5, b => some (.speedLost (!b))
  | _, _ => none

/-- R162: one warning begins or ends: the set, the Lamp Unit (not in a restart), and the Journal, in that order (log entry 40).
The DRIVETIME notice of a beginning follows the summary (`rewriteAccounting`). -/
def changeWarning (k : Nat) (active : Bool) (p : Part) : Part :=
  let q := setAcct (fun a => { a with
    warnings := if active then a.warnings ||| (1#6 <<< k) else a.warnings &&& ~~~(1#6 <<< k) }) p
  let q := onlyIf q.ctl.restart.isNone (tellWarning k active) q
  match warningEntry k active with
  | some e => submit e q
  | none => q

/-- Change one warning if it is not so already. -/
def putWarning (k : Nat) (active : Bool) (p : Part) : Part :=
  if p.acct.warnings.getLsbD k = active then p else changeWarning k active p

/-- R161: the first five warnings are evaluated, in the order of Table 8-4. -/
def evalWarnings (p : Part) : Part :=
  forEach [0, 1, 2, 3, 4] (fun k q => putWarning k (warningActive p.acct k) q) p

/-! ### Effective activity and rest spans (8.4.1) -/

/-- R157. -/
def effectiveOf (id : SeatId) (moving : Bool) (selected : Activity) : Activity :=
  match id with
  | .one => if moving then .driving else selected
  | .two => if moving ∧ selected = .rest then .available else selected

/-- R158: a span that ends may set the split flag, and is then 0 with its break-in-span flag clear. -/
def endSpan (l : Limits) (x : Seat) : Seat :=
  { x with
    split := x.split || (decide (l.split1 * 60 ≤ x.span) && decide (x.span < l.fullBreak * 60) && !x.breakInSpan)
    span := 0
    breakInSpan := false }

/-- R157: the effective activity of a present seat is recomputed; a change submits an ACTIVITY entry and ends or begins
its rest span. -/
def recomputeEffective (id : SeatId) (p : Part) : Part :=
  match getSeat p.acct id with
  | none => p
  | some x =>
    let e := effectiveOf id p.acct.moving x.selected
    if e = x.effective then p
    else
      let y := if x.effective = .rest then endSpan p.acct.limits x else x
      let y := if e = .rest then { y with span := 0, breakInSpan := false } else y
      submit (.activity id x.effective e) (putSeat id (some { y with effective := e }) p)

def recomputeBoth (p : Part) : Part := recomputeEffective .two (recomputeEffective .one p)

/-! ### The motion detector (8.3) -/

/-- R150, steps 1 and 2: the motion state changes; the effective activities and the warnings follow. -/
def putMotion (moving : Bool) (p : Part) : Part :=
  evalWarnings (recomputeBoth (setAcct (fun a => { a with moving := moving }) p))

/-- R150: a change of the motion state, and then the records. -/
def changeMotion (moving : Bool) (p : Part) : Part := rewriteAccounting p.acct false true (putMotion moving p)

/-- R152: the confirm timer becomes idle. -/
def idleConfirm (p : Part) : Part := setAcct (fun a => { a with confirm := none }) p

/-- SPEED_LOST begins or ends, and the summary shows it (R151, R165). -/
def putSpeedLost (active : Bool) (p : Part) : Part :=
  rewriteAccounting p.acct false false (putWarning speedLostBit active p)

/-- R152: the motion state is forced to STOPPED; the records of the event are still to be rewritten. -/
def stopMotion (p : Part) : Part :=
  let q := putWarning speedLostBit false (idleConfirm p)
  if q.acct.moving then putMotion false q else q

/-- R152, R165: the forcing as one event: its records follow it, the seats before the summary. -/
def forceStopped (p : Part) : Part := rewriteAccounting p.acct false false (stopMotion p)

/-- Classes of a notification of the motion channel (R149). -/
inductive MotionClass
  | above | below | paused | lost
  deriving DecidableEq, Repr

/-- R149. -/
def motionClass (w : Mem) (x : Result) : MotionClass :=
  match x.quality with
  | .good => if (motionThreshold w : Int) < x.value then .above else .below
  | .held => if (motionThreshold w : Int) < x.value then .above else .below
  | .dip => .paused
  | .stale => .lost
  | .low => .lost
  | .high => .lost
  | .fault => .lost
  | .unset => .lost

/-- A confirm time in µs. -/
def confirmTime (w : Mem) (toMoving : Bool) : Nat := (if toMoving then motionConfirm w else stopConfirm w) * 1000000

/-- R149: the confirm timer after a notification of a class. -/
def confirmAfter (w : Mem) (moving : Bool) (c : MotionClass) (t : Option Confirm) : Option Confirm :=
  match c, t with
  | .above, t =>
    if moving then none
    else (match t with
      | some r => if r.toMoving then some { r with paused := false }
          else some { toMoving := true, left := confirmTime w true, paused := false }
      | none => some { toMoving := true, left := confirmTime w true, paused := false })
  | .below, t =>
    if moving then
      (match t with
      | some r => if r.toMoving then some { toMoving := false, left := confirmTime w false, paused := false }
          else some { r with paused := false }
      | none => some { toMoving := false, left := confirmTime w false, paused := false })
    else none
  | .paused, some r => some { r with paused := true }
  | .paused, none => none
  | .lost, _ => none

/-- R151: what a notification does to SPEED_LOST: begins it, ends it, or leaves it. -/
def speedLostAfter (moving : Bool) (x : Result) (c : MotionClass) : Option Bool :=
  match c with
  | .above => some false
  | .below => some false
  | .paused => none
  | .lost => if x.quality = .unset ∧ !moving then none else some true

/-- R149, R151: the detector takes a notification of the motion channel. `reset` tells a reset's notification; while the
channels are frozen the detector takes no other (R152). -/
def notifyMotion (c : Fin 32) (x : Result) (reset : Bool) (p : Part) : Part :=
  if motionChannel p.working = some c ∧ (reset ∨ p.channelsTake) then
    let k := motionClass p.working x
    let q := setAcct (fun a => { a with confirm := confirmAfter p.working a.moving k a.confirm }) p
    match speedLostAfter p.acct.moving x k with
    | some b => putSpeedLost b q
    | none => q
  else p

/-- R150: the running confirm timer expires; a paused one does not. -/
def confirmExpiry (p : Part) : Part :=
  match p.acct.confirm with
  | some t => if t.paused then p else changeMotion t.toMoving (idleConfirm p)
  | none => p

/-! ### The second tick (8.5, 8.8) -/

/-- A 32-bit count that saturates. -/
def satInc (n : Nat) : Nat := min (n + 1) 0xFFFFFFFF

/-- The submission of a break or a daily rest at a tick, with the seat as it stands after (R160). -/
def restThreshold (l : Limits) (id : SeatId) (x : Seat) : Seat × Option Submission :=
  let done := { x with cdt := 0, split := false, breakInSpan := true }
  if x.span = l.split2 * 60 ∧ x.split then (done, some (.breakTaken id false (BitVec.ofNat 32 x.cdt)))
  else if x.span = l.fullBreak * 60 then (done, some (.breakTaken id true (BitVec.ofNat 32 x.cdt)))
  else if x.span = l.dailyRest * 60 then
    ({ done with ddt := 0 }, some (.dailyRest id (BitVec.ofNat 32 x.cdt) (BitVec.ofNat 32 x.ddt)))
  else (x, none)

/-- R160: a present seat is counted by its effective activity. -/
def countSeat (id : SeatId) (p : Part) : Part :=
  match getSeat p.acct id with
  | none => p
  | some x =>
    match x.effective with
    | .driving => putSeat id (some { x with cdt := satInc x.cdt, ddt := satInc x.ddt, span := 0 }) p
    | .work => putSeat id (some { x with span := 0 }) p
    | .available => putSeat id (some { x with span := 0 }) p
    | .rest =>
      let (y, e) := restThreshold p.acct.limits id { x with span := satInc x.span }
      let q := putSeat id (some y) p
      match e with
      | some s => submit s q
      | none => q

/-- Table 8-5: the whole minutes left of a limit. -/
def remaining (limit count : Nat) : Nat := if limit * 60 ≤ count then 0 else (limit * 60 - count) / 60

/-- Table 8-5: a derived value of a present seat. -/
def derivedValue (l : Limits) (k : Nat) (x : Seat) : Nat :=
  match k with
  | 0 => remaining l.contLimit x.cdt
  | 1 => remaining l.dailyLimit x.ddt
  | 2 => x.span / 60
  | 3 => x.cdt / 60
  | 4 => remaining l.dailyLimit x.ddt
  | 5 => x.span / 60
  | _ => x.effective.code.toNat

/-- Table 5-4: the seat a derived value concerns. -/
def derivedSeat (k : Nat) : SeatId := if k = 4 ∨ k = 5 ∨ k = 7 then .two else .one

/-- R164: a derived value with the presence of its seat. -/
def derive (a : Acct) (k : Fin 8) : Derived :=
  match getSeat a (derivedSeat k) with
  | some x => { value := derivedValue a.limits k x, present := true }
  | none => { value := 0, present := false }

/-- R164: the eight derived values are computed. -/
def computeDerived (p : Part) : Part :=
  setAcct (fun a => { a with derived := (allSlots.foldl (fun v k => updAt k (fun _ => derive a k) v) a.derived) }) p

/-- R146, R148, R159, steps 1 and 2: the clock advances, the limits are taken from the working configuration, the seats are
counted and the warnings evaluated. -/
def tickCount (p : Part) : Part :=
  evalWarnings (countSeat .two (countSeat .one (setAcct (fun a =>
    { a with clock := a.clock + 1, limits := limitsOf p.working }) p)))

/-- R159, step 4. DESIGN CHOICE (log entry 40): the clock mirror comes last, after the seat records, the summary and the
DRIVETIME notice; R159, R162 and R165 order only the others. -/
def tickRecords (a : Acct) (p : Part) : Part := writeClockMirror (rewriteAccounting a false true p)

/-! ### Requests of the crew (8.1, 8.4, 8.7): each answers a status, answer data, and the part after. -/

/-- A request's outcome: status (Table 2-3), answer data, and the part. -/
structure Reply where
  status : Byte
  data : List Byte
  part : Part

def statusOk : Byte := 0x00
def badKind : Byte := 0x01
def badParam : Byte := 0x02
def notNow : Byte := 0x03
def inMotion : Byte := 0x04
def noCard : Byte := 0x05
def seatOccupied : Byte := 0x06
def cardDuplicate : Byte := 0x07
def notActive : Byte := 0x08
def busy : Byte := 0x09
def checkFail : Byte := 0x0A
def aborted : Byte := 0x0B

def accept (p : Part) : Reply := { status := statusOk, data := [], part := p }
def refuse (status : Byte) (p : Part) : Reply := { status := status, data := [], part := p }

def seatOf (b : Byte) : Option SeatId := if b = 1 then some .one else if b = 2 then some .two else none

/-- R147. -/
def setTime (clock : Word) (p : Part) : Part :=
  let q := setAcct (fun a => { a with clock := clock, timeValid := true }) p
  let q := submit (.timeSet p.acct.clock p.acct.timeValid clock) q
  writeClockMirror (rewriteAccounting p.acct false true q)

/-- R154: the seat record that an accepted CARD_IN makes, at its first effective activity. -/
def cardSeat (id : SeatId) (moving : Bool) (flags : Byte) (card : Identity) (cdt ddt : Half) : Seat :=
  let carried := flags.getLsbD 0
  { identity := card, selected := .work, effective := effectiveOf id moving .work, span := 0
    cdt := if carried then cdt.toNat * 60 else 0
    ddt := if carried then ddt.toNat * 60 else 0
    split := carried && flags.getLsbD 1
    breakInSpan := false }

/-- The entry of a CARD_IN (R154, R168). -/
def cardInEntry (id : SeatId) (x : Seat) : Submission :=
  .cardIn id x.identity (BitVec.ofNat 24 x.cdt) (BitVec.ofNat 24 x.ddt) x.split x.effective

/-- The entry of a CARD_OUT; its counters saturate at 16,777,215 s (9.2). -/
def cardOutEntry (id : SeatId) (x : Seat) : Submission :=
  .cardOut id x.identity (BitVec.ofNat 24 (min x.cdt 0xFFFFFF)) (BitVec.ofNat 24 (min x.ddt 0xFFFFFF)) x.split

/-- R154. -/
def cardIn (seat flags : Byte) (card : Identity) (cdt ddt : Half) (p : Part) : Reply :=
  match seatOf seat with
  | none => refuse badParam p
  | some id =>
    if (getSeat p.acct id).isSome then refuse seatOccupied p
    else if (getSeat p.acct (otherSeat id)).map (·.identity) = some card then refuse cardDuplicate p
    else if flags.getLsbD 0 ∧ ddt.toNat < cdt.toNat then refuse badParam p
    else
      let x := cardSeat id p.acct.moving flags card cdt ddt
      let q := evalWarnings (submit (cardInEntry id x) (putSeat id (some x) p))
      accept (rewriteAccounting p.acct false true q)

/-- R155. -/
def cardOut (seat : Byte) (p : Part) : Reply :=
  match seatOf seat with
  | none => refuse badParam p
  | some id =>
    match getSeat p.acct id with
    | none => refuse noCard p
    | some x =>
      let y := if x.effective = .rest then endSpan p.acct.limits x else x
      let q := evalWarnings (putSeat id none (submit (cardOutEntry id y) p))
      { status := statusOk
        data := leBytes 4 (y.cdt / 60) ++ leBytes 4 (y.ddt / 60) ++ [flagByte y.split]
        part := rewriteAccounting p.acct false true q }

/-- The activities that SET_ACTIVITY may name (R156). -/
def selectable (b : Byte) : Option Activity :=
  if b = 0 then some .rest else if b = 1 then some .available else if b = 2 then some .work else none

/-- R156. -/
def setActivity (seat activity : Byte) (p : Part) : Reply :=
  match seatOf seat, selectable activity with
  | none, _ => refuse badParam p
  | some _, none => refuse badParam p
  | some id, some act =>
    match getSeat p.acct id with
    | none => refuse noCard p
    | some x =>
      let q := recomputeEffective id (putSeat id (some { x with selected := act }) p)
      accept (rewriteAccounting p.acct false false q)

/-- The identity in a seat, or sixteen zero bytes (R163). -/
def seatIdentity (x : Option Seat) : Identity := (x.map (·.identity)).getD 0

/-- R163. -/
def swapSeats (p : Part) : Reply :=
  if p.acct.moving then refuse inMotion p
  else
    let q := setAcct (fun a => { a with seat1 := p.acct.seat2, seat2 := p.acct.seat1 }) p
    let q := submit (.swap .two (seatIdentity q.acct.seat2)) (submit (.swap .one (seatIdentity q.acct.seat1)) q)
    let q := evalWarnings (recomputeBoth q)
    accept (rewriteAccounting p.acct true true q)

/-- CONFIRM_TIMER_EXPIRY (R150): taken while the timer runs unpaused, outside INIT and restarts. -/
def execConfirmTimerExpiry (s : State) : Host.Outcome State Fault Refusal :=
  .next { s with toPart := onlyIf s.live confirmExpiry s.toPart }

end Sys2Proof.Machine
end

