-- ==== Sys2Proof/Machine/Pointers.lean ====
section
/-! DEFINITION. The pointers of the Pointer Unit (chapter 6) each on its own: coils, targets, the motion law, homing steps, and
the values at dips, commits and restarts. What a pointer's events bring about in other blocks is in Control.lean. -/

namespace Sys2Proof.Machine

/-! ### Coils (6.4) -/

/-- Table 6-7: the duty pair of phases 0 to 5. -/
def dutyQuarter (k : Nat) : Duty :=
  match k with
  | 0 => { a := 0, b := 100 }
  | 1 => { a := 26, b := 97 }
  | 2 => { a := 50, b := 87 }
  | 3 => { a := 71, b := 71 }
  | 4 => { a := 87, b := 50 }
  | _ => { a := 97, b := 26 }

/-- R107: six phases on, B's duty moves to A, and A's, negated, to B. -/
def dutyTurn : Nat → Duty → Duty
  | 0, d => d
  | n + 1, d => dutyTurn n { a := d.b, b := -d.a }

/-- R107: the duty pair of a phase, 0 to 23. -/
def dutyOf (phase : Nat) : Duty := dutyTurn (phase / 6) (dutyQuarter (phase % 6))

def undriven : Duty := { a := 0, b := 0 }

/-- R117: a used pointer that is not RELEASED is frozen while the supply is in DIP. -/
def ptrFrozen (p : Part) (i : Fin 6) : Bool := p.inDip && ptrUsed p.working i && p.ptrs[i].state != .released

/-- R108: a phase is applied: the pending pair is written, unless a dip holds the coils. -/
def applyPhase (i : Fin 6) (phase : Nat) (p : Part) : Part :=
  setPtr i (fun x => { x with phase := phase, pending := if p.inDip then x.pending else dutyOf phase }) p

/-- R107: outside HOMING the phase of a driven pointer is its position modulo 24. -/
def applyPosition (i : Fin 6) (p : Part) : Part := applyPhase i (p.ptrs[i].pos % 24) p

/-- R108: a release writes 0 % for both coils. -/
def releaseCoils (i : Fin 6) (p : Part) : Part := setPtr i (fun x => { x with pending := undriven }) p

/-- R108: a pointer's coils are held in a dip, unless it is RELEASED. -/
def coilsHeld (p : Part) (i : Fin 6) : Bool := p.inDip && p.ptrs[i].state != .released

/-- R108: at the period boundary each pending pair becomes active, unless the coils are held. -/
def coilBoundary (p : Part) : Part :=
  forEach allPtrs (fun i q => if coilsHeld q i then q else setPtr i (fun x => { x with active := x.pending }) q) p

/-! ### Targets (6.2) -/

/-- R103: a channel value mapped to a microstep. -/
def scaleTarget (r : PtrRec) (v : Int) : Nat := (interp r.scale v).toNat

/-- Table 6-5: the target in FOLLOW. -/
def followTarget (r : PtrRec) (x : Ptr) : Nat :=
  match x.last.quality with
  | .good => scaleTarget r x.last.value
  | .held => scaleTarget r x.last.value
  | .dip => x.pos
  | .unset => if r.hold then x.target else 0
  | .stale => if r.hold then x.target else 0
  | .low => if r.hold then x.target else 0
  | .high => if r.hold then x.target else 0
  | .fault => if r.hold then x.target else 0

/-- R104: entry to FOLLOW: the target is set from the last channel result and the coils hold the position. -/
def enterFollow (i : Fin 6) (p : Part) : Part :=
  let r := ptrRec p.working i
  applyPosition i (updPtr i (fun x => { x with state := .follow, target := followTarget r x }) p)

/-- R104: a notification updates the last channel result, and in FOLLOW the target. -/
def notifyPtr (c : Fin 32) (res : Result) (i : Fin 6) (p : Part) : Part :=
  let r := ptrRec p.working i
  if r.used && r.chan == c.val then
    updPtr i (fun x =>
      let y := { x with last := res }
      if x.state = .follow then { y with target := followTarget r y } else y) p
  else p

/-! ### The motion law (6.3) -/

/-- R105, steps 2 and 3: the step q for an error of magnitude `n` and direction `up`. -/
def motionStep (n : Nat) (up : Bool) (s : Int) (shift smax : Nat) : Nat :=
  let q := min (max (n / 2 ^ shift) 1) smax
  if (up && decide (0 < s)) || (!up && decide (s < 0)) then min q (s.natAbs + 1) else 1

/-- R105: the position and speed after a motion tick. -/
def motionLaw (pos target : Nat) (s : Int) (shift smax : Nat) : Nat × Int :=
  if target = pos then (pos, 0)
  else if pos < target then
    let q := motionStep (target - pos) true s shift smax
    (pos + q, q)
  else
    let q := motionStep (pos - target) false s shift smax
    (pos - q, -(q : Int))

/-- R106. -/
def atRestAt (x : Ptr) (n : Nat) : Bool := x.pos == n && x.target == n && x.speed == 0

/-- A state in which the motion law moves the pointer (R105). -/
def PtrState.moves : PtrState → Bool
  | .sweep => true
  | .follow => true
  | .return => true
  | .released => false
  | .homeNeeded => false
  | .homing => false

/-- R105, R111: one pointer's part of a motion tick: a homing step, or the motion law. The end of a homing and the
judgement of rest come after. -/
def tickPtr (i : Fin 6) (p : Part) : Part :=
  let r := ptrRec p.working i
  let x := p.ptrs[i]
  if !r.used || ptrFrozen p i then p
  else if x.state = .homing then
    applyPhase i ((x.phase + 23) % 24) (updPtr i (fun x => { x with speed := -1, stepsLeft := x.stepsLeft - 1 }) p)
  else if x.state.moves then
    let (pos, speed) := motionLaw x.pos x.target x.speed r.shift r.smax
    let q := updPtr i (fun x => { x with pos := pos, speed := speed }) p
    if pos = x.pos then q else applyPosition i q
  else p

/-! ### Homing (6.6) -/

/-- R110: a homing takes T + 64 steps. -/
def homingSteps (w : Mem) (i : Fin 6) : Nat := (ptrRec w i).travel + 64

/-- R110: a homing begins, or begins again; its record is rewritten (R102). -/
def homingBegin (i : Fin 6) (p : Part) : Part :=
  let n := homingSteps p.working i
  rewritePtr i (applyPhase i (n % 24)
    (setPtr i (fun x => { x with state := .homing, homeNeeded := true, speed := 0, target := 0, stepsLeft := n }) p))

/-- Some used pointer is homing. -/
def anyHoming (p : Part) : Bool := allPtrs.any fun (i : Fin 6) => ptrUsed p.working i && p.ptrs[i].state == .homing

/-- R40: every used pointer stands at 0 with speed 0, not homing and not frozen; an unused one counts as at rest. -/
def allAtRest (p : Part) : Bool :=
  allPtrs.all fun (i : Fin 6) => !ptrUsed p.working i ||
    (p.ptrs[i].pos == 0 && p.ptrs[i].speed == 0 && p.ptrs[i].state != .homing && !ptrFrozen p i)

/-! ### Directions and resets (6.7, 6.8) -/

/-- R115: at entry to PARKING a pointer in FOLLOW or SWEEP enters RETURN with target 0 and its speed kept. -/
def enterReturn (i : Fin 6) (p : Part) : Part :=
  let x := p.ptrs[i]
  if ptrUsed p.working i && (x.state == .follow || x.state == .sweep) then
    updPtr i (fun x => { x with state := .return, target := 0 }) p
  else p

/-- R116: a pointer at rest at 0 is released; its mark stays clear. -/
def releasePtr (i : Fin 6) (p : Part) : Part :=
  if ptrUsed p.working i then
    releaseCoils i (updPtr i (fun x => { x with state := .released, pos := 0, target := 0, speed := 0 }) p)
  else p

/-- R117: a dip start freezes the used pointers that are not RELEASED: the speed becomes 0. A homing's record is rewritten
in any case (R102). -/
def freezePtr (i : Fin 6) (p : Part) : Part :=
  if ptrUsed p.working i && p.ptrs[i].state != .released then
    if p.ptrs[i].state = .homing then rewritePtr i (setPtr i (fun x => { x with speed := 0 }) p)
    else updPtr i (fun x => { x with speed := 0 }) p
  else p

/-- R117: a recovery frees a pointer: a homing begins again; in the other driven states the coils take the phase of the
position. -/
def thawPtr (i : Fin 6) (p : Part) : Part :=
  if !ptrUsed p.working i then p
  else if p.ptrs[i].state = .homing then homingBegin i p
  else if p.ptrs[i].state.moves then applyPosition i p
  else p

/-- R118: a pointer at a successful commit, under the new records. -/
def commitPtr (i : Fin 6) (p : Part) : Part :=
  let zero (st : PtrState) (x : Ptr) : Ptr :=
    { x with state := st, homeNeeded := true, pos := 0, target := 0, speed := 0, stepsLeft := 0, sweep := .waiting }
  if !ptrUsed p.working i then releaseCoils i (updPtr i (zero .released) p)
  else if p.ptrs[i].state = .released then updPtr i (zero .released) p
  else updPtr i (zero .homeNeeded) p

/-- R119: at the start of a restart every pointer enters RELEASED with its coils released; its progress is lost. -/
def restartPtr (i : Fin 6) (p : Part) : Part :=
  releaseCoils i (updPtr i (fun x => { x with state := .released, stepsLeft := 0, sweep := .waiting }) p)

/-- R119: at the end of a restart every pointer is RELEASED with the mark set; its record is rewritten once. -/
def restartEndPtr (i : Fin 6) (p : Part) : Part :=
  rewritePtr i (releaseCoils i (setPtr i (fun x =>
    { x with state := .released, homeNeeded := true, pos := 0, target := 0, speed := 0, phase := 0, stepsLeft := 0,
             sweep := .waiting }) p))

/-- COIL_PERIOD_BOUNDARY (R108). -/
def execCoilPeriodBoundary (s : State) : Host.Outcome State Fault Refusal :=
  .next { s with toPart := coilBoundary s.toPart }

end Sys2Proof.Machine
end

