-- ==== Sys2Proof/Machine/Channels.lean ====
section
/-! DEFINITION. The Channel Table (chapter 5): scaling, plausibility, quality and persistence, the filter, inbox flags and
ages, ACCOUNT absences, dips and resets, the result record and the notification of consumers; and the second tick, which
delivers derived values. -/

namespace Sys2Proof.Machine

/-! ### Consumers (R97, log entry 12) -/

def chanResult (x : Chan) : Result := { quality := x.quality, value := x.value }

/-- R97: a channel's result is told to its pointers, its lamps and the dimming level. -/
def notifyShown (c : Fin 32) (p : Part) : Part :=
  let x := chanResult p.chans[c]
  notifyDimming c x (forEach allLamps (notifyLamp c x) (forEach allPtrs (notifyPtr c x) p))

/-- R97: a channel's result is told to those and to the motion detector. -/
def notifyChan (c : Fin 32) (reset : Bool) (p : Part) : Part := notifyMotion c (chanResult p.chans[c]) reset (notifyShown c p)

/-- R96: the qualities whose entry sets the STALE notice. -/
def distrusted : Quality → Bool := invalidQuality

/-- R94 to R96: a change of a channel's running state that a taken arrival, an age advance or a dip start makes: the update
count rises, the record is rewritten, and STALE is set on entering STALE, LOW, HIGH or FAULT. -/
def putChan (c : Fin 32) (new : Chan) (p : Part) : Part :=
  let q := rewriteChan c (setChan c (fun _ => { new with update := p.chans[c].update + 1 }) p)
  onlyIf (distrusted new.quality && new.quality != p.chans[c].quality) (setNotice .stale) q

/-- R94 to R97: a change of a channel's running state, and the consumers are told. DESIGN CHOICE (log entry 12): the
rewrite of the channel's record, and then the STALE notice, are requested before they are told; R94 and R97 give no order, and
R96 puts the notice after the rewrite and says no more. -/
def changeChan (c : Fin 32) (new : Chan) (p : Part) : Part := notifyChan c false (putChan c new p)

/-- The same change within the second tick, whose work no notification of the motion detector divides (R159): the other
consumers are told. -/
def changeChanInTick (c : Fin 32) (new : Chan) (p : Part) : Part := notifyShown c (putChan c new p)

/-! ### Scaling (5.3) -/

/-- R82: LINEAR mode: the quotient is rounded toward zero. -/
def scaleLinear (r : ChanRec) (raw : Int) : Int := (raw * r.mul).tdiv r.div + r.offset

/-- R82, R83, R90: the scaled value; an ACCOUNT value is always scaled in LINEAR mode. -/
def scaleRaw (w : Mem) (r : ChanRec) (raw : Int) : Int :=
  match r.curve with
  | some k => if r.kind = .account then scaleLinear r raw else interp (curvePoints w k) raw
  | none => scaleLinear r raw

/-- Where a raw sample falls. -/
inductive Judged
  | low
  | high
  | inRange (y : Int)
  deriving DecidableEq, Repr

/-- R64, R81, R84: the sender judgement, scaling, and the plausibility test. -/
def judge (w : Mem) (r : ChanRec) (raw : Int) : Judged :=
  if r.kind = .sender ∧ raw ≤ (r.short : Int) then .low
  else if r.kind = .sender ∧ (r.openCode : Int) ≤ raw then .high
  else
    let y := scaleRaw w r raw
    if y < r.lo then .low else if r.hi < y then .high else .inRange y

/-! ### Filter, quality and persistence (5.4, 5.5) -/

/-- R85: the filter is initialised after a quality that held no trusted value. -/
def filterStarts : Quality → Bool
  | .unset => true
  | .stale => true
  | .low => true
  | .high => true
  | .fault => true
  | .good => false
  | .held => false
  | .dip => false

/-- R87: the accumulator after an in-range sample. -/
def filterAcc (q : Quality) (acc : Int) (k : Nat) (y : Int) : Int :=
  if filterStarts q then y * 2 ^ k else acc - acc.fdiv (2 ^ k) + y

/-- R85, R87: an in-range sample. -/
def takeInRange (r : ChanRec) (y : Int) (x : Chan) : Chan :=
  let acc := filterAcc x.quality x.acc r.shift y
  { x with quality := .good, count := 0, acc := acc, value := acc.fdiv (2 ^ r.shift) }

/-- R86: an out-of-range sample of the low or the high side. -/
def takeOutOfRange (r : ChanRec) (high : Bool) (x : Chan) : Chan :=
  let n := min (x.count + 1) r.persistence
  { x with
    count := n
    quality := if n = r.persistence then (if high then .high else .low)
      else if x.quality = .good ∨ x.quality = .held ∨ x.quality = .dip then .held else x.quality }

def takeJudged (r : ChanRec) (j : Judged) (x : Chan) : Chan :=
  match j with
  | .low => takeOutOfRange r false x
  | .high => takeOutOfRange r true x
  | .inRange y => takeInRange r y x

/-! ### Arrivals (5.2) -/

/-- R79: the arrival is taken; a SENDER arrival only outside DIP and SETTLE. -/
def arrivalTaken (p : Part) (kind : SourceKind) : Bool :=
  p.channelsTake && !(kind == .sender && p.ctl.supply != .normal)

/-- R80: a channel's running state after a raw sample. -/
def sampleTaken (w : Mem) (c : Fin 32) (raw : Int) (x : Chan) : Chan :=
  let r := chanRec w c
  takeJudged r (judge w r raw) x

/-- R80: a raw sample at a channel. -/
def sampleChan (raw : Int) (c : Fin 32) (p : Part) : Part := changeChan c (sampleTaken p.working c raw p.chans[c]) p

/-- R58, R78: a delivery reaches every used channel that names its source, in the order of the channels. -/
def deliverTo (kind : SourceKind) (index : Nat) (f : Fin 32 → Part → Part) (p : Part) : Part :=
  if arrivalTaken p kind then
    forEach (allChans.filter fun (c : Fin 32) => chanNames p.working c kind index) f p
  else p

def deliver (kind : SourceKind) (index : Nat) (raw : Int) (p : Part) : Part :=
  deliverTo kind index (sampleChan raw) p

/-- Inbox flags (Table 11-1). -/
inductive InboxFlag
  | valid | notAvailable | fault
  deriving DecidableEq, Repr

/-- R17: any other flag byte is delivered as FAULT. -/
def inboxFlag (b : Byte) : InboxFlag := if b = 1 then .valid else if b = 2 then .notAvailable else .fault

/-- R88: an inbox delivery at a channel. -/
def inboxChan (f : InboxFlag) (value : Int) (c : Fin 32) (p : Part) : Part :=
  let r := chanRec p.working c
  let x := p.chans[c]
  match f with
  | .valid => changeChan c { takeJudged r (judge p.working r value) x with age := 0 } p
  | .notAvailable => changeChan c { x with quality := .stale, count := 0, age := 0 } p
  | .fault => changeChan c { x with quality := .fault, count := 0, age := 0 } p

/-- R89: the qualities that an age beyond the limit makes STALE. -/
def agesOut : Quality → Bool
  | .good => true
  | .held => true
  | .low => true
  | .high => true
  | .unset => false
  | .stale => false
  | .dip => false
  | .fault => false

/-- R89: the advance of age at a channel. -/
def ageChan (t : Nat) (c : Fin 32) (p : Part) : Part :=
  let a := min 65535 (p.chans[c].age + t)
  if (chanRec p.working c).ageLimit * 100 < a ∧ agesOut p.chans[c].quality then
    changeChan c { p.chans[c] with age := a, quality := .stale, count := 0 } p
  else setChan c (fun x => { x with age := a }) p

/-- R22, R89: at a periodic scan the used INBOX channels age. -/
def advanceAges (t : Nat) (p : Part) : Part :=
  if p.channelsTake then
    forEach (allChans.filter fun (c : Fin 32) => chanKind p.working c == .inbox) (ageChan t) p
  else p

/-- R90: a derived value, or its absence, at an ACCOUNT channel. -/
def accountChan (d : Derived) (c : Fin 32) (p : Part) : Part :=
  if d.present then changeChanInTick c (sampleTaken p.working c d.value p.chans[c]) p
  else if p.chans[c].quality = .unset then p
  else changeChanInTick c { p.chans[c] with quality := .unset, value := 0, acc := 0, count := 0 } p

/-- R164: the eight derived values are delivered. DESIGN CHOICE (log entry 12): in the order of their selectors, so channels of
different selectors need not change in the order of their indices; R90 and R164 give no order. -/
def deliverDerived (p : Part) : Part :=
  forEach allSlots (fun k q => deliverTo .account k (accountChan p.acct.derived[k]) q) p

/-! ### Dips and resets (5.8, 5.11) -/

/-- R91: at a dip start every used SENDER channel that is GOOD or HELD becomes DIP. -/
def dipChan (c : Fin 32) (p : Part) : Part :=
  if chanKind p.working c == .sender && (p.chans[c].quality == .good || p.chans[c].quality == .held) then
    changeChan c { p.chans[c] with quality := .dip } p
  else p

/-- R99, R100: a channel's reset: its record is rewritten with update count 0 and its consumers are told. DESIGN CHOICE (log
entry 12): in that order. -/
def resetChan (c : Fin 32) (p : Part) : Part :=
  notifyChan c true (rewriteChan c (setChan c (fun _ => Chan.reset) p))

def resetChans (p : Part) : Part := forEach allChans resetChan p

/-! ### The second tick (8.5) -/

/-- R159: the counting work of a tick, in its order. -/
def tickWork (p : Part) : Part := tickRecords p.acct (deliverDerived (computeDerived (tickCount p)))

/-- R97, R159: a motion channel that the tick has changed, `x` being the channels before it, is told to the motion detector
wholly after the tick's work. -/
def notifyTicked (x : Vector Chan 32) (p : Part) : Part :=
  match motionChannel p.working with
  | some c => onlyIf (p.chans[c].update != x[c].update) (notifyMotion c (chanResult p.chans[c]) false) p
  | none => p

/-- R159: a second tick, and the notification that it leaves. -/
def secondTick (p : Part) : Part := notifyTicked p.chans (tickWork p)

/-- SECOND_TICK (R146): from the end of INIT in every state, and through restarts. -/
def execSecondTick (s : State) : Host.Outcome State Fault Refusal :=
  .next { s with toPart := onlyIf (s.ctl.op != .init) (fun p => grantUnlessLive (secondTick p)) s.toPart }

end Sys2Proof.Machine
end

