-- ==== Sys2Proof/Machine/Inputs.lean ====
section
/-! DEFINITION. The measuring units (chapter 4): the Conversion Unit, the Pulse Unit and the switch inputs of the Discrete
Unit; their starts, stops and reset values. The ignition line's events are in Control.lean. -/

namespace Sys2Proof.Machine

/-! ### Starts, stops and values (R59, Table 4-8) -/

def setConv (f : Conv → Conv) (p : Part) : Part := { p with conv := f p.conv }
def setPulses (v : Vector PulseIn 4) (p : Part) : Part := { p with pulse := v }
def setSwitches (v : Vector Switch 8) (p : Part) : Part := { p with sw := v }
def setPulse (i : Fin 4) (f : PulseIn → PulseIn) (p : Part) : Part := { p with pulse := updAt i f p.pulse }
def setSwitch (i : Fin 8) (f : Switch → Switch) (p : Part) : Part := { p with sw := updAt i f p.sw }

/-- R66: the free count at the moment of an event; it runs from the end of INIT (log entry 6). -/
def setFree (now : Word) (p : Part) : Part := if p.ctl.op = .init then p else { p with free := now }

/-- R74, R75: every debounce count is lost and every debounced state waits for a first sample. A commit takes R74's word over
R73's for the counts (log entry 36). -/
def switchesAfresh (p : Part) : Part := setSwitches (p.sw.map fun x => { x with count := 0, taken := false }) p

/-- R63, R65, R71, R75: the units stop: a conversion in progress and the windows are dropped with their edges, the codes,
the frequencies and the debounced states are kept. -/
def unitsStop (p : Part) : Part :=
  setConv (fun c => { c with busy := none, sref := false })
    (setPulses (p.pulse.map fun x => { x with win := Edges.none, next := Edges.none, tref := none, lastEdge := none })
      (switchesAfresh p))

/-- R59, R61, R67, R74: the units start: the first slot is S0, each pulse window begins now with its configured length, and
the switch states wait for the first sample. -/
def unitsStart (p : Part) : Part :=
  setConv (fun c => { c with pos := 0, busy := none, sref := true })
    (setPulses (Vector.ofFn fun i => { p.pulse[i] with
        start := p.free, len := windowLength p.working i, win := Edges.none, next := Edges.none })
      (switchesAfresh p))

/-- Table 4-8: the codes and frequencies at 0, no edges (INIT, a restart, a PARK exit). -/
def measuresReset (p : Part) : Part :=
  setConv (fun _ => { pos := 0, busy := none, codes := Vector.replicate 8 0, sref := false })
    (setPulses (Vector.replicate 4 PulseIn.reset) p)

/-- R75: the switch states of INIT and of a restart's end. -/
def switchesReset (p : Part) : Part := setSwitches (Vector.replicate 8 Switch.reset) p

/-! ### The Conversion Unit (4.2) -/

/-- R62: ladder level n, (2n+1)/2048 of the sender reference, in units of 2^-20 (log entry 18). -/
def ladderLevel (n : Nat) : Int := (2 * n + 1) * 512

/-- R62: the trials of the bits below `n`, on top of the code so far. -/
def conversionTrials : Nat → Int → Nat → Nat
  | 0, _, c => c
  | n + 1, level, c =>
    let t := c + 2 ^ n
    conversionTrials n level (if ladderLevel (t - 1) < level then t else c)

/-- R62: the code of a held level: ten trials. -/
def conversionCode (level : Int) : Nat := conversionTrials 10 level 0

/-- R61: some used channel names the input. -/
def senderInUse (w : Mem) (i : Fin 8) : Bool := allChans.any fun (c : Fin 32) => chanNames w c .sender i

/-- R61: a slot begins a conversion of its input if that input is in use; the position advances either way. -/
def conversionSlot (level : Int) (p : Part) : Part :=
  setConv (fun c => { c with
    pos := c.pos + 1
    busy := if senderInUse p.working c.pos then some (c.pos, level) else none }) p

/-- R63: the code is stored and delivered. -/
def conversionComplete (p : Part) : Part :=
  match p.conv.busy with
  | some (i, level) =>
    let c := conversionCode level
    deliver .sender i c (setConv (fun u => { u with busy := none, codes := updAt i (fun _ => c) u.codes }) p)
  | none => p

/-- CONVERSION_SLOT (R61): a slot begins only after the previous conversion has completed or been dropped (R63). -/
def execConversionSlot (level : Int) (s : State) : Host.Outcome State Fault Refusal :=
  .next { s with toPart := onlyIf (s.unitsRun && s.conv.busy.isNone) (conversionSlot level) s.toPart }

/-- CONVERSION_COMPLETE (R63). -/
def execConversionComplete (s : State) : Host.Outcome State Fault Refusal :=
  .next { s with toPart := onlyIf s.unitsRun conversionComplete s.toPart }

/-! ### The Pulse Unit (4.3) -/

/-- A difference of two free-count values, modulo 2^32 (R66). -/
def since (t t0 : Word) : Nat := (t - t0).toNat

/-- One more accepted edge. -/
def Edges.add (e : Edges) (t : Word) : Edges := { m := e.m + 1, first := if e.m = 0 then t else e.first, last := t }

/-- R66: the edge comes too soon after the last accepted one. -/
def bounces (x : PulseIn) (t : Word) : Bool :=
  match x.lastEdge with
  | some l => decide (since t l < 20)
  | none => false

/-- R66, R67: an edge is ignored, or accepted and counted in the window whose span holds its timestamp (log entry 32). -/
def takeEdge (t : Word) (x : PulseIn) : PulseIn :=
  if bounces x t then x
  else if since t x.start < x.len then { x with lastEdge := some t, win := x.win.add t }
  else { x with lastEdge := some t, next := x.next.add t }

/-- R66: the direction that the polarity selects. -/
def edgeSelected (w : Mem) (i : Fin 4) (rising : Bool) : Bool := rising != fallingEdges w i

def pulseEdge (i : Fin 4) (rising : Bool) (now : Word) (p : Part) : Part :=
  onlyIf (p.unitsRun && edgeSelected p.working i rising) (setPulse i (takeEdge now)) (setFree now p)

/-- Table 4-6. -/
def edgesFrequency (x : PulseIn) : Nat :=
  match x.tref with
  | some t0 => x.win.m * 1000000000 / since x.win.last t0
  | none => if 2 ≤ x.win.m then (x.win.m - 1) * 1000000000 / since x.win.last x.win.first else x.freq

/-- The moment at which the window's span runs out (R67). -/
def windowEndTime (x : PulseIn) : Word := x.start + BitVec.ofNat 32 x.len

/-- R68, R69: the frequency and the reference edge after a window end, with the zero timeout in µs. -/
def windowResult (timeout : Nat) (x : PulseIn) : Nat × Option Word :=
  if x.win.m = 0 then
    match x.tref with
    | none => (0, none)
    | some t0 =>
      let d := since (windowEndTime x) t0
      if timeout ≤ d then (0, none) else (min x.freq (1000000000 / d), some t0)
  else (edgesFrequency x, some x.win.last)

/-- R67, R70: the window ends and the next begins at that moment, with the edges already met that belong to it. -/
def closeWindow (w : Mem) (i : Fin 4) (x : PulseIn) : PulseIn :=
  let r := windowResult (zeroTimeout w i) x
  { x with freq := r.1, tref := r.2, start := windowEndTime x, len := windowLength w i, win := x.next, next := Edges.none }

/-- R70: the window end delivers the frequency. -/
def windowEnd (i : Fin 4) (p : Part) : Part :=
  let q := setPulse i (closeWindow p.working i) p
  deliver .pulse i q.pulse[i].freq q

/-- PULSE_EDGE (R66). -/
def execPulseEdge (input : Fin 4) (rising : Bool) (now : Word) (s : State) : Host.Outcome State Fault Refusal :=
  .next { s with toPart := pulseEdge input rising now s.toPart }

/-- WINDOW_END (R70). -/
def execWindowEnd (input : Fin 4) (s : State) : Host.Outcome State Fault Refusal :=
  .next { s with toPart := onlyIf s.unitsRun (windowEnd input) s.toPart }

/-! ### Switch inputs (4.4) -/

def bit01 (b : Bool) : Int := if b then 1 else 0

/-- A switch state is taken or changed, and delivered (R73, R74). -/
def switchTo (i : Fin 8) (state : Bool) (p : Part) : Part :=
  deliver .discrete i (bit01 state) (setSwitch i (fun _ => { raw := state, deb := state, taken := true, count := 0 }) p)

/-- R72: the raw level of a pin under its polarity. -/
def rawLevel (w : Mem) (i : Fin 8) (pin : Bool) : Bool := pin != lowIsOne w i

/-- R72: the pull of a switch input, true towards the supply; it is applied from the end of INIT, in every state, as the
working configuration stands. -/
def Part.pull (p : Part) (i : Fin 8) : Option Bool := if p.ctl.op = .init then none else some (pullUp p.working i)

/-- R72: the levels of the pins: the pull sets the level of an open contact (log entry 29). -/
def pinLevel (p : Part) (pins : Pins) (i : Fin 8) : Bool := (pins[i].or (p.pull i)).getD false

/-- R73, R74: one switch input at a discrete sample. -/
def sampleSwitch (pins : Pins) (i : Fin 8) (p : Part) : Part :=
  let x := p.sw[i]
  let raw := rawLevel p.working i (pinLevel p pins i)
  if !x.taken then switchTo i raw p
  else if raw = x.deb then setSwitch i (fun y => { y with raw := raw, count := 0 }) p
  else if debounceCount p.working i ≤ x.count + 1 then switchTo i raw p
  else setSwitch i (fun y => { y with raw := raw, count := x.count + 1 }) p

/-- R72: the running switch inputs at a discrete sample. -/
def sampleSwitches (pins : Pins) (p : Part) : Part := onlyIf p.unitsRun (forEach allSlots (sampleSwitch pins)) p

/-- R73: a taken switch changes its debounced state. -/
def switchChange (i : Fin 8) (state : Bool) (p : Part) : Part :=
  if p.sw[i].taken ∧ p.sw[i].deb ≠ state then switchTo i state p else p

/-- SWITCH_CHANGE (R73): the change on its own, taken at its word (log entry 4). -/
def execSwitchChange (input : Fin 8) (state : Bool) (s : State) : Host.Outcome State Fault Refusal :=
  .next { s with toPart := onlyIf s.unitsRun (switchChange input state) s.toPart }

end Sys2Proof.Machine
end

