-- ==== Sys2Proof/Machine/Slots.lean ====
section
/-! DEFINITION. Request slots (2.1, 2.4, 2.5): their bytes, the check byte, the answer write and the holdings. -/

namespace Sys2Proof.Machine

def setReq (f : ReqUnit → ReqUnit) (p : Part) : Part := { p with req := f p.req }

/-- The thirty-two bytes of a slot. -/
def slotBytes (m : Mem) (i : Fin 8) : List Byte := memReadN m (slotAddr i) 32

/-- Byte `k` of a record. -/
def byteAt (bs : List Byte) (k : Nat) : Byte := bs.getD k 0

/-- R9: thirty-one bytes with the check byte that makes the check hold. -/
def withCheck (bs : List Byte) : List Byte := bs ++ [xorBytes bs]

/-- R9: the check of a record holds. -/
def checkHolds (bs : List Byte) : Bool := xorBytes bs == 0

/-- R24: one answer write: the state ANSWERED, the kind, the tag, the status, bytes 4 to 30 (`tail`) and the check byte. It is
asked for behind the accesses that wait; its grant tests the state byte, and REPLY follows it. -/
def answerWrite (i : Fin 8) (kind tag status : Byte) (tail : List Byte) (p : Part) : Part :=
  p.request (.answer i (withCheck (slotAnswered :: kind :: tag :: status :: tail)))

/-- R24: bytes 4 to 30 of an answer: the answer data filled up with 0x00, or the bytes as they were taken; the spare bytes
as taken. -/
def answerTail (taken data : List Byte) : List Byte :=
  (if data.isEmpty then (taken.drop 4).take 24 else data ++ zeros (24 - data.length)) ++ (taken.drop 28).take 3

/-- R24: the answer to a request of which the taken bytes are held. -/
def answerTaken (i : Fin 8) (taken : List Byte) (status : Byte) (data : List Byte) (p : Part) : Part :=
  answerWrite i (byteAt taken 1) (byteAt taken 2) status (answerTail taken data) p

/-- R27: an answer that takes the kind, the tag and bytes 4 to 30 from the slot as it now stands. -/
def answerAsItStands (i : Fin 8) (status : Byte) (p : Part) : Part := answerTaken i (slotBytes p.mem i) status [] p

/-! ### Holdings (R25) -/

def isHeld (p : Part) (i : Fin 8) : Bool := p.req.holds[i].isSome

def holdSlot (i : Fin 8) (taken : List Byte) (p : Part) : Part :=
  setReq (fun r => { r with holds := updAt i (fun _ => some { taken := taken }) r.holds }) p

/-- R25: the owner reports the end of the operation: the answer is written and the holding ends. -/
def finishHold (i : Fin 8) (status : Byte) (p : Part) : Part :=
  match p.req.holds[i] with
  | some h => setReq (fun r => { r with holds := updAt i (fun _ => none) r.holds }) (answerTaken i h.taken status [] p)
  | none => p

end Sys2Proof.Machine
end

