-- ==== Sys2Proof/Machine/Validate.lean ====
section
/-! DEFINITION. The validation of a staging copy (R48, Table 3-4): the checks in their order, and the first that fails. -/

namespace Sys2Proof.Machine

/-- Reasons of a commit result (Table 11-16). -/
inductive Reason
  | range | index | window | limitOrder | divisor | order | curvePoints | curveOrder | travel | scalePoints | scaleOrder
  | hysteresis | fieldFit
  deriving DecidableEq, Repr

def Reason.code : Reason → Nat
  | .range => 1 | .index => 2 | .window => 3 | .limitOrder => 4 | .divisor => 5 | .order => 6 | .curvePoints => 8
  | .curveOrder => 9 | .travel => 10 | .scalePoints => 11 | .scaleOrder => 12 | .hysteresis => 13 | .fieldFit => 14

/-- A check of Table 3-4 with its reason. -/
abbrev Check := Bool × Reason

/-- The first check that does not hold. -/
def firstFailing : List Check → Option Reason
  | [] => none
  | (ok, r) :: cs => if ok then firstFailing cs else some r

def within (lo hi x : Nat) : Bool := decide (lo ≤ x) && decide (x ≤ hi)

/-- A field that holds 0 for its default, or lies in its range (R48). -/
def zeroOr (lo hi x : Nat) : Bool := x == 0 || within lo hi x

def strictlyAscending : List Int → Bool
  | [] => true
  | [_] => true
  | a :: b :: l => decide (a < b) && strictlyAscending (b :: l)

def all4 (f : Fin 4 → Bool) : Bool := (List.finRange 4).all f
def all8 (f : Fin 8 → Bool) : Bool := (List.finRange 8).all f

def generalChecks (w : Mem) : List Check :=
  [((gByte w 0 == 0 || gByte w 0 == 10 || gByte w 0 == 20 || gByte w 0 == 50) && decide (gByte w 1 ≤ 2) &&
      zeroOr 1 10 (gByte w 2) && zeroOr 1 10 (gByte w 3), .range),
    (decide (gByte w 4 ≤ 32) && decide (gByte w 5 ≤ 32) && decide (gByte w 6 ≤ 11) && decide (gByte w 7 ≤ 12), .index),
    (zeroOr 1 60 (gByte w 8) && all8 (fun i => zeroOr 1 15 (gByte w (16 + i))) &&
      all4 (fun i => zeroOr 1 20 (gByte w (24 + i)) && zeroOr 1 100 (readNat w (generalAddr + 28 + 2 * i) 2)), .range),
    (all4 fun i => decide (windowLength w i ≤ zeroTimeout w i), .window)]

def limitsChecks (w : Mem) : List Check :=
  [(within 1 720 (split1 w) && within 1 720 (split2 w) && within 1 720 (fullBreak w) && within 1 1440 (dailyRest w) &&
      within 1 1440 (contLimit w) && within 1 720 (warnMargin w) && within 1 1440 (dailyLimit w) &&
      within 1 30000 (motionThreshold w) && within 1 60 (motionConfirm w) && within 1 600 (stopConfirm w), .range),
    (decide (split1 w ≤ split2 w) && decide (split2 w < fullBreak w) && decide (fullBreak w < dailyRest w), .limitOrder),
    (decide (warnMargin w < contLimit w) && decide (contLimit w ≤ dailyLimit w), .limitOrder)]

/-- The greatest source index of a kind (Table 5-2). -/
def maxIndex : SourceKind → Nat
  | .none => 0
  | .sender => 7
  | .pulse => 3
  | .discrete => 7
  | .inbox => 15
  | .account => 7

def curveCount (w : Mem) (k : Nat) : Nat := readByte w (curveAddr k)

/-- R48: an ACCOUNT channel counts as LINEAR. -/
def usesCurve (r : ChanRec) : Option Nat := if r.kind = .account then none else r.curve

def channelChecks (w : Mem) (n : Nat) : List Check :=
  let r := chanRec w n
  if readByte w (chanAddr n) = 0 then []
  else
    [(decide (readByte w (chanAddr n) ≤ 5) && decide (r.index ≤ maxIndex r.kind) &&
        (match usesCurve r with
         | some k => decide (k ≤ 7) && curveCount w k != 0
         | none => true), .index),
      (decide (r.shift ≤ 7) && within 1 15 r.persistence && (r.kind != .inbox || within 1 600 r.ageLimit) &&
        (r.kind != .sender || decide (r.short < r.openCode)), .range),
      ((usesCurve r).isSome || decide (1 ≤ r.div), .divisor),
      (decide (r.lo ≤ r.hi), .order)]

def curveChecks (w : Mem) (n : Nat) : List Check :=
  if curveCount w n = 0 then []
  else [(within 2 15 (curveCount w n), .curvePoints), (strictlyAscending ((curvePoints w n).map (·.1)), .curveOrder)]

def pointerChecks (w : Mem) (n : Nat) : List Check :=
  let r := ptrRec w n
  if !r.used then []
  else
    [(decide (r.chan ≤ 31), .index), (within 1 4095 r.travel, .travel),
      (within 2 8 (readByte w (ptrAddr n + 2)), .scalePoints),
      (strictlyAscending (r.scale.map (·.1)) && r.scale.all (fun x => decide (x.2 ≤ (r.travel : Int))), .scaleOrder),
      (within 1 8 r.smax && decide (r.shift ≤ 6) && decide (readByte w (ptrAddr n + 5) ≤ 1), .range)]

def lampChecks (w : Mem) (n : Nat) : List Check :=
  let r := lampRec w n
  let a := lampAddr n
  if readByte w a = 0 then []
  else
    [((!r.kind.usesChannel || decide (r.chan ≤ 31)) &&
        (match r.gate with
         | some g => decide (g ≤ 31)
         | none => true) &&
        (match r.text with
         | some t => decide (t ≤ 63)
         | none => true) &&
        (r.kind != .drivetime || decide (r.selector ≤ 5)), .index),
      (decide (readByte w (a + 1) ≤ 2) && decide (readByte w (a + 2) ≤ 2) && decide (readByte w a ≤ 7), .range),
      ((match r.kind with
        | .above => decide (r.offAt < r.onAt)
        | .below => decide (r.onAt < r.offAt)
        | _ => true), .hysteresis)]

/-- The used fields of a page, by their addresses. -/
def usedFieldAddrs (w : Mem) (page : Nat) : List Nat :=
  ((List.range 8).map fun k => pageAddr page + 88 + 5 * k).filter fun a => readByte w (a + 2) != 0

def fieldFits (w : Mem) (a : Nat) : Bool :=
  decide (readByte w a ≤ 3) && within 1 10 (readByte w (a + 2)) && decide (readByte w (a + 1) + readByte w (a + 2) ≤ 20)

/-- 11.6: the source and format codes. -/
def fieldCodes (w : Mem) (a : Nat) : Bool :=
  (within 0 31 (readByte w (a + 3)) || within 0x40 0x47 (readByte w (a + 3)) || readByte w (a + 3) == 0x80) &&
    decide (readByte w (a + 4) ≤ 5)

def pageChecks (w : Mem) (n : Nat) : List Check :=
  [((usedFieldAddrs w n).all (fieldFits w), .fieldFit), ((usedFieldAddrs w n).all (fieldCodes w), .range)]

/-- A check that failed, as the commit result tells it (11.8). -/
structure Failing where
  table : Nat
  index : Nat
  reason : Reason
  deriving DecidableEq, Repr

/-- The first failing record of a table. -/
def walkTable (table : Nat) (checks : Nat → List Check) : List Nat → Option Failing
  | [] => none
  | n :: ns =>
    match firstFailing (checks n) with
    | some r => some { table := table, index := n, reason := r }
    | none => walkTable table checks ns

/-- R48: the tables in their order. Every message text passes. -/
def validate (w : Mem) : Option Failing :=
  (walkTable 1 (fun _ => generalChecks w) [0]).or <|
  (walkTable 2 (fun _ => limitsChecks w) [0]).or <|
  (walkTable 3 (channelChecks w) (List.range 32)).or <|
  (walkTable 4 (curveChecks w) (List.range 8)).or <|
  (walkTable 5 (pointerChecks w) (List.range 6)).or <|
  (walkTable 6 (lampChecks w) (List.range 32)).or <|
  walkTable 7 (pageChecks w) (List.range 12)

end Sys2Proof.Machine
end

