-- ==== Sys2Proof/Machine/Control.lean ====
section
/-! DEFINITION. The State Controller (chapter 3) and the pointer events it directs: operating states, ignition, the proving
cycle, homing requests, parking, the supply, commits and restarts. -/

namespace Sys2Proof.Machine

def setCtl (f : Control → Control) (p : Part) : Part := { p with ctl := f p.ctl }
def setIgn (x : Ign) (p : Part) : Part := { p with ign := x }
def setHomeReqs (l : List HomeReq) (p : Part) : Part := { p with homeReqs := l }
def setWorking (w : Mem) (p : Part) : Part := { p with working := w }

/-! ### The operating state (R32) -/

/-- Table 2-2: the scan period of a state, in ms. -/
def scanPeriod (w : Mem) : OpState → Option Nat
  | .init => none
  | .unconfigured => some 20
  | .starting => some (scanPeriodOf w)
  | .run => some (scanPeriodOf w)
  | .parking => some (scanPeriodOf w)
  | .park => some 1000

/-- R20, R32: an operating state is entered: the header, the STATE notice, and the scan timer with its period. -/
def setOp (op : OpState) (p : Part) : Part :=
  let q := setNotice .state (writeStateBytes (setCtl (fun c => { c with op := op }) p))
  forgetFrameIfIdle (setReq (fun r => { r with scanTimer := scanPeriod p.working op }) q)

def setFrozen (b : Bool) (p : Part) : Part := { p with lampU := { p.lampU with frozen := b } }

/-! ### The proving cycle (3.9) -/

/-- R43: the cycle ends: a START cycle enters RUN, a REQUEST cycle is answered OK; the modes are composed in the state that
holds then (R136), and deferred chime demands are served. -/
def provingEnd (c : Proving) (p : Part) : Part :=
  let q := setCtl (fun k => { k with proving := none }) p
  match c.kind with
  | .start => chimeSync (composeLamps (setOp .run q))
  | .request slot => chimeSync (finishHold slot statusOk (composeLamps q))

/-- R43: the timer has expired and every sweep has returned. -/
def provingCheck (p : Part) : Part :=
  match p.ctl.proving with
  | some c => if c.timer.isNone && c.sweeps.isEmpty then provingEnd c p else p
  | none => p

/-- R114: a pointer's sweep has returned. -/
def sweepReturned (i : Fin 6) (p : Part) : Part :=
  provingCheck (setCtl (fun k => { k with proving := k.proving.map fun c => { c with sweeps := c.sweeps.filter (· != i) } })
    (enterFollow i p))

/-- R106, R114: a sweeping pointer is judged for the end of its phase; a frozen one is not. -/
def judgeSweep (i : Fin 6) (p : Part) : Part :=
  let x := p.ptrs[i]
  let t := (ptrRec p.working i).travel
  if ptrFrozen p i || x.state != .sweep then p
  else match x.sweep with
    | .waiting => p
    | .out => if atRestAt x t then updPtr i (fun y => { y with sweep := .back, target := 0 }) p else p
    | .back => if atRestAt x 0 then sweepReturned i p else p

/-- The pointers of a START cycle's sweeps (R42). -/
def sweepers (w : Mem) : List (Fin 6) := allPtrs.filter fun (i : Fin 6) => ptrUsed w i && (ptrRec w i).sweep

/-- R114: a pointer enters its sweep. -/
def enterSweep (i : Fin 6) (p : Part) : Part :=
  judgeSweep i (applyPosition i (updPtr i (fun x =>
    { x with state := .sweep, sweep := .out, target := (ptrRec p.working i).travel }) p))

/-- R42, R136: a cycle begins: the SHORT retries, then the timer and the forcing of the lamps, then the deferral of the chime's
demands, the test tone, and the sweeps. -/
def provingStart (kind : ProvingKind) (p : Part) : Part :=
  let sweeps := if kind = .start then sweepers p.working else []
  let q := setCtl (fun k => { k with
    proving := some { kind := kind, timer := some (provingTime p.working), sweeps := sweeps } }) (retryShorts p)
  forEach sweeps enterSweep (startTestTone (chimeSync (composeLamps q)))

/-- R44: a running cycle is abandoned by IGN falling or by a commit: the test tone stops, and a REQUEST cycle is answered
NOT_NOW, before the state that ended it changes (log entry 16). The modes are composed by what follows. -/
def provingAbandon (p : Part) : Part :=
  match p.ctl.proving with
  | some c =>
    let q := stopTestTone (setCtl (fun k => { k with proving := none }) p)
    (match c.kind with
     | .start => q
     | .request slot => finishHold slot notNow q)
  | none => p

/-- PROVING_TIMER_EXPIRY (R43): taken while the proving timer runs. -/
def provingTimerExpiry (p : Part) : Part :=
  match p.ctl.proving with
  | some c => if c.timer.isSome then provingCheck (setCtl (fun k => { k with proving := some { c with timer := none } }) p) else p
  | none => p

/-! ### STARTING (R36) -/

/-- R109: a used pointer at entry to STARTING. -/
def startPtr (i : Fin 6) (p : Part) : Part :=
  if !ptrUsed p.working i then p
  else if p.ptrs[i].homeNeeded then homingBegin i p
  else enterFollow i p

/-- The START cycle begins once no pointer is homing. -/
def startIfHomed (p : Part) : Part :=
  onlyIf (p.ctl.op == .starting && p.ctl.proving.isNone && !anyHoming p) (provingStart .start) p

/-- R36. The order of the blocks is that of log entry 16. -/
def enterStarting (p : Part) : Part :=
  startIfHomed (chimeSync (composeLamps (forEach allPtrs startPtr (toStartPage (setOp .starting p)))))

/-! ### PARKING and PARK (R39 to R41) -/

/-- R40, R41: PARK is entered: the coils are released, the state is entered, the motion state is forced to STOPPED, and the
modes are composed (R116, R152, log entry 16). -/
def enterPark (p : Part) : Part :=
  composeLamps (forceStopped (setOp .park (forEach allPtrs releasePtr p)))

/-- R40: PARK_ENTRY, when every used pointer rests at 0 in PARKING. -/
def parkCheck (p : Part) : Part := onlyIf (p.ctl.op == .parking && allAtRest p) enterPark p

/-- R39; a test tone stops at once (R143). The order of the blocks is that of log entry 16. -/
def enterParking (p : Part) : Part :=
  let q := idleConfirm (unitsStop (forEach allPtrs enterReturn (setOp .parking (stopTestTone (provingAbandon p)))))
  parkCheck (chimeSync (composeLamps (setFrozen true q)))

/-! ### Homing ends (R111 to R113) -/

/-- R113: the requests that named the pointer; those left with none are answered OK, in the order of their acceptance (log
entry 45). -/
def homedRequests (i : Fin 6) (p : Part) : Part :=
  let rs := p.homeReqs.map fun r => { r with left := r.left.filter (· != i) }
  forEach ((rs.filter fun r => r.left.isEmpty).map (·.slot)) (fun slot => finishHold slot statusOk)
    (setHomeReqs (rs.filter fun r => !r.left.isEmpty) p)

/-- R112: the state a homing ends in. -/
def afterHoming (p : Part) (i : Fin 6) : PtrState :=
  match p.ctl.op with
  | .starting => if (ptrRec p.working i).sweep then .sweep else .follow
  | .parking => .return
  | .run => .follow
  | .park => .follow
  | .unconfigured => .follow
  | .init => .follow

/-- R111, R112: a homing ends: the position is known, the mark is clear, and the end is reported. DESIGN CHOICE (log entry 45):
the holder of a HOME_POINTER request is answered first, and then the State Controller acts on the report (a START cycle, or the
entry to PARK with its notice); R111 names both and orders neither. -/
def homingEnd (i : Fin 6) (p : Part) : Part :=
  let r := ptrRec p.working i
  let st := afterHoming p i
  let q := applyPosition i (updPtr i (fun x =>
    let y := { x with state := st, homeNeeded := false, pos := 0, target := 0, speed := 0, stepsLeft := 0, sweep := .waiting }
    if st = .follow then { y with target := followTarget r y } else y) p)
  parkCheck (startIfHomed (homedRequests i q))

/-- HOMING_END (R111): taken at its word for a homing pointer that a dip does not freeze (log entry 4). -/
def homingEnds (i : Fin 6) (p : Part) : Part :=
  onlyIf (ptrUsed p.working i && p.ptrs[i].state == .homing && !ptrFrozen p i) (homingEnd i) p

/-! ### The motion tick (R105, R106, R111) -/

/-- The second phase of a motion tick: a homing with no step left ends, and a sweep is judged (log entries 9 and 15). -/
def judgePtr (i : Fin 6) (p : Part) : Part :=
  if !ptrUsed p.working i || ptrFrozen p i then p
  else if p.ptrs[i].state = .homing ∧ p.ptrs[i].stepsLeft = 0 then homingEnd i p
  else judgeSweep i p

def motionTick (p : Part) : Part := parkCheck (forEach allPtrs judgePtr (forEach allPtrs tickPtr p))

/-! ### Ignition (3.4, Table 3-2) -/

/-- R115: a returning pointer follows again. -/
def resumeFollow (i : Fin 6) (p : Part) : Part :=
  if ptrUsed p.working i && p.ptrs[i].state == .return then enterFollow i p else p

/-- R40: IGN rises in PARKING: RUN, with no proving. The thawed conditions are evaluated before the chime serves again (log
entry 16). -/
def parkingToRun (p : Part) : Part :=
  let q := setFrozen false (unitsStart (forEach allPtrs resumeFollow (setOp .run p)))
  chimeSync (composeLamps (evalLamps q))

/-- R41, R100, R128: the PARK exit: the channels are reset, the conditions thaw, the units start from their reset values, and
STARTING is entered. -/
def parkExit (p : Part) : Part :=
  enterStarting (unitsStart (measuresReset (evalLamps (resetChans (setFrozen false p)))))

/-- Table 3-2: what a rising IGN does. -/
def ignRises (p : Part) : Part :=
  match p.ctl.op with
  | .parking => parkingToRun p
  | .park => parkExit p
  | .init => p
  | .unconfigured => p
  | .starting => p
  | .run => p

/-- Table 3-2: what a falling IGN does. -/
def ignFalls (p : Part) : Part :=
  match p.ctl.op with
  | .starting => enterParking p
  | .run => enterParking p
  | .init => p
  | .unconfigured => p
  | .parking => p
  | .park => p

/-- R35, R76: the debounced ignition changes. -/
def ignChange (on : Bool) (p : Part) : Part :=
  if p.ign.on = on then p
  else
    let q := setIgn { on := on, count := 0 } p
    if on then ignRises q else ignFalls q

/-- R76: the fixed debounce count of the ignition. -/
def ignDebounce : Nat := 5

/-- R76: the ignition line at a discrete sample. -/
def sampleIgn (pin : Bool) (p : Part) : Part :=
  if pin = p.ign.on then setIgn { p.ign with count := 0 } p
  else if ignDebounce ≤ p.ign.count + 1 then ignChange pin p
  else setIgn { p.ign with count := p.ign.count + 1 } p

/-- R72: a discrete sample: the running switch inputs, then the ignition line (log entry 14). -/
def discreteSample (ign : Bool) (pins : Pins) (now : Word) (p : Part) : Part :=
  sampleIgn ign (sampleSwitches pins (setFree now p))

/-! ### The supply (3.12) -/

/-- R52: a dip starts. DESIGN CHOICE (log entry 16): R52 tells each block at once and gives no order. The output image is held
first (R137), so an output that the dip's own notifications would turn off stays lit through the dip; then the SENDER channels
go DIP and tell their consumers (R91, R97); then the pointers freeze (R117). -/
def dipStart (p : Part) : Part :=
  let q := setNotice .dip (setCtl (fun c => { c with supply := .dip, settle := none }) p)
  forEach allPtrs freezePtr (forEach allChans dipChan (muteTestTone (chimeSync q)))

/-- R53: the supply recovers: the pointers, the lamps, and then the chime (log entry 16). -/
def recovery (p : Part) : Part :=
  let q := setCtl (fun c => { c with supply := .settle, settle := some (settleTime p.working) }) p
  chimeSync (composeLamps (forEach allPtrs thawPtr q))

/-- R53: the settle timer expires. -/
def settleEnd (p : Part) : Part := setNotice .dip (setCtl (fun c => { c with supply := .normal, settle := none }) p)

/-! ### The key and commits (3.10) -/

/-- R47: the judgement of the moment: reason IN_MOTION or NOT_NOW, or none. A commit that finds PARK, PARKING having passed,
succeeds there (log entry 35). -/
def commitRefusal (p : Part) : Option Nat :=
  if p.acct.moving then some 15
  else if p.ctl.op = .starting ∨ p.ctl.op = .parking then some 16
  else none

/-- The area is read in 376 pieces of 32 bytes (R47). -/
def commitPieces : Nat := 376

/-- R47: the copy goes on until `n` pieces are in the staging copy. -/
def copyPieces (n : Nat) (p : Part) (c : CommitRun) : CommitRun :=
  if c.copied < n then
    { copied := n, staging := c.staging ++ memSlice p.mem (configStart + 32 * c.copied) (configStart + 32 * n) }
  else c

/-- R47: a link write to the area finds the copy as far as the free value says (log entry 11). -/
def commitOvertaken (p : Part) : Part :=
  match p.ctl.commit with
  | some c =>
    let n := min commitPieces (Config.commitProgress p.freeIdx)
    { setCtl (fun k => { k with commit := some (copyPieces n p c) }) p with freeIdx := p.freeIdx + 1 }
  | none => p

/-- R47: a KEY byte of 0x96 while OPEN. -/
def commitAsked (p : Part) : Part :=
  if p.ctl.commit.isSome then p
  else match commitRefusal p with
    | some r => writeCommitResult 0 0 r p
    | none => setCtl (fun c => { c with commit := some { copied := 0, staging := [] } }) p

/-- R113, R118: every held HOME_POINTER request is answered NOT_NOW. DESIGN CHOICE (log entry 45): in the order of their
acceptance; no rule orders the answers. -/
def dropHomeReqs (p : Part) : Part :=
  forEach (p.homeReqs.map (·.slot)) (fun slot => finishHold slot notNow) (setHomeReqs [] p)

/-- R50: the blocks take their commit values under the new working configuration (log entry 16); the debounce counts are zeroed
(log entry 36). -/
def commitValues (p : Part) : Part :=
  let q := dropHomeReqs (forEach allPtrs commitPtr (resetLamps (setFrozen false p)))
  let q := putSpeedLost false (idleConfirm (toStartPage q))
  evalLamps (reportWarnings (resetChans (switchesAfresh q)))

/-- R50: the operating state after a successful commit. -/
def commitState (p : Part) : Part :=
  match p.ctl.op with
  | .run => enterStarting p
  | .unconfigured => if p.ign.on then enterStarting p else setFrozen true (enterPark (unitsStop p))
  | .park => forgetFrameIfIdle (setFrozen true p)
  | .init => p
  | .starting => p
  | .parking => p

/-- R50: the commit succeeds. -/
def commitSuccess (staging : Mem) (p : Part) : Part :=
  let q := setAccess .locked (setWorking staging (provingAbandon p))
  writeCommitResult 0 0 0 (commitState (commitValues q))

/-- R47: the running commit finishes its copy and its validation, and ends. The copy reads record by record (log entry 7). -/
def commitEnd (p : Part) : Part :=
  match p.ctl.commit with
  | some c =>
    let p := p.grantReading
    let staging := (copyPieces commitPieces p c).staging
    let q := setCtl (fun k => { k with commit := none }) p
    match validate staging with
    | some f => writeCommitResult f.table f.index f.reason.code q
    | none =>
      match commitRefusal q with
      | some r => writeCommitResult 0 0 r q
      | none => commitSuccess staging q
  | none => p

/-! ### Restarts (3.13) -/

/-- R26: what the Request Unit loses at the start of a restart: all but the kept RESTART slots and the seen sequences. -/
def requestsLost (p : Part) : Part :=
  setReq (fun r => { r with holds := Vector.replicate 8 none, halt := false, pendingScan := none, scanTimer := none })
    (setHomeReqs [] p)

/-- R55: a restart begins: every operation in flight stops, and the outputs go off. From here on the link asks for no access,
and what waits is granted at once (log entry 7). -/
def restartBegin (cause : Cause) (p : Part) : Part :=
  let q := setAccess .locked (setCtl (fun c =>
    { c with restart := some cause, proving := none, commit := none, settle := none }) p)
  let q := lampsOff (forEach allPtrs restartPtr (requestsLost (chimeStop (stopTestTone q))))
  (forgetFrameIfIdle (idleConfirm (unitsStop (setIgn { q.ign with count := 0 } q)))).grantAll

/-- R33, R55: a cause of a restart arrives: INIT will begin again, a restart begins, or the one in progress goes on. -/
def restartCause (cause : Cause) (p : Part) : Part :=
  if p.ctl.op = .init then setCtl (fun c => { c with initDone := false }) p
  else if p.ctl.restart.isSome then p
  else restartBegin cause p

/-- The causes that hold a restart, or INIT, have passed. -/
def causesPassed (p : Part) : Bool := !p.ctl.resetLine && !p.ctl.supplyLow

/-- R27: a slot at the end of a restart. -/
def restartAnswer (i : Fin 8) (p : Part) : Part :=
  if i ∈ p.req.restartSlots then answerAsItStands i statusOk p
  else if memRead p.mem (slotAddr i) = slotTaken then answerAsItStands i aborted p
  else p

/-- R18: the seen sequences are taken from the slots. -/
def seenFromSlots (p : Part) : Part :=
  setReq (fun r => { r with seen := Vector.ofFn fun (i : Fin 16) => memRead p.mem (inboxAddr i) }) p

/-- R51, R54, R35: the strap, the supply and the ignition as sampled. -/
def takeSamples (strap ign : Bool) (now : Word) (p : Part) : Part :=
  setCtl (fun c => { c with strap := strap, supply := .normal, settle := none })
    (setIgn { on := ign, count := 0 } { p with free := now })

/-- R134: both flash generators start in their lit phase. -/
def generatorsAfresh (p : Part) : Part := { p with lampU := { p.lampU with slowLit := true, fastLit := true } }

/-- R56: the blocks take their restart values (log entry 16); the warnings are evaluated once the motion state is forced to
STOPPED (R161), and the accounting records of the whole end are rewritten once (R165, R166). -/
def restartValues (cause : Cause) (p : Part) : Part :=
  let q := switchesReset (measuresReset p)
  let q := forEach allPtrs restartEndPtr (resetLamps (generatorsAfresh (setFrozen false q)))
  let q := submit (.restart cause p.ctl.op) (evalWarnings (stopMotion (toStartPage q)))
  let q := rewriteAccounting p.acct true true (evalLamps (reportWarnings (resetChans q)))
  seenFromSlots (setCtl (fun c => { c with restart := none }) q)

/-- R56: the state that a restart enters. -/
def restartState (p : Part) : Part :=
  if p.ign.on then enterStarting (unitsStart p) else composeLamps (setFrozen true (setOp .park p))

/-- R27: the slots are answered in index order, and the kept indices are cleared. -/
def restartAnswers (p : Part) : Part :=
  setReq (fun r => { r with restartSlots := [] }) (forEach allSlots restartAnswer p)

/-- R56: the restart ends, its record accesses granted with it (R13, log entry 7). -/
def restartEnd (strap ign belowDip : Bool) (now : Word) (p : Part) : Part :=
  match p.ctl.restart with
  | some cause =>
    if causesPassed p then
      (restartAnswers (restartState (onlyIf belowDip dipStart (restartValues cause (takeSamples strap ign now p))))).grantAll
    else p
  | none => p

/-! ### Power-on and INIT (3.2) -/

/-- R33: INIT's work: the identity copy and the POWER_ON entry. Both notice words stay zero during INIT (R13); JOURNAL shows
when it ends (log entry 2). -/
def initWork (p : Part) : Part :=
  setCtl (fun c => { c with initDone := true })
    (recordEntry (entryBody .powerOn) 0 (p.store 0 (leBytes 2 partIdentity))).grantAll

/-- R33: INIT begins: everything is cleared; the levels of the pins and the link's framing are not part of what it clears
(log entries 2, 26 and 38). -/
def initBegin (link : Link) (p : Part) : Part :=
  let q : Part := { Part.reset with
    arb := { Arbiter.reset with idx := p.arb.idx }
    link := link
    freeIdx := p.freeIdx
    ctl := { Part.reset.ctl with resetLine := p.ctl.resetLine, supplyLow := p.ctl.supplyLow } }
  onlyIf (causesPassed q) initWork q

/-- R33: power-on. The supply is there. -/
def powerOn (p : Part) : Part :=
  initBegin Part.reset.link (setCtl (fun c => { c with supplyLow := false }) p)

/-- R33: a cause that held INIT has passed: INIT begins again from its start. -/
def initAgain (p : Part) : Part :=
  if p.ctl.op = .init ∧ !p.ctl.initDone then onlyIf (causesPassed p) (initBegin p.link) p else p

/-- R33: INIT ends: the samples are taken, the units start, and UNCONFIGURED is entered; the notice word then shows STATE and
JOURNAL, their accesses granted before the link is served (log entry 7). -/
def initEnd (strap ign belowDip : Bool) (now : Word) (p : Part) : Part :=
  if p.ctl.op = .init ∧ p.ctl.initDone ∧ causesPassed p then
    let q := seenFromSlots (setNotice .journal (setOp .unconfigured (takeSamples strap ign now p)))
    (onlyIf belowDip dipStart (unitsStart q)).grantAll
  else p

/-- R55: the RESET line or the supply changes: `f` sets the level, `low` tells that it is a cause from now on. -/
def levelChange (f : Control → Control) (low : Bool) (cause : Cause) (p : Part) : Part :=
  if low then restartCause cause (setCtl f p) else initAgain (setCtl f p)

/-! ### The commands -/

/-- POWER_ON (R33), in any state: power-on is also the return of the supply after a loss. -/
def execPowerOn (s : State) : Host.Outcome State Fault Refusal := .next { s with toPart := powerOn s.toPart }

/-- INIT_END (R33): taken when INIT has done its work and no cause holds it. -/
def execInitEnd (strap ign belowDip : Bool) (now : Word) (s : State) : Host.Outcome State Fault Refusal :=
  .next { s with toPart := initEnd strap ign belowDip now s.toPart }

/-- RESET_ASSERT (R55). -/
def execResetAssert (s : State) : Host.Outcome State Fault Refusal :=
  .next { s with toPart := onlyIf (!s.ctl.resetLine) (levelChange (fun c => { c with resetLine := true }) true .reset) s.toPart }

/-- RESET_RELEASE (R55, R33). -/
def execResetRelease (s : State) : Host.Outcome State Fault Refusal :=
  .next { s with toPart := onlyIf s.ctl.resetLine (levelChange (fun c => { c with resetLine := false }) false .reset) s.toPart }

/-- SUPPLY_BELOW_RESET (R55). -/
def execSupplyBelowReset (s : State) : Host.Outcome State Fault Refusal :=
  .next { s with toPart := onlyIf (!s.ctl.supplyLow) (levelChange (fun c => { c with supplyLow := true }) true .supply) s.toPart }

/-- SUPPLY_ABOVE_RESET (R55, R33). -/
def execSupplyAboveReset (s : State) : Host.Outcome State Fault Refusal :=
  .next { s with toPart := onlyIf s.ctl.supplyLow (levelChange (fun c => { c with supplyLow := false }) false .supply) s.toPart }

/-- RESTART_END (R56): taken in a restart whose causes have passed. -/
def execRestartEnd (strap ign belowDip : Bool) (now : Word) (s : State) : Host.Outcome State Fault Refusal :=
  .next { s with toPart := restartEnd strap ign belowDip now s.toPart }

/-- IGN_RISE (R35): the debounced change on its own, taken at its word (log entry 4). -/
def execIgnRise (now : Word) (s : State) : Host.Outcome State Fault Refusal :=
  .next { s with toPart := onlyIf s.live (fun p => ignChange true (setFree now p)) s.toPart }

/-- IGN_FALL (R35). -/
def execIgnFall (s : State) : Host.Outcome State Fault Refusal :=
  .next { s with toPart := onlyIf s.live (ignChange false) s.toPart }

/-- PARK_ENTRY (R40): taken when its condition holds (log entry 4). -/
def execParkEntry (s : State) : Host.Outcome State Fault Refusal :=
  .next { s with toPart := onlyIf s.live parkCheck s.toPart }

/-- COMMIT_END (R47). -/
def execCommitEnd (s : State) : Host.Outcome State Fault Refusal :=
  .next { s with toPart := onlyIf s.live commitEnd s.toPart }

/-- DIP_START (R52): from NORMAL or SETTLE. -/
def execDipStart (s : State) : Host.Outcome State Fault Refusal :=
  .next { s with toPart := onlyIf (s.live && !s.inDip) dipStart s.toPart }

/-- RECOVERY (R53): from DIP. -/
def execRecovery (s : State) : Host.Outcome State Fault Refusal :=
  .next { s with toPart := onlyIf (s.live && s.inDip) recovery s.toPart }

/-- SETTLE_TIMER_EXPIRY (R53): in SETTLE. -/
def execSettleTimerExpiry (s : State) : Host.Outcome State Fault Refusal :=
  .next { s with toPart := onlyIf (s.live && s.ctl.supply == .settle) settleEnd s.toPart }

/-- PROVING_TIMER_EXPIRY (R43). -/
def execProvingTimerExpiry (s : State) : Host.Outcome State Fault Refusal :=
  .next { s with toPart := onlyIf s.live provingTimerExpiry s.toPart }

/-- DISCRETE_SAMPLE (R72): in every state but INIT, and not in a restart. -/
def execDiscreteSample (ign : Bool) (pins : Pins) (now : Word) (s : State) : Host.Outcome State Fault Refusal :=
  .next { s with toPart := onlyIf s.live (discreteSample ign pins now) s.toPart }

/-- MOTION_TICK (R105): from the end of INIT, in every state, not in a restart. -/
def execMotionTick (s : State) : Host.Outcome State Fault Refusal :=
  .next { s with toPart := onlyIf s.live motionTick s.toPart }

/-- HOMING_END (R111). -/
def execHomingEnd (ptr : Fin 6) (s : State) : Host.Outcome State Fault Refusal :=
  .next { s with toPart := onlyIf s.live (homingEnds ptr) s.toPart }

end Sys2Proof.Machine
end

