-- ==== Sys2Proof/Machine/Requests.lean ====
section
/-! DEFINITION. The Request Unit (chapters 1 and 2): the owners' judgements of requests, SNAPSHOT, the intake of request and
inbox slots, and the exchange scan. -/

namespace Sys2Proof.Machine

/-! ### Lamp and panel requests (R125, R131, R178) -/

/-- R125: SET_LAMP. -/
def setLampRequest (lamp value : Byte) (p : Part) : Reply :=
  if p.ctl.op = .unconfigured then refuse notNow p
  else if 31 < lamp.toNat then refuse badParam p
  else
    let i := Fin.ofNat 32 lamp.toNat
    if (lampRec p.working i).kind ≠ .request then refuse badParam p
    else if value = 0 ∨ value = 1 then accept (evalLamp i (setLamp i (fun l => { l with requested := value == 1 }) p))
    else refuse badParam p

/-- The lamps that can be acknowledged: ON or LATCHED. -/
def acknowledgeable (p : Part) (i : Fin 32) : Bool :=
  lampUsed p.working i && (p.lamps[i].state == .on || p.lamps[i].state == .latched)

/-- R131: the lamps of a class that are acknowledged. -/
def classTargets (p : Part) (rank : Nat) : List (Fin 32) :=
  allLamps.filter fun (i : Fin 32) => acknowledgeable p i && (lampRec p.working i).cls.rank == rank

/-- R131: ACK_LAMP. The lamps of a class are acknowledged in ascending order (log entry 12). -/
def ackLamp (which : Byte) (p : Part) : Reply :=
  let n := which.toNat
  if p.ctl.op = .unconfigured then refuse notNow p
  else if n ≤ 31 then
    let i := Fin.ofNat 32 n
    if !lampUsed p.working i then refuse badParam p
    else if acknowledgeable p i then accept (acknowledge i p)
    else refuse notActive p
  else if 0x80 ≤ n ∧ n ≤ 0x82 then
    let targets := classTargets p (n - 0x80)
    if targets.isEmpty then refuse notActive p else accept (forEach targets acknowledge p)
  else refuse badParam p

/-- R178: SHOW_PAGE. -/
def showPage (page : Byte) (p : Part) : Reply :=
  if p.ctl.op = .unconfigured then refuse notNow p
  else if 11 < page.toNat then refuse badParam p
  else accept (setPanel (fun q => { q with basePage := page.toNat }) p)

/-! ### SNAPSHOT (R28 to R31, Table 11-12) -/

/-- Bits, the first in bit 0. -/
def packBits : List Bool → Nat
  | [] => 0
  | b :: bs => (if b then 1 else 0) + 2 * packBits bs

/-- R29: page 0. -/
def inputsPage (p : Part) : List Byte :=
  p.conv.codes.toList.flatMap (leBytes 2) ++ p.pulse.toList.flatMap (fun x => leBytes 4 x.freq) ++
    [BitVec.ofNat 8 (packBits (p.pulse.toList.map fun x => x.tref.isSome)),
      BitVec.ofNat 8 (packBits (p.sw.toList.map (·.raw))), BitVec.ofNat 8 (packBits (p.sw.toList.map (·.deb))),
      flagByte p.ign.on]

/-- R30, R120: a pointer on page 1; an unused one shows RELEASED at 0. -/
def pointerEntry (p : Part) (i : Fin 6) : List Byte :=
  let x := p.ptrs[i]
  let shown := if ptrUsed p.working i then x else { x with state := .released, pos := 0, target := 0, speed := 0 }
  leBytes 2 (if shown.state = .homing then 0xFFFF else shown.pos) ++ leBytes 2 shown.target ++
    [BitVec.ofInt 8 shown.speed, shown.state.code, flagByte (!shown.homeNeeded), 0]

/-- R30, R144: a lamp on page 2. -/
def lampEntry (l : Lamp) : List Byte := [flagByte l.lit, l.sense.code, l.diag.code, 0]

/-- The bytes of a page after its heading. -/
def pageBytes (page : Byte) (p : Part) : List Byte :=
  if page = 0 then inputsPage p
  else if page = 1 then allPtrs.flatMap (pointerEntry p)
  else p.lamps.toList.flatMap lampEntry

/-- R28: the whole window: heading, page, and 0x00 up to byte 255. DESIGN CHOICE (log entry 41): every owner gives its part at
one moment, that of the copy; R31 lets the parts of two units on page 0 come from slightly different ones. -/
def diagWindow (page : Byte) (p : Part) : List Byte :=
  let bs := page :: (leBytes 2 (scanCount p.mem) ++ [p.ctl.op.code] ++ pageBytes page p)
  bs ++ zeros (256 - bs.length)

/-- R28, R31: SNAPSHOT: the window is filled in pieces, its heading last, and the answer is asked for behind them. -/
def snapshot (page : Byte) (p : Part) : Reply :=
  if page.toNat ≤ 2 then accept (p.storeRun diagAddr (diagWindow page p)) else refuse badParam p

/-! ### Requests taken (R23, Table 2-4) -/

/-- The codes of the kinds (Table 2-4). -/
def kindSetActivity : Byte := 0x01
def kindCardIn : Byte := 0x02
def kindCardOut : Byte := 0x03
def kindSwapSeats : Byte := 0x04
def kindSetTime : Byte := 0x05
def kindAckLamp : Byte := 0x06
def kindSetLamp : Byte := 0x07
def kindProve : Byte := 0x08
def kindHomePointer : Byte := 0x09
def kindShowPage : Byte := 0x0A
def kindSnapshot : Byte := 0x0B
def kindRestart : Byte := 0x0C

def longKind (k : Byte) : Bool := k == kindProve || k == kindHomePointer || k == kindRestart

/-- R23: a short kind is answered as soon as its owner has acted. -/
def answerReply (i : Fin 8) (taken : List Byte) (r : Reply) : Part := answerTaken i taken r.status r.data r.part

/-- R45: PROVE. -/
def prove (i : Fin 8) (taken : List Byte) (p : Part) : Part :=
  if p.ctl.proving.isSome then answerTaken i taken busy [] p
  else if p.ctl.op ≠ .run then answerTaken i taken notNow [] p
  else if p.acct.moving then answerTaken i taken inMotion [] p
  else provingStart (.request i) (holdSlot i taken p)

/-- R113: the pointers that the parameter names; none where it names none. -/
def namedPtrs (w : Mem) (which : Byte) : List (Fin 6) :=
  allPtrs.filter fun (j : Fin 6) => ptrUsed w j && (which == 0xFF || which.toNat == j.val)

/-- R113: HOME_POINTER. -/
def homePointer (i : Fin 8) (taken : List Byte) (which : Byte) (p : Part) : Part :=
  let named := namedPtrs p.working which
  if p.ctl.op = .unconfigured then answerTaken i taken notNow [] p
  else if named.isEmpty then answerTaken i taken badParam [] p
  else if named.any (fun (j : Fin 6) => p.ptrs[j].state == .homing) then answerTaken i taken busy [] p
  else if p.ctl.op ≠ .run then answerTaken i taken notNow [] p
  else if p.acct.moving then answerTaken i taken inMotion [] p
  else
    let q := holdSlot i taken p
    forEach named homingBegin (setHomeReqs (q.homeReqs ++ [{ slot := i, left := named }]) q)

/-- R26: RESTART is held, and handed over at the end of the scan. -/
def restartRequest (i : Fin 8) (taken : List Byte) (p : Part) : Part :=
  setReq (fun r => { r with restartSlots := r.restartSlots ++ [i] }) (holdSlot i taken p)

/-- Bytes `k` to `k + n - 1` of a record as a number. -/
def fieldNat (bs : List Byte) (k n : Nat) : Nat := leNat ((bs.drop k).take n)

def paramHalf (bs : List Byte) (k : Nat) : Half := BitVec.ofNat 16 (fieldNat bs k 2)
def paramWord (bs : List Byte) (k : Nat) : Word := BitVec.ofNat 32 (fieldNat bs k 4)
def paramIdentity (bs : List Byte) (k : Nat) : Identity := BitVec.ofNat 128 (fieldNat bs k 16)

/-- R23: the request that the taken bytes hold goes to its owner (Table 11-6); any other kind is answered BAD_KIND. -/
def serve (i : Fin 8) (t : List Byte) (p : Part) : Part :=
  let k := byteAt t 1
  let b4 := byteAt t 4
  let b5 := byteAt t 5
  if k = kindSetActivity then answerReply i t (setActivity b4 b5 p)
  else if k = kindCardIn then answerReply i t (cardIn b4 b5 (paramIdentity t 6) (paramHalf t 22) (paramHalf t 24) p)
  else if k = kindCardOut then answerReply i t (cardOut b4 p)
  else if k = kindSwapSeats then answerReply i t (swapSeats p)
  else if k = kindSetTime then answerReply i t (accept (setTime (paramWord t 4) p))
  else if k = kindAckLamp then answerReply i t (ackLamp b4 p)
  else if k = kindSetLamp then answerReply i t (setLampRequest b4 b5 p)
  else if k = kindProve then prove i t p
  else if k = kindHomePointer then homePointer i t b4 p
  else if k = kindShowPage then answerReply i t (showPage b4 p)
  else if k = kindSnapshot then answerReply i t (snapshot b4 p)
  else if k = kindRestart then restartRequest i t p
  else answerTaken i t badKind [] p

/-- R23: the bytes of a slot with another state byte and a check byte that fits. -/
def markState (st : Byte) (bs : List Byte) : List Byte := withCheck (st :: (bs.drop 1).take 30)

/-- R15, R16: a failed request slot under either policy. -/
def failedSlot (i : Fin 8) (bs : List Byte) (p : Part) : Part :=
  let q := logCheckFailure 2 i bs p
  if policyHalt p.working then setReq (fun r => { r with halt := true }) q else answerTaken i bs checkFail [] q

/-- R23: an intake access marks a slot TAKEN; it reads the slot too, so it is granted at once (log entry 7). -/
def markTaken (i : Fin 8) (bs : List Byte) (p : Part) : Part := (p.store (slotAddr i) (markState slotTaken bs)).grantAll

/-- R23: the intake access of one slot and what follows it; the walk has stopped once the halt is set (R15). -/
def intakeSlot (i : Fin 8) (p : Part) : Part :=
  if p.req.halt || isHeld p i then p
  else
    let p := p.grantReading
    let bs := slotBytes p.mem i
    if byteAt bs 0 != slotPosted then p
    else if !checkHolds bs then failedSlot i bs p
    else serve i bs (onlyIf (longKind (byteAt bs 1)) (markTaken i bs) p)

/-! ### Inbox intake (R17) -/

def allInbox : List (Fin 16) := List.finRange 16

/-- R17: one inbox slot. -/
def intakeInbox (i : Fin 16) (p : Part) : Part :=
  let p := p.grantReading
  let bs := memReadN p.mem (inboxAddr i) 8
  if byteAt bs 0 = p.req.seen[i] then p
  else
    let q := setReq (fun r => { r with seen := updAt i (fun _ => byteAt bs 0) r.seen }) p
    if checkHolds bs then
      deliverTo .inbox i (inboxChan (inboxFlag (byteAt bs 1)) (leInt32 ((bs.drop 2).take 4))) q
    else logCheckFailure 1 i bs q

/-! ### Scans (R20 to R22) -/

/-- R21: what is asked for once one more request has joined. -/
def joinScan (periodic : Bool) (time : Nat) : Option PendingScan → PendingScan
  | some x => { periodic := x.periodic || periodic, time := x.time + time }
  | none => { periodic := periodic, time := time }

/-- R21: a periodic scan or a prompted one is asked for; it joins what is already asked for. -/
def askScan (periodic : Bool) (time : Nat) (p : Part) : Part :=
  setReq (fun r => { r with pendingScan := some (joinScan periodic time r.pendingScan) }) p

/-- R22, step 1. -/
def countScan (p : Part) : Part := p.store scanCountAddr (leBytes 2 (scanCount p.mem + 1))

/-- R15: the halt is lifted if CHECK is clear. -/
def liftHalt (p : Part) : Part :=
  if noticeOn p.mem .check then p else setReq (fun r => { r with halt := false }) p

/-- R22, step 6: RESTART requests taken in the scan are handed over. -/
def handRestarts (p : Part) : Part := if p.req.restartSlots.isEmpty then p else restartCause .request p

/-- R22: the course of a scan. -/
def runScan (sc : PendingScan) (p : Part) : Part :=
  let q := countScan (setReq (fun r => { r with pendingScan := none }) p)
  let q := liftHalt (onlyIf sc.periodic (advanceAges sc.time) q)
  handRestarts (forEach allSlots intakeSlot (forEach allInbox intakeInbox q))

/-- SCAN_TIMER_EXPIRY (R20): taken while the scan timer runs; it asks for a periodic scan. -/
def scanTimerExpiry (p : Part) : Part :=
  match p.req.scanTimer with
  | some t => askScan true t p
  | none => p

/-- EXCHANGE_SCAN (R22): runs the scan asked for (log entry 8). -/
def exchangeScan (p : Part) : Part :=
  match p.req.pendingScan with
  | some sc => runScan sc p
  | none => p

/-! ### The request rows (log entry 10) -/

/-- A request's parameters over the bytes of its slot from `k` on. -/
def overBytes (bs : List Byte) (k : Nat) (ps : List Byte) : List Byte := bs.take k ++ ps ++ bs.drop (k + ps.length)

/-- A request row: the bytes as taken are the slot's, with the row's kind and parameters. -/
def rowBytes (i : Fin 8) (kind : Byte) (params : List Byte) (p : Part) : List Byte :=
  overBytes (overBytes (slotBytes p.mem i) 1 [kind]) 4 params

/-- A request row is taken outside INIT and restarts, from a slot that is not held, while intake is not halted (R23, R15). -/
def requestTaken (i : Fin 8) (p : Part) : Bool := p.live && !p.req.halt && !isHeld p i

/-- A row of a short kind: after the intake access its owner acts, and the slot is answered (R23). -/
def shortRow (i : Fin 8) (kind : Byte) (params : List Byte) (act : Part → Reply) (p : Part) : Part :=
  if requestTaken i p then answerReply i (rowBytes i kind params p) (act p.grantReading) else p

/-- A row of a long kind: a POSTED slot is marked TAKEN (R23), and the owner acts. -/
def longRow (i : Fin 8) (kind : Byte) (params : List Byte) (act : List Byte → Part → Part) (p : Part) : Part :=
  if requestTaken i p then
    let t := rowBytes i kind params p
    act t (onlyIf (memRead p.mem (slotAddr i) == slotPosted) (markTaken i t) p.grantReading)
  else p

/-! ### The commands -/

/-- SCAN_TIMER_EXPIRY (R20). -/
def execScanTimerExpiry (s : State) : Host.Outcome State Fault Refusal :=
  .next { s with toPart := onlyIf s.live scanTimerExpiry s.toPart }

/-- EXCHANGE_SCAN (R22). -/
def execExchangeScan (s : State) : Host.Outcome State Fault Refusal :=
  .next { s with toPart := onlyIf s.live exchangeScan s.toPart }

/-- SET_ACTIVITY (R156). -/
def execSetActivity (slot : Fin 8) (seat activity : Byte) (s : State) : Host.Outcome State Fault Refusal :=
  .next { s with toPart := shortRow slot kindSetActivity [seat, activity] (setActivity seat activity) s.toPart }

/-- CARD_IN (R154). -/
def execCardIn (slot : Fin 8) (seat flags : Byte) (identity : Identity) (cdt ddt : Half) (s : State) :
    Host.Outcome State Fault Refusal :=
  let params := seat :: flags :: (identityBytes identity ++ leBytes 2 cdt.toNat ++ leBytes 2 ddt.toNat)
  .next { s with toPart := shortRow slot kindCardIn params (cardIn seat flags identity cdt ddt) s.toPart }

/-- CARD_OUT (R155). -/
def execCardOut (slot : Fin 8) (seat : Byte) (s : State) : Host.Outcome State Fault Refusal :=
  .next { s with toPart := shortRow slot kindCardOut [seat] (cardOut seat) s.toPart }

/-- SWAP_SEATS (R163). -/
def execSwapSeats (slot : Fin 8) (s : State) : Host.Outcome State Fault Refusal :=
  .next { s with toPart := shortRow slot kindSwapSeats [] swapSeats s.toPart }

/-- SET_TIME (R147). -/
def execSetTime (slot : Fin 8) (clock : Word) (s : State) : Host.Outcome State Fault Refusal :=
  .next { s with toPart := shortRow slot kindSetTime (leBytes 4 clock.toNat) (fun p => accept (setTime clock p)) s.toPart }

/-- ACK_LAMP (R131). -/
def execAckLamp (slot : Fin 8) (which : Byte) (s : State) : Host.Outcome State Fault Refusal :=
  .next { s with toPart := shortRow slot kindAckLamp [which] (ackLamp which) s.toPart }

/-- SET_LAMP (R125). -/
def execSetLamp (slot : Fin 8) (lamp value : Byte) (s : State) : Host.Outcome State Fault Refusal :=
  .next { s with toPart := shortRow slot kindSetLamp [lamp, value] (setLampRequest lamp value) s.toPart }

/-- PROVE (R45). -/
def execProve (slot : Fin 8) (s : State) : Host.Outcome State Fault Refusal :=
  .next { s with toPart := longRow slot kindProve [] (prove slot) s.toPart }

/-- HOME_POINTER (R113). -/
def execHomePointer (slot : Fin 8) (which : Byte) (s : State) : Host.Outcome State Fault Refusal :=
  .next { s with toPart := longRow slot kindHomePointer [which] (fun t => homePointer slot t which) s.toPart }

/-- SHOW_PAGE (R178). -/
def execShowPage (slot : Fin 8) (page : Byte) (s : State) : Host.Outcome State Fault Refusal :=
  .next { s with toPart := shortRow slot kindShowPage [page] (showPage page) s.toPart }

/-- SNAPSHOT (R28). -/
def execSnapshot (slot : Fin 8) (page : Byte) (s : State) : Host.Outcome State Fault Refusal :=
  .next { s with toPart := shortRow slot kindSnapshot [page] (snapshot page) s.toPart }

/-- RESTART (R26): held, and handed over at the end of its scan, which the row stands for. -/
def execRestart (slot : Fin 8) (s : State) : Host.Outcome State Fault Refusal :=
  .next { s with toPart := longRow slot kindRestart [] (fun t p => handRestarts (restartRequest slot t p)) s.toPart }

end Sys2Proof.Machine
end

