-- ==== Sys2Proof/Machine/Link.lean ====
section
/-! DEFINITION. The Link Port (1.1 to 1.3): the framing of transfers, reads, the dispositions of written bytes, and the key
sequence. -/

namespace Sys2Proof.Machine

def setLink (l : LinkState) (p : Part) : Part := { p with link := { p.link with state := l } }

def setSdo (b : Option Byte) (p : Part) : Part := { p with link := { p.link with sdo := b } }

/-! ### Framing (R1) -/

/-- R1: SEL is asserted. DESIGN CHOICE (log entry 24): SDO is idle from here through the command and address bytes, and through
a WRITE transfer; R1 says so of IGNORE alone. -/
def selAssert (p : Part) : Part :=
  match p.link.state with
  | .idle => setLink .command (setSdo none p)
  | _ => p

/-- R1: a complete byte comes while the Link Port waits for a command byte. -/
def commandByte (after : LinkState) (p : Part) : Part :=
  match p.link.state with
  | .command => setLink after p
  | _ => p

/-- R1: what a command byte selects. -/
def afterCommand (b : Byte) : LinkState :=
  if b = 0x52 then .addressHigh false else if b = 0x57 then .addressHigh true else .ignore

def addressHigh (b : Byte) (p : Part) : Part :=
  match p.link.state with
  | .addressHigh w => setLink (.addressLow w b) p
  | _ => p

/-- R1: the low fourteen bits of the sixteen are kept. -/
def linkAddress (hi lo : Byte) : BitVec 14 := (hi ++ lo).truncate 14

def addressLow (b : Byte) (p : Part) : Part :=
  match p.link.state with
  | .addressLow w hi => setLink (.data w (linkAddress hi b)) p
  | _ => p

/-- R1: SEL is released. DESIGN CHOICE (log entry 24): SDO is idle from then on. -/
def selRelease (p : Part) : Part := setLink .idle (setSdo none p)

/-! ### Reads (R1, R2, R5) -/

/-- The byte at an address lies in the exchange memory, and not in the register window. -/
def inMemory (a : Nat) : Bool := decide (a < identAddr)

/-- R5, R7: what a byte access reads at its grant, while the part runs. -/
def linkRead (p : Part) (a : Nat) : Byte :=
  if inMemory a then memRead p.exch a
  else if a = identAddr then BitVec.ofNat 8 partIdentity
  else if a = identAddr + 1 then BitVec.ofNat 8 (partIdentity / 256)
  else if a = stateAddr then p.stateRegister
  else 0

/-- R2, R7: while the part runs, a byte access within the exchange memory waits for its grant. DESIGN CHOICE (log entry 7): a
byte access to the register window is none to the exchange memory; it takes no grant and is no last grant of the link, be it a
read of STATE, a KEY or PROMPT byte, or a protected byte at IDENT or STATE whose refusal fills the error log. R3 and R5 speak of
its grant and do not say whether it passes the arbiter. -/
def arbitrate (a : Nat) (p : Part) : Part := onlyIf (p.live && inMemory a) Part.grantLink p

/-- R2: in INIT and in a restart every byte reads 0x00. -/
def servedRead (p : Part) (a : Nat) : Byte := if p.live then linkRead p a else 0

/-- R1: a byte access of a READ transfer. -/
def dataRead (p : Part) : Part :=
  match p.link.state with
  | .data false a =>
    let q := arbitrate a.toNat p
    setLink (.data false (a + 1)) (setSdo (some (servedRead q a.toNat)) q)
  | _ => p

/-! ### The key sequence (R46, Table 3-3) -/

/-- Table 3-3: a second 0xC3 opens the access. -/
def keyOpens (p : Part) : Bool :=
  p.ctl.op == .unconfigured || p.ctl.op == .park || (p.ctl.op == .run && !p.acct.moving)

/-- R46: a KEY byte. -/
def keyWrite (v : Byte) (p : Part) : Part :=
  match p.ctl.access with
  | .locked => if v = 0xC3 then setAccess .armed p else p
  | .armed =>
    if v = 0xC3 then
      (if keyOpens p then setAccess .opened p else setNotice .keyrefused (setAccess .locked p))
    else setAccess .locked p
  | .opened => if v = 0x96 then commitAsked p else p

/-- R46: a data byte written to any other address returns ARMED to LOCKED. -/
def writeElsewhere (p : Part) : Part :=
  match p.ctl.access with
  | .armed => setAccess .locked p
  | .locked => p
  | .opened => p

/-! ### Dispositions (R3, Table 1-2) -/

/-- What a link write to an address does. -/
inductive Disposition
  | stored | guarded | discarded | config | noticeLow | noticeHigh | readMark | key | prompt
  deriving DecidableEq, Repr

/-- Table 1-2 and the unassigned ranges below it. -/
def disposition (a : Nat) : Disposition :=
  if a = noticeAddr then .noticeLow
  else if a = noticeAddr + 1 then .noticeHigh
  else if a = maskAddr ∨ a = maskAddr + 1 then .stored
  else if a < 0x0040 then .guarded
  else if a < 0x01C0 then .stored
  else if a = readMarkAddr then .readMark
  else if a < 0x01F0 then .guarded
  else if a < 0x0200 then .discarded
  else if a < 0x0560 then .guarded
  else if a < 0x0580 then .discarded
  else if a < 0x0720 then .guarded
  else if a < 0x0780 then .discarded
  else if a < 0x1000 then .guarded
  else if a < 0x1060 then .config
  else if a < 0x1100 then .discarded
  else if a < 0x1A80 then .config
  else if a < 0x1B00 then .discarded
  else if a < 0x2F00 then .config
  else if a < 0x3FF0 then .discarded
  else if a ≤ 0x3FF2 then .guarded
  else if a = keyAddr then .key
  else if a = promptAddr then .prompt
  else .discarded

/-- R3: a byte written to the configuration area. -/
def configWrite (a : Nat) (v : Byte) (p : Part) : Part :=
  if p.ctl.access = .opened then (commitOvertaken p).storeByte a v else protectedWrite .configuration a v p

/-- R3, R6: a byte that a WRITE transfer offers while the part runs; one whose address is not KEY is a write elsewhere, of which
the State Controller is told once the access has landed. -/
def linkWrite (a : Nat) (v : Byte) (p : Part) : Part :=
  match disposition a with
  | .key => keyWrite v p
  | .stored => writeElsewhere (p.storeByte a v)
  | .guarded => writeElsewhere (protectedWrite .area a v p)
  | .discarded => writeElsewhere p
  | .config => writeElsewhere (configWrite a v p)
  | .noticeLow => writeElsewhere (clearNotices false v p)
  | .noticeHigh => writeElsewhere (clearNotices true v p)
  | .readMark => writeElsewhere (offerReadMark v p)
  | .prompt => writeElsewhere (askScan false 0 p)

/-- R2: in INIT and in a restart every byte is discarded. -/
def servedWrite (a : Nat) (v : Byte) (p : Part) : Part :=
  if p.live then linkWrite a v (arbitrate a p) else p

/-- R1: a byte access of a WRITE transfer. -/
def dataWrite (v : Byte) (p : Part) : Part :=
  match p.link.state with
  | .data true a => setLink (.data true (a + 1)) (servedWrite a.toNat v p)
  | _ => p

/-- A row that names its address: the byte of a WRITE transfer that has reached the address, or, on an idle link, a whole
transfer of one byte (log entry 5). -/
def registerWrite (a : Nat) (v : Byte) (p : Part) : Part :=
  match p.link.state with
  | .data true b => if b.toNat = a then dataWrite v p else p
  | .idle => servedWrite a v p
  | _ => p

/-! ### The commands -/

/-- SEL_ASSERT (R1). -/
def execSelAssert (s : State) : Host.Outcome State Fault Refusal := .next { s with toPart := selAssert s.toPart }

/-- READ_COMMAND (R1): the byte 0x52. -/
def execReadCommand (s : State) : Host.Outcome State Fault Refusal :=
  .next { s with toPart := commandByte (.addressHigh false) s.toPart }

/-- WRITE_COMMAND (R1): the byte 0x57. -/
def execWriteCommand (s : State) : Host.Outcome State Fault Refusal :=
  .next { s with toPart := commandByte (.addressHigh true) s.toPart }

/-- IGNORE (R1): any other command byte; a byte that another row names acts as that row's. -/
def execIgnore (b : Byte) (s : State) : Host.Outcome State Fault Refusal :=
  .next { s with toPart := commandByte (afterCommand b) s.toPart }

/-- ADDRESS_HIGH (R1). -/
def execAddressHigh (b : Byte) (s : State) : Host.Outcome State Fault Refusal :=
  .next { s with toPart := addressHigh b s.toPart }

/-- ADDRESS_LOW (R1). -/
def execAddressLow (b : Byte) (s : State) : Host.Outcome State Fault Refusal :=
  .next { s with toPart := addressLow b s.toPart }

/-- DATA_READ (R1, R7). -/
def execDataRead (s : State) : Host.Outcome State Fault Refusal := .next { s with toPart := dataRead s.toPart }

/-- DATA_WRITE (R3): at an address that has a row of its own, the byte acts as that row's. -/
def execDataWrite (v : Byte) (s : State) : Host.Outcome State Fault Refusal :=
  .next { s with toPart := dataWrite v s.toPart }

/-- SEL_RELEASE (R1). -/
def execSelRelease (s : State) : Host.Outcome State Fault Refusal := .next { s with toPart := selRelease s.toPart }

/-- KEY_ARM (R46): KEY 0xC3. -/
def execKeyArm (s : State) : Host.Outcome State Fault Refusal :=
  .next { s with toPart := registerWrite keyAddr 0xC3 s.toPart }

/-- KEY_COMMIT (R47): KEY 0x96. -/
def execKeyCommit (s : State) : Host.Outcome State Fault Refusal :=
  .next { s with toPart := registerWrite keyAddr 0x96 s.toPart }

/-- KEY_OTHER (R46): a KEY byte; a value that another row names acts as that row's. -/
def execKeyOther (v : Byte) (s : State) : Host.Outcome State Fault Refusal :=
  .next { s with toPart := registerWrite keyAddr v s.toPart }

/-- PROMPT (R6, R21). -/
def execPrompt (v : Byte) (s : State) : Host.Outcome State Fault Refusal :=
  .next { s with toPart := registerWrite promptAddr v s.toPart }

/-- NOTICE_CLEAR (R11): a byte of the notice word. -/
def execNoticeClear (high : Bool) (v : Byte) (s : State) : Host.Outcome State Fault Refusal :=
  .next { s with toPart := registerWrite (if high then noticeAddr + 1 else noticeAddr) v s.toPart }

/-- NOTICE_MASK_WRITE (R13): a byte of the notice mask. -/
def execNoticeMaskWrite (high : Bool) (v : Byte) (s : State) : Host.Outcome State Fault Refusal :=
  .next { s with toPart := registerWrite (if high then maskAddr + 1 else maskAddr) v s.toPart }

/-- READ_MARK_WRITE (R171). -/
def execReadMarkWrite (v : Byte) (s : State) : Host.Outcome State Fault Refusal :=
  .next { s with toPart := registerWrite readMarkAddr v s.toPart }

end Sys2Proof.Machine
end

