-- ==== Sys2Proof/Machine/Clock.lean ====
section
/-! DEFINITION. What an idle microsecond does (log entry 3): the free count rises (R66), the one-shot timers that run
come nearer to their ends, and the waiting record accesses are granted. The expiries themselves are commands. -/

namespace Sys2Proof.Machine

def runDown (t : Timer) : Timer := t.map (· - 1)

def ChimePhase.runDown : ChimePhase → ChimePhase
  | .idle => .idle
  | .tone n => .tone (n - 1)
  | .gap n => .gap (n - 1)

/-- R149: a paused confirm timer stands still. -/
def Confirm.runDown (c : Confirm) : Confirm := if c.paused then c else { c with left := c.left - 1 }

/-- The timers of a part that is past INIT at one microsecond. -/
def runTimers (p : Part) : Part :=
  { p with
    free := p.free + 1
    ctl := { p.ctl with
      settle := runDown p.ctl.settle
      proving := p.ctl.proving.map fun c => { c with timer := runDown c.timer } }
    lamps := p.lamps.map fun l => { l with onDelay := runDown l.onDelay }
    chime := { p.chime with phase := p.chime.phase.runDown, test := runDown p.chime.test }
    acct := { p.acct with confirm := p.acct.confirm.map Confirm.runDown } }

/-- One microsecond of a part that is past INIT: the link asks for nothing in it, so the record accesses that wait are granted
(R7, log entry 7). -/
def passMicrosecond (p : Part) : Part := (runTimers p).grantAll

/-- A step on an empty queue. -/
def idleStep (p : Part) : Part := if p.ctl.op = .init then p else passMicrosecond p

end Sys2Proof.Machine
end

