-- ==== Sys2Proof/Machine/Dispatch.lean ====
section
/-! DEFINITION. One arm per command: the meaning each row of the table has. -/

namespace Sys2Proof.Machine

def exec (i : Instr) (s : State) : Host.Outcome State Fault Refusal :=
  match i with
  | .powerOn => Sys2Proof.Machine.execPowerOn s
  | .initEnd strap ign belowDip now => Sys2Proof.Machine.execInitEnd strap ign belowDip now s
  | .selAssert => Sys2Proof.Machine.execSelAssert s
  | .readCommand => Sys2Proof.Machine.execReadCommand s
  | .writeCommand => Sys2Proof.Machine.execWriteCommand s
  | .ignore b => Sys2Proof.Machine.execIgnore b s
  | .addressHigh b => Sys2Proof.Machine.execAddressHigh b s
  | .addressLow b => Sys2Proof.Machine.execAddressLow b s
  | .dataRead => Sys2Proof.Machine.execDataRead s
  | .dataWrite v => Sys2Proof.Machine.execDataWrite v s
  | .selRelease => Sys2Proof.Machine.execSelRelease s
  | .keyArm => Sys2Proof.Machine.execKeyArm s
  | .keyCommit => Sys2Proof.Machine.execKeyCommit s
  | .keyOther v => Sys2Proof.Machine.execKeyOther v s
  | .prompt v => Sys2Proof.Machine.execPrompt v s
  | .noticeClear high v => Sys2Proof.Machine.execNoticeClear high v s
  | .noticeMaskWrite high v => Sys2Proof.Machine.execNoticeMaskWrite high v s
  | .readMarkWrite v => Sys2Proof.Machine.execReadMarkWrite v s
  | .scanTimerExpiry => Sys2Proof.Machine.execScanTimerExpiry s
  | .exchangeScan => Sys2Proof.Machine.execExchangeScan s
  | .setActivity slot seat activity => Sys2Proof.Machine.execSetActivity slot seat activity s
  | .cardIn slot seat flags identity cdt ddt => Sys2Proof.Machine.execCardIn slot seat flags identity cdt ddt s
  | .cardOut slot seat => Sys2Proof.Machine.execCardOut slot seat s
  | .swapSeats slot => Sys2Proof.Machine.execSwapSeats slot s
  | .setTime slot clock => Sys2Proof.Machine.execSetTime slot clock s
  | .ackLamp slot which => Sys2Proof.Machine.execAckLamp slot which s
  | .setLamp slot lamp value => Sys2Proof.Machine.execSetLamp slot lamp value s
  | .prove slot => Sys2Proof.Machine.execProve slot s
  | .homePointer slot which => Sys2Proof.Machine.execHomePointer slot which s
  | .showPage slot page => Sys2Proof.Machine.execShowPage slot page s
  | .snapshot slot page => Sys2Proof.Machine.execSnapshot slot page s
  | .restart slot => Sys2Proof.Machine.execRestart slot s
  | .resetAssert => Sys2Proof.Machine.execResetAssert s
  | .resetRelease => Sys2Proof.Machine.execResetRelease s
  | .supplyBelowReset => Sys2Proof.Machine.execSupplyBelowReset s
  | .supplyAboveReset => Sys2Proof.Machine.execSupplyAboveReset s
  | .restartEnd strap ign belowDip now => Sys2Proof.Machine.execRestartEnd strap ign belowDip now s
  | .ignRise now => Sys2Proof.Machine.execIgnRise now s
  | .ignFall => Sys2Proof.Machine.execIgnFall s
  | .parkEntry => Sys2Proof.Machine.execParkEntry s
  | .commitEnd => Sys2Proof.Machine.execCommitEnd s
  | .dipStart => Sys2Proof.Machine.execDipStart s
  | .recovery => Sys2Proof.Machine.execRecovery s
  | .settleTimerExpiry => Sys2Proof.Machine.execSettleTimerExpiry s
  | .provingTimerExpiry => Sys2Proof.Machine.execProvingTimerExpiry s
  | .testToneEnd => Sys2Proof.Machine.execTestToneEnd s
  | .conversionSlot level => Sys2Proof.Machine.execConversionSlot level s
  | .conversionComplete => Sys2Proof.Machine.execConversionComplete s
  | .pulseEdge input rising now => Sys2Proof.Machine.execPulseEdge input rising now s
  | .windowEnd input => Sys2Proof.Machine.execWindowEnd input s
  | .discreteSample ign pins now => Sys2Proof.Machine.execDiscreteSample ign pins now s
  | .switchChange input state => Sys2Proof.Machine.execSwitchChange input state s
  | .motionTick => Sys2Proof.Machine.execMotionTick s
  | .homingEnd ptr => Sys2Proof.Machine.execHomingEnd ptr s
  | .coilPeriodBoundary => Sys2Proof.Machine.execCoilPeriodBoundary s
  | .onDelayExpiry lamp => Sys2Proof.Machine.execOnDelayExpiry lamp s
  | .flashPhaseChange fast => Sys2Proof.Machine.execFlashPhaseChange fast s
  | .lampPeriodBoundary => Sys2Proof.Machine.execLampPeriodBoundary s
  | .senseCheck low => Sys2Proof.Machine.execSenseCheck low s
  | .overcurrent lamp => Sys2Proof.Machine.execOvercurrent lamp s
  | .chimeToneEnd => Sys2Proof.Machine.execChimeToneEnd s
  | .chimeGapEnd => Sys2Proof.Machine.execChimeGapEnd s
  | .secondTick => Sys2Proof.Machine.execSecondTick s
  | .confirmTimerExpiry => Sys2Proof.Machine.execConfirmTimerExpiry s
  | .journalSubmission sub => Sys2Proof.Machine.execJournalSubmission sub s
  | .panelRefresh => Sys2Proof.Machine.execPanelRefresh s
  | .messageDisplayTimeout => Sys2Proof.Machine.execMessageDisplayTimeout s

end Sys2Proof.Machine
end

