-- ==== Sys2Proof/Safety.lean ====
section
/-! DEFINITION. The terms in which claims speak of the machine: whose bytes the exchange memory holds, which commands come over
the link, the row that a request slot spells, and the laws that the state keeps. -/

namespace Sys2Proof.Machine

/-! ### Whose bytes (Table 1-2) -/

/-- The bytes that the part itself writes: the header, the error log, and every record and entry below the configuration
area; neither the notice mask, the inbox, nor the request slots. -/
def partByte (a : Nat) : Prop := a < maskAddr ∨ (scanCountAddr ≤ a ∧ a < inboxAddr 0) ∨ (checkRecordAddr ≤ a ∧ a < configStart)

/-- The bytes of the request slots: the host posts, the part takes and answers. -/
def slotByte (a : Nat) : Prop := slotAddr 0 ≤ a ∧ a < checkRecordAddr

/-- The bytes of the configuration area (R46). -/
def configByte (a : Nat) : Prop := configStart ≤ a ∧ a < configEnd

/-- The second memory agrees with the first on every byte outside a set of addresses. -/
def agreeOutside (A : Nat → Prop) (m n : Mem) : Prop := ∀ a, ¬ A a → memRead n a = memRead m a

/-- An address among the `n` from `a` on. -/
def inRecord (a n k : Nat) : Prop := a ≤ k ∧ k < a + n

/-- The bytes of the notice word. -/
def noticeByte (k : Nat) : Prop := inRecord noticeAddr 2 k

/-- The header's operating-state and access-state bytes. -/
def stateByte (k : Nat) : Prop := inRecord 2 2 k

/-- Addresses whose written bytes are stored in every state (Table 1-2). -/
def storedAddr (a : Nat) : Prop := inRecord 0x000A 2 a ∨ inRecord 0x0040 0x180 a

/-- Addresses whose written bytes are protected in every state (Table 1-2, R6). -/
def guardedAddr (a : Nat) : Prop :=
  inRecord 0x0000 8 a ∨ inRecord 0x000C 0x34 a ∨ inRecord 0x01C0 0x21 a ∨ inRecord 0x01E2 0x0E a ∨ inRecord 0x0200 0x360 a ∨
  inRecord 0x0580 0x1A0 a ∨ inRecord 0x0780 0x880 a ∨ inRecord 0x3FF0 3 a

/-- Addresses of the configuration records: stored while the access is OPEN, protected otherwise (Table 1-2). -/
def recordAddr (a : Nat) : Prop := inRecord 0x1000 0x60 a ∨ inRecord 0x1100 0x980 a ∨ inRecord 0x1B00 0x1400 a

/-- The unassigned addresses (Table 1-2). -/
def unassignedAddr (a : Nat) : Prop :=
  inRecord 0x01F0 0x10 a ∨ inRecord 0x0560 0x20 a ∨ inRecord 0x0720 0x60 a ∨ inRecord 0x1060 0xA0 a ∨ inRecord 0x1A80 0x80 a ∨
  inRecord 0x2F00 0x10F0 a ∨ inRecord 0x3FF5 11 a

/-- A WRITE transfer has reached this address, and the part serves it. -/
def offersAt (s : State) (a : BitVec 14) : Prop := s.live = true ∧ s.link.state = .data true a

/-- R46: what a write elsewhere does to the access state and to the header that shows it. -/
def elsewhereSeen (s t : State) : Prop :=
  t.ctl = { s.ctl with access := if s.ctl.access = .armed then .locked else s.ctl.access } ∧
  (s.ctl.access = .armed → memReadN t.mem 2 2 = [s.ctl.op.code, 0])

/-- The bytes that a write elsewhere rewrites: the header's state bytes, when it takes the access from ARMED to LOCKED. -/
def elsewhereByte (s : State) (k : Nat) : Prop := s.ctl.access = .armed ∧ stateByte k

/-- R4: what a protected byte leaves of the memory that its access finds: WPROT clear, the record filled and WPROT set; WPROT
set, the further-writes count raised. -/
def protectedOffer (cause : Byte) (a : Nat) (v : Byte) (m n : Mem) : Prop :=
  if noticeOn m .wprot then
    memRead n 0x1D6 = BitVec.ofNat 8 (min 255 ((memRead m 0x1D6).toNat + 1)) ∧ agreeOutside (· = 0x1D6) m n
  else
    memReadN n 0x1D0 16 = [cause, v, BitVec.ofNat 8 a, BitVec.ofNat 8 (a / 256), memRead m 0x0C, memRead m 0x0D] ++ List.replicate 10 0 ∧
    noticeWord n = noticeWord m ||| 4#16 ∧ agreeOutside (fun k => noticeByte k ∨ inRecord 0x1D0 16 k) m n

/-! ### What a link byte access finds, and where it lands (R7) -/

/-- How many of the waiting record accesses are granted before a link byte access at `a`: none at the register window, which is
the model's choice (log entry 7). -/
def grantsBefore (s : Part) (a : Nat) : Nat := if a < 0x3FF0 then s.arb.beforeLink else 0

/-- The memory that a link byte access at `a` finds at its grant. -/
def found (s : Part) (a : Nat) : Mem := (grantSome (grantsBefore s a) s.exch s.arb.waiting).1

/-- The arbiter after a link byte access at `a`. -/
def arbAfter (s : Part) (a : Nat) : Arbiter :=
  if a < 0x3FF0 then { last := .link, waiting := (grantSome (grantsBefore s a) s.exch s.arb.waiting).2, idx := s.arb.idx + 1 }
  else s.arb

/-- A link write at `a` leaves the exchange memory `m`, with the accesses behind it still waiting; where it takes the access
from ARMED to LOCKED, those and the header's state bytes are granted after it (R46, log entry 7). -/
def landed (s t : Part) (a : Nat) (m : Mem) : Prop :=
  (s.ctl.access ≠ .armed → t.exch = m ∧ t.arb = arbAfter s a) ∧
  (s.ctl.access = .armed → t.arb = { arbAfter s a with last := .record, waiting := [] } ∧
    t.exch = grantAccesses m ((arbAfter s a).waiting ++ [.write 2 [s.ctl.op.code, 0]]))

/-- R167: the control record shows the four quantities of the Journal. -/
def controlRecordShows (j : Journal) (m : Mem) : Prop :=
  memReadN m 0x1E0 6 = [BitVec.ofNat 8 j.wm.val, BitVec.ofNat 8 j.rm.val] ++ leBytes 2 j.lost.toNat ++ leBytes 2 j.seq.toNat

/-! ### What a block's record access may write (R7) -/

/-- The `n` bytes from `a` on are one record access's worth of the part's own bytes, clear of the notice word: 1 to 32
consecutive bytes, of the header before the notice word, of the header after the notice mask, or from the check record to the
journal. -/
def ownRecord (a n : Nat) : Prop :=
  1 ≤ n ∧ n ≤ 32 ∧ (a + n ≤ 0x08 ∨ (0x0C ≤ a ∧ a + n ≤ 0x40) ∨ (0x1C0 ≤ a ∧ a + n ≤ 0x1000))

/-- R7: the record accesses that the blocks ask for: up to 32 bytes of a record of the part's own or of a request slot, a
notice, a failed check of an inbox slot (8 bytes) or of a request slot (32 bytes), or the answer to a request slot. -/
def blockAccess : RecordAccess → Prop
  | .write a bs => ownRecord a bs.length ∨ ∃ i : Fin 8, a = 0xC0 + 32 * i.val ∧ 1 ≤ bs.length ∧ bs.length ≤ 32
  | .notice _ => True
  | .checkFailure area slot bs => (area = 1 ∧ slot < 16 ∧ bs.length = 8) ∨ (area = 2 ∧ slot < 8 ∧ bs.length = 32)
  | .answer _ bs => 1 ≤ bs.length ∧ bs.length ≤ 32

/-- Every waiting record access is one that a block may ask for. -/
def WaitingLaw (p : Part) : Prop := ∀ x ∈ p.arb.waiting, blockAccess x

/-! ### Which commands -/

/-- The commands that come over the link. -/
def linkCommand : Instr → Prop
  | .selAssert | .readCommand | .writeCommand | .ignore _ | .addressHigh _ | .addressLow _ | .dataRead | .dataWrite _
  | .selRelease | .keyArm | .keyCommit | .keyOther _ | .prompt _ | .noticeClear _ _ | .noticeMaskWrite _ _
  | .readMarkWrite _ => True
  | .powerOn | .initEnd _ _ _ _ | .scanTimerExpiry | .exchangeScan | .setActivity _ _ _ | .cardIn _ _ _ _ _ _ | .cardOut _ _
  | .swapSeats _ | .setTime _ _ | .ackLamp _ _ | .setLamp _ _ _ | .prove _ | .homePointer _ _ | .showPage _ _
  | .snapshot _ _ | .restart _ | .resetAssert | .resetRelease | .supplyBelowReset | .supplyAboveReset | .restartEnd _ _ _ _
  | .ignRise _ | .ignFall | .parkEntry | .commitEnd | .dipStart | .recovery | .settleTimerExpiry | .provingTimerExpiry
  | .testToneEnd | .conversionSlot _ | .conversionComplete | .pulseEdge _ _ _ | .windowEnd _ | .discreteSample _ _ _
  | .switchChange _ _ | .motionTick | .homingEnd _ | .coilPeriodBoundary | .onDelayExpiry _ | .flashPhaseChange _
  | .lampPeriodBoundary | .senseCheck _ | .overcurrent _ | .chimeToneEnd | .chimeGapEnd | .secondTick | .confirmTimerExpiry
  | .journalSubmission _ | .panelRefresh | .messageDisplayTimeout => False

/-- Commands that read nothing of the exchange memory and change neither the operating state nor the access state: what they
write, they only ask for (R7). -/
def onlyAsks : Instr → Prop
  | .scanTimerExpiry | .testToneEnd | .conversionSlot _ | .conversionComplete | .pulseEdge _ _ _
  | .windowEnd _ | .switchChange _ _ | .coilPeriodBoundary | .onDelayExpiry _ | .flashPhaseChange _ | .lampPeriodBoundary
  | .senseCheck _ | .overcurrent _ | .chimeToneEnd | .chimeGapEnd | .secondTick | .confirmTimerExpiry | .journalSubmission _
  | .panelRefresh | .messageDisplayTimeout | .dipStart | .recovery | .settleTimerExpiry => True
  | .powerOn | .initEnd _ _ _ _ | .selAssert | .readCommand | .writeCommand | .ignore _ | .addressHigh _ | .addressLow _
  | .dataRead | .dataWrite _ | .selRelease | .keyArm | .keyCommit | .keyOther _ | .prompt _ | .noticeClear _ _
  | .noticeMaskWrite _ _ | .readMarkWrite _ | .exchangeScan | .setActivity _ _ _ | .cardIn _ _ _ _ _ _ | .cardOut _ _
  | .swapSeats _ | .setTime _ _ | .ackLamp _ _ | .setLamp _ _ _ | .showPage _ _ | .snapshot _ _ | .prove _ | .homePointer _ _
  | .restart _ | .resetAssert
  | .resetRelease | .supplyBelowReset | .supplyAboveReset | .restartEnd _ _ _ _ | .ignRise _ | .ignFall | .parkEntry | .commitEnd
  | .provingTimerExpiry | .discreteSample _ _ _ | .motionTick | .homingEnd _ => False

/-- The row that the thirty-two bytes of a request slot spell (Table 2-4, Table 11-6); none for a kind of no request. -/
def requestRow (i : Fin 8) (t : List Byte) : Option Instr :=
  match (byteAt t 1).toNat with
  | 1 => some (.setActivity i (byteAt t 4) (byteAt t 5))
  | 2 => some (.cardIn i (byteAt t 4) (byteAt t 5) (paramIdentity t 6) (paramHalf t 22) (paramHalf t 24))
  | 3 => some (.cardOut i (byteAt t 4))
  | 4 => some (.swapSeats i)
  | 5 => some (.setTime i (paramWord t 4))
  | 6 => some (.ackLamp i (byteAt t 4))
  | 7 => some (.setLamp i (byteAt t 4) (byteAt t 5))
  | 8 => some (.prove i)
  | 9 => some (.homePointer i (byteAt t 4))
  | 10 => some (.showPage i (byteAt t 4))
  | 11 => some (.snapshot i (byteAt t 4))
  | 12 => some (.restart i)
  | _ => none

/-- R23: an accepted long request marks its slot: one that reads POSTED then holds the bytes as taken, with state TAKEN and a
check byte that fits; any other slot is as it was. -/
def slotMarked (i : Fin 8) (taken : List Byte) (m n : Mem) : Prop :=
  let a := 0xC0 + 32 * i.val
  (memRead m a = 1 → memReadN n a 31 = 2 :: (taken.drop 1).take 30 ∧ xorBytes (memReadN n a 32) = 0) ∧
  (memRead m a ≠ 1 → memReadN n a 32 = memReadN m a 32)

/-! ### What the Journal takes (R162, R168, R169) -/

/-- The entries of the first five warnings that begin or end, in the order of Table 8-4. -/
def warningEntries (was is : BitVec 6) : List Submission :=
  (if is.getLsbD 1 && !was.getLsbD 1 then [.overrun false] else []) ++
  (if is.getLsbD 3 && !was.getLsbD 3 then [.overrun true] else []) ++
  (if is.getLsbD 4 != was.getLsbD 4 then [.noCardMoving (was.getLsbD 4)] else [])

/-- The entry of SPEED_LOST, where it begins or ends. -/
def speedLostEntries (was is : BitVec 6) : List Submission :=
  if is.getLsbD 5 != was.getLsbD 5 then [.speedLost (was.getLsbD 5)] else []

/-- The ACTIVITY entries of a change to a motion state, seat 1 first. -/
def activityEntries (moving : Bool) (a : Acct) : List Submission :=
  [SeatId.one, .two].flatMap fun id => match getSeat a id with
    | none => []
    | some x =>
      if effectiveOf id moving x.selected = x.effective then [] else [.activity id x.effective (effectiveOf id moving x.selected)]

/-- R151, R152, R162: the entries of a motion state forced to STOPPED: SPEED_LOST ends, then the activities, then the warnings.
-/
def stoppingEntries (a b : Acct) : List Submission :=
  (if a.warnings.getLsbD 5 then [.speedLost true] else []) ++ (if a.moving then activityEntries false a else []) ++
    warningEntries a.warnings b.warnings

/-- The Journal of `q`, its marks and its bytes, is what these submissions, one after another, make of that of `p`. -/
def journalTakes (subs : List Submission) (p q : Part) : Prop :=
  let r := subs.foldl (fun p e => submit e p) p
  q.jour = r.jour ∧ ∀ k, inRecord 0x800 0x800 k → memRead q.mem k = memRead r.mem k

/-! ### Lamp conditions (R122 to R128, Table 7-4) -/

/-- Table 7-4: the lamp state after a condition that takes a truth; the same truth is no event. -/
def lampStateAfter (r : LampRec) (l : Lamp) (truth : Bool) : LampState :=
  if truth = l.cond then l.state
  else match l.state with
    | .off => if truth then (if r.onDelay = 0 then .on else .pending) else .off
    | .pending => if truth then .pending else .off
    | .on => if truth then .on else if r.latch then .latched else .off
    | .acked => if truth then .acked else .off
    | .latched => if truth then .on else .latched

/-- R122: the condition of a lamp, not a frozen one, stands as its stored inputs give it. -/
def conditionStands (p : Part) (i : Fin 32) : Prop :=
  p.lamps[i].hyst = hysteresis (lampRec p.working i) p.lamps[i].chanLast p.lamps[i].hyst ∧
  p.lamps[i].cond = (kindTruth p i p.lamps[i].hyst && gateOpen p i)

/-! ### What a delivery does (R58, R78, R97) -/

/-- A channel after a taken raw sample (R80, R95). -/
def sampled (w : Mem) (c : Fin 32) (raw : Int) (x : Chan) : Chan :=
  { sampleTaken w c raw x with update := x.update + 1 }

/-- R95: a change of a channel's running state raises its update count. -/
def chanChanged (q p : Part) (c : Fin 32) : Prop := p.chans[c].update ≠ q.chans[c].update

/-- R97, R104: the used pointers of the channels `ch` take the result as their last one, and in FOLLOW the target that it gives;
no other pointer changes. -/
def pointersTold (ch : Fin 32 → Prop) (q p : Part) : Prop :=
  ∀ i : Fin 6,
    (∀ c : Fin 32, ptrUsed q.working i = true → (ptrRec q.working i).chan = c.val → ch c →
      let x := { q.ptrs[i] with last := chanResult p.chans[c] }
      p.ptrs[i] = { x with target := if x.state = .follow then followTarget (ptrRec q.working i) x else x.target }) ∧
    ((∀ c : Fin 32, ptrUsed q.working i = true → (ptrRec q.working i).chan = c.val → ¬ ch c) →
      p.ptrs[i] = q.ptrs[i])

/-- R97, R122, R127: the used lamps whose channel or gate channel is among `ch` take its result, and their conditions, unless
frozen, stand as it gives them. No other condition changes, unless a DRIVETIME lamp's, which then stands as its warning gives
it. -/
def lampsTold (ch : Fin 32 → Prop) (q p : Part) : Prop :=
  ∀ i : Fin 32,
    let r := lampRec q.working i
    let own (c : Fin 32) : Prop := r.kind.usesChannel = true ∧ r.chan = c.val ∧ ch c
    let gate (c : Fin 32) : Prop := lampUsed q.working i = true ∧ r.gate = some c.val ∧ ch c
    (∀ c, own c → p.lamps[i].chanLast = chanResult p.chans[c]) ∧
    ((∀ c, ¬ own c) → p.lamps[i].chanLast = q.lamps[i].chanLast) ∧
    (∀ c, gate c → p.lamps[i].gateLast = chanResult p.chans[c]) ∧
    ((∀ c, ¬ gate c) → p.lamps[i].gateLast = q.lamps[i].gateLast) ∧
    (lampUsed q.working i = false ∨ conditionFrozen q i = true → p.lamps[i].cond = q.lamps[i].cond) ∧
    (lampUsed q.working i = true → conditionFrozen q i = false → (∃ c, own c ∨ gate c) → conditionStands p i) ∧
    ((∀ c, ¬ own c ∧ ¬ gate c) →
      p.lamps[i].cond = q.lamps[i].cond ∨ (r.kind = .drivetime ∧ conditionStands p i))

/-- R97, R135: the dimming level's last result is the dimming channel's, if that is among `ch`. -/
def dimmingTold (ch : Fin 32 → Prop) (q p : Part) : Prop :=
  (∀ c, dimmingChannel q.working = some c → ch c → p.lampU.dim = chanResult p.chans[c]) ∧
  ((∀ c, dimmingChannel q.working = some c → ¬ ch c) → p.lampU.dim = q.lampU.dim)

/-- R97, R149, R151: the motion detector hears of a change of the motion channel, and acts on the confirm timer and on
SPEED_LOST as MotionIsConfirmed says; with no change it does neither. -/
def motionTold (q p : Part) : Prop :=
  (∀ c, motionChannel q.working = some c → p.chans[c].update = q.chans[c].update + 1 →
    let r := notifyMotion c (chanResult p.chans[c]) false q
    p.acct.confirm = r.acct.confirm ∧ p.acct.warnings.getLsbD 5 = r.acct.warnings.getLsbD 5) ∧
  ((∀ c, motionChannel q.working = some c → ¬ chanChanged q p c) →
    p.acct.confirm = q.acct.confirm ∧ p.acct.warnings.getLsbD 5 = q.acct.warnings.getLsbD 5)

/-- R97: every consumer of a changed channel is told of its result. -/
def consumersTold (q p : Part) : Prop :=
  pointersTold (chanChanged q p) q p ∧ lampsTold (chanChanged q p) q p ∧ dimmingTold (chanChanged q p) q p ∧ motionTold q p

/-- Beyond the channels themselves, a change of channels reaches their consumers, and nothing else: pointers, lamps with the
chime and the message stack, the dimming level, the confirm timer and SPEED_LOST with its journal entry, and the records. -/
def onlyConsumers (q p : Part) : Prop :=
  p = { q with
    exch := p.exch, arb := p.arb, chans := p.chans, ptrs := p.ptrs, lamps := p.lamps, chime := p.chime, jour := p.jour
    lampU := { q.lampU with warn := p.lampU.warn, dim := p.lampU.dim }
    acct := { q.acct with confirm := p.acct.confirm, warnings := p.acct.warnings }
    panel := { q.panel with stack := p.panel.stack } } ∧
  agreeOutside partByte q.mem p.mem ∧ consumersTold q p

/-- A raw sample of a source goes to every channel that names it, if such an arrival is taken. -/
def rawDelivered (kind : SourceKind) (index : Nat) (raw : Int) (q p : Part) : Prop :=
  onlyConsumers q p ∧
  ∀ c : Fin 32, p.chans[c] =
    if arrivalTaken q kind && chanNames q.working c kind index then sampled q.working c raw q.chans[c] else q.chans[c]

/-! ### What resets leave of the lamps and the chime (R145) -/

/-- After a commit or a restart's end under the configuration `w`, from `s`: the conditions, reset, are evaluated from UNSET
channels, so a lamp can have come on only as an ungated DRIVETIME lamp of an active warning or an ungated LAMPFAULT lamp of a
fault; every other lamp is OFF with all that R145 clears, and none but such lamps stands in the message stack. For records whose
channels exist. -/
def lampsAreReset (w : Mem) (s t : Part) : Prop :=
  let faulty : Prop := ∃ j : Fin 32, lampUsed w j = true ∧ (lampRec w j).prove = true ∧
    (s.lamps[j].diag = .open ∨ s.lamps[j].diag = .short)
  let lights (i : Fin 32) : Prop := (lampRec w i).gate = none ∧
    ((lampRec w i).kind = .drivetime ∧ t.acct.warnings.getLsbD (lampRec w i).selector = true ∨
      (lampRec w i).kind = .lampfault ∧ faulty)
  (∀ i : Fin 32, ((lampRec w i).kind.usesChannel = true → (lampRec w i).chan ≤ 31) ∧ ∀ g, (lampRec w i).gate = some g → g ≤ 31) →
  (∀ i : Fin 32, t.lamps[i].requested = false ∧ t.lamps[i].hyst = false ∧
    (¬ lights i → t.lamps[i].state = .off ∧ t.lamps[i].cond = false ∧ t.lamps[i].onDelay = none ∧ t.lamps[i].msg = .none ∧
      t.lamps[i].owed = false) ∧
    (lights i → (lampRec w i).kind = .drivetime → t.lamps[i].cond = true ∧
      t.lamps[i].state = if (lampRec w i).onDelay = 0 then .on else .pending)) ∧
  ∀ e ∈ t.panel.stack, lights e.lamp

/-- R141: the arbiter at its starting values; its test tone alone may have begun, with a proving cycle. -/
def chimeIsReset (t : Part) : Prop :=
  t.chime = { phase := .idle, lastRepeat := false, served := [], test := t.chime.test, testMuted := false, deferred := true } ∧
  (t.chime.test = none ∨ t.chime.test = some 300000 ∧ t.ctl.proving.isSome)

/-- R36, R42: entered with every pointer marked, STARTING begins its START cycle at once only where no pointer is used. -/
def startCycleAtOnce (w : Mem) (t : Part) : Prop :=
  (t.ctl.op = .starting ∧ (∀ i : Fin 6, ptrUsed w i = false) →
    t.ctl.proving = some { kind := .start, timer := some (provingTime w), sweeps := [] }) ∧
  (¬ (t.ctl.op = .starting ∧ ∀ i : Fin 6, ptrUsed w i = false) → t.ctl.proving = none)

/-! ### What ends of homings and rests bring about (R40, R42, R111 to R116) -/

/-- R112: a pointer whose homing ends: its position known, in the state that the operating state gives. -/
def homed (s : Part) (i : Fin 6) : Ptr :=
  let r := ptrRec s.working i
  let at0 : Ptr := { s.ptrs[i] with pos := 0, target := 0 }
  let home (st : PtrState) (target : Nat) : Ptr := { at0 with
    state := st, homeNeeded := false, target := target, speed := 0, stepsLeft := 0, sweep := .waiting, phase := 0
    pending := { a := 0, b := 100 } }
  if s.ctl.op = .parking then home .return 0
  else if s.ctl.op = .starting ∧ r.sweep = true then home .sweep 0
  else home .follow (followTarget r at0)

/-- R116: a pointer at rest at 0 that is released. -/
def parked (x : Ptr) : Ptr := { x with state := .released, pos := 0, target := 0, speed := 0, pending := { a := 0, b := 0 } }

/-- R113: the homings of `ended` are reported: the HOME_POINTER requests are left with their other pointers, and those left with
none are answered OK. -/
def homingsReported (ended : Fin 6 → Bool) (s t : Part) : Prop :=
  t.homeReqs = (s.homeReqs.map fun q => { q with left := q.left.filter fun j => !ended j }).filter (fun q => !q.left.isEmpty) ∧
  (∀ q ∈ s.homeReqs, (∀ j ∈ q.left, ended j = true) → t.req.holds[q.slot] = none ∧
    ∀ h, s.req.holds[q.slot] = some h →
      memRead s.mem (slotAddr q.slot) = 1 ∨ memRead s.mem (slotAddr q.slot) = 2 →
      memReadN t.mem (slotAddr q.slot) 4 = [3, byteAt h.taken 1, byteAt h.taken 2, 0]) ∧
  ∀ k : Fin 8, (∀ q ∈ s.homeReqs, q.slot = k → ∃ j ∈ q.left, ended j = false) → t.req.holds[k] = s.req.holds[k]

/-- R42, R114, R139, R143: the START cycle has begun: its timer, the sweeps of the used pointers flagged, the SHORT diagnoses
retried and the test tone. -/
def startCycleBegun (s t : Part) : Prop :=
  (∃ l, t.ctl.proving = some { kind := .start, timer := some (provingTime s.working), sweeps := l } ∧
    ∀ j, j ∈ l ↔ ptrUsed s.working j = true ∧ (ptrRec s.working j).sweep = true) ∧
  t.chime.test = some 300000 ∧ (∀ j : Fin 32, t.lamps[j].diag ≠ .short) ∧
  ∀ j : Fin 6, ptrUsed s.working j = true → (ptrRec s.working j).sweep = true →
    t.ptrs[j].state = .sweep ∧ t.ptrs[j].sweep ≠ .waiting

/-- R41, R116, R152: PARK has been entered from PARKING. -/
def parkEntered (s t : Part) : Prop :=
  t = { s with
    exch := t.exch, arb := t.arb, ptrs := t.ptrs, lamps := t.lamps, lampU := { s.lampU with warn := t.lampU.warn }, chime := t.chime
    jour := t.jour
    panel := t.panel, homeReqs := t.homeReqs, ctl := { s.ctl with op := .park }
    req := { s.req with holds := t.req.holds, scanTimer := some 1000 }
    acct := { s.acct with
      moving := false, confirm := none, warnings := t.acct.warnings, seat1 := t.acct.seat1, seat2 := t.acct.seat2 } } ∧
  memReadN t.mem 2 2 = [5, s.ctl.access.code] ∧ noticeOn t.mem .state = true ∧
  journalTakes (stoppingEntries s.acct t.acct) s t ∧
  agreeOutside (fun k => partByte k ∨ slotByte k) s.mem t.mem

/-! ### Messages (R181, R182) -/

/-- R181: an entry comes into the stack after the last one of its class. -/
def arrives (e : Entry) (l : List Entry) : List Entry :=
  l.takeWhile (fun x => x.cls.rank ≤ e.cls.rank) ++ e :: l.dropWhile (fun x => x.cls.rank ≤ e.cls.rank)

/-- The stack is `l`: the lamp of its first entry is SHOWN, those of the others are QUEUED, and every other lamp's message state
is `old`. -/
def stackIs (l : List Entry) (old : Fin 32 → MsgState) (p : Part) : Prop :=
  p.panel.stack = l ∧
  ∀ j : Fin 32, p.lamps[j].msg =
    if j ∈ l.tail.map (·.lamp) then .queued else if l.head?.map (·.lamp) = some j then .shown else old j

/-- The message states are those of `q`, but for lamp `i`, whose state is `m`; the stack is that of `q`. -/
def messageBecomes (i : Fin 32) (m : MsgState) (q p : Part) : Prop :=
  p.panel.stack = q.panel.stack ∧ p.lamps[i].msg = m ∧ ∀ j : Fin 32, j ≠ i → p.lamps[j].msg = q.lamps[j].msg

/-- R181: a message is admitted: with fewer than eight entries it comes into the stack; with eight, it takes the place of a last
entry of a lower class, whose lamp becomes WAITING, or its own lamp becomes WAITING. -/
def messageAdmitted (i : Fin 32) (q p : Part) : Prop :=
  let e : Entry := { lamp := i, cls := (lampRec q.working i).cls, shown := 0 }
  (q.panel.stack.length < 8 → stackIs (arrives e q.panel.stack) (fun j => q.lamps[j].msg) p) ∧
  ∀ l last, q.panel.stack = l ++ [last] → 7 ≤ l.length →
    (e.cls.rank < last.cls.rank →
      stackIs (arrives e l) (fun j => if j = last.lamp then .waiting else q.lamps[j].msg) p) ∧
    (last.cls.rank ≤ e.cls.rank → messageBecomes i .waiting q p)

/-- R182: a message leaves the stack, its lamp takes the message state `m`, and the WAITING lamp of the highest class, and of
the lowest index within it, is admitted. -/
def messageLeaves (i : Fin 32) (m : MsgState) (q p : Part) : Prop :=
  let rest := q.panel.stack.filter fun e => e.lamp != i
  let old (j : Fin 32) : MsgState := if j = i then m else q.lamps[j].msg
  let rank (j : Fin 32) : Nat := (lampRec q.working j).cls.rank
  let waits (j : Fin 32) : Prop := j ≠ i ∧ q.lamps[j].msg = .waiting
  ((∀ j, ¬ waits j) → stackIs rest old p) ∧
  ∀ j, waits j → (∀ k, waits k → rank j < rank k ∨ (rank j = rank k ∧ j ≤ k)) →
    stackIs (arrives { lamp := j, cls := (lampRec q.working j).cls, shown := 0 } rest) old p

/-- R181, R182: what the Panel Unit does when lamp `i`, whose record names a text, changes from `before` to `after`. -/
def messageFollows (i : Fin 32) (before after : LampState) (q p : Part) : Prop :=
  let m := q.lamps[i].msg
  let stays : Prop := messageBecomes i m q p
  (after = .pending ∨ after = .latched → stays) ∧
  (after = .on → (m = .none → messageAdmitted i q p) ∧ (m ≠ .none → stays)) ∧
  (after = .acked → (m = .none → stays) ∧ (m = .shown ∨ m = .queued → messageLeaves i .dismissed q p) ∧
    (m = .waiting ∨ m = .dismissed → messageBecomes i .dismissed q p)) ∧
  (after = .off → (before = .pending → stays) ∧
    (before ≠ .pending → (m = .shown ∨ m = .queued → messageLeaves i .none q p) ∧
      (m ≠ .shown → m ≠ .queued → messageBecomes i .none q p)))

/-! ### Validation (R48) -/

/-- The answer of a record's checks, each a condition with its reason: the reason of the first that does not hold. -/
def checksInOrder (answer : Option Reason) : List (Prop × Reason) → Prop
  | [] => answer = none
  | (ok, r) :: cs => (¬ ok → answer = some r) ∧ (ok → checksInOrder answer cs)

/-! ### The laws of the state -/

/-- The three memories of the part are in canonical form; a staging copy lists nothing beyond the pieces it has. -/
def MemoriesCanonical (p : Part) : Prop :=
  Memory.wf p.exch = true ∧ Memory.wf p.working = true ∧
  ∀ c, p.ctl.commit = some c → Memory.wf c.staging = true ∧ ∀ x ∈ c.staging, x.1 < configStart + 32 * c.copied

/-- R11: bits 12 to 15 of the notice word read 0, and no write that waits stands at the notice word, which changes by notices
and by the host alone. -/
def NoticeWordLaw (p : Part) : Prop :=
  (∀ k, 12 ≤ k → (noticeWord p.exch).getLsbD k = false) ∧
  ∀ a bs, RecordAccess.write a bs ∈ p.arb.waiting → ∀ k, noticeByte k → ¬ inRecord a bs.length k

/-- What the State Controller's parts have to do with one another (R42 to R47, R52, R53, R55). -/
def ControlLaw (p : Part) : Prop :=
  (p.ctl.commit.isSome → p.ctl.access = .opened) ∧
  (p.ctl.op = .init → p.ctl.access = .locked ∧ p.ctl.restart = none ∧ p.ctl.commit = none ∧ p.ctl.proving = none ∧
    p.ctl.supply = .normal) ∧
  (p.ctl.restart.isSome → p.ctl.access = .locked ∧ p.ctl.commit = none ∧ p.ctl.proving = none ∧ p.ctl.settle = none) ∧
  (p.ctl.restart = none → (p.ctl.settle.isSome ↔ p.ctl.supply = .settle)) ∧
  ∀ c, p.ctl.proving = some c →
    match c.kind with
    | .start => p.ctl.op = .starting
    | .request _ => p.ctl.op = .run

/-- Some lamp that is ON has a REPEAT demand or an owed ONCE demand (R141). -/
def someDemand (p : Part) : Prop := ∃ i : Fin 32, repeatDemand p i = true ∨ (p.lamps[i].owed = true ∧ p.lamps[i].state = .on)

/-- The chime arbiter's law (R141, R142, R143): demands are deferred exactly while they are not served; while they are
deferred nothing sounds; a tone that sounds has a REPEAT demand or a served demand still owed; demands are those of ON lamps;
the test tone runs in STARTING and RUN alone. -/
def ChimeLaw (p : Part) : Prop :=
  p.chime.deferred = !chimeServes p ∧
  (p.chime.deferred = true → p.chime.phase = .idle) ∧
  (∀ n, p.chime.phase = .tone n → anyRepeat p = true ∨ p.chime.served ≠ []) ∧
  (∀ i ∈ p.chime.served, p.lamps[i].owed = true) ∧
  (∀ i : Fin 32, p.lamps[i].owed = true → p.lamps[i].state = .on) ∧
  (p.chime.test.isSome → p.ctl.restart = none ∧ (p.ctl.op = .starting ∨ p.ctl.op = .run))

/-- R105: every used pointer's record has passed validation, and its position and its target lie within its travel. -/
def PointersWithinTravel (p : Part) : Prop :=
  ∀ i : Fin 6, ptrUsed p.working i = true →
    firstFailing (pointerChecks p.working i) = none ∧
    p.ptrs[i].pos ≤ (ptrRec p.working i).travel ∧ p.ptrs[i].target ≤ (ptrRec p.working i).travel

/-- R153, R157, R160: the laws of the two seat records. -/
def SeatLaws (a : Acct) : Prop :=
  (∀ x y, a.seat1 = some x → a.seat2 = some y → x.identity ≠ y.identity) ∧
  (∀ id x, getSeat a id = some x →
    x.selected ≠ .driving ∧ x.effective = effectiveOf id a.moving x.selected ∧ x.cdt ≤ x.ddt ∧ x.ddt < 2 ^ 32 ∧ x.span < 2 ^ 32)

/-- R181: the law of the message stack, with what the message states have to do with it. -/
def StackLaw (p : Part) : Prop :=
  p.panel.stack.length ≤ 8 ∧
  (p.panel.stack.map (·.lamp)).Nodup ∧
  (p.panel.stack.map (·.cls.rank)).Pairwise (· ≤ ·) ∧
  (∀ e ∈ p.panel.stack, e.cls = lampClassOf p e.lamp ∧ (p.lamps[e.lamp].state = .on ∨ p.lamps[e.lamp].state = .latched)) ∧
  (∀ e ∈ p.panel.stack.head?, p.lamps[e.lamp].msg = .shown) ∧
  (∀ e ∈ p.panel.stack.tail, p.lamps[e.lamp].msg = .queued) ∧
  (∀ i : Fin 32, (p.lamps[i].msg = .shown ∨ p.lamps[i].msg = .queued) → i ∈ p.panel.stack.map (·.lamp)) ∧
  (∀ i : Fin 32, p.lamps[i].msg = .waiting → p.panel.stack.length = 8 ∧ (p.lamps[i].state = .on ∨ p.lamps[i].state = .latched)) ∧
  (∀ i : Fin 32, p.lamps[i].msg ≠ .none →
    (lampRec p.working i).text.isSome ∧ p.lamps[i].state ≠ .off ∧ p.lamps[i].state ≠ .pending)

/-- R86, R87: a channel that holds a trusted value, or one held through a dip, keeps its accumulator within its range times
2^k, and its value is the filter's output. -/
def ChannelsWithinRange (p : Part) : Prop :=
  ∀ c : Fin 32, p.chans[c].quality = .good ∨ p.chans[c].quality = .held ∨ p.chans[c].quality = .dip →
    let r := chanRec p.working c
    r.lo * 2 ^ r.shift ≤ p.chans[c].acc ∧ p.chans[c].acc ≤ r.hi * 2 ^ r.shift + 2 ^ r.shift - 1 ∧
    p.chans[c].value = p.chans[c].acc / 2 ^ r.shift

/-- The sequence number, the kind and a GAP entry's lost count that a journal position holds (11.7). -/
def entrySeq (m : Mem) (k : Fin 64) : Half := BitVec.ofNat 16 (readNat m (0x800 + 32 * k.val) 2)
def entryKind (m : Mem) (k : Fin 64) : Byte := memRead m (0x802 + 32 * k.val)
def entryLost (m : Mem) (k : Fin 64) : Half := BitVec.ofNat 16 (readNat m (0x809 + 32 * k.val) 2)

/-- R167: a position of the unread run. -/
def unread (j : Journal) (k : Fin 64) : Prop := journalAhead j.rm k < unreadCount j

/-- R169, R170: the law of the journal. Entries are lost only while it is full; an unread entry's number is its predecessor's
plus one, and a GAP entry's is that plus its lost count; the next number goes on from the last entry and the numbers lost. -/
def JournalLaw (p : Part) : Prop :=
  (p.jour.lost ≠ 0 → journalHasRoom p.jour = false) ∧
  ∀ k : Fin 64, unread p.jour k →
    (k + 1 ≠ p.jour.wm → entrySeq p.mem (k + 1) =
      entrySeq p.mem k + 1 + (if entryKind p.mem (k + 1) = 13 then entryLost p.mem (k + 1) else 0)) ∧
    (k + 1 = p.jour.wm → p.jour.seq = entrySeq p.mem k + 1 + p.jour.lost)

/-- R32, R146, R167: the header shows the states and the clock, and the journal control record its four quantities. -/
def HeaderShows (p : Part) : Prop :=
  memReadN p.mem 2 2 = [p.ctl.op.code, p.ctl.access.code] ∧
  memReadN p.mem 0x0E 5 = leBytes 4 p.acct.clock.toNat ++ [flagByte p.acct.timeValid] ∧
  controlRecordShows p.jour p.mem

/-- A result record of `n` bytes at `a` shows a body between two equal edition bytes (R10). -/
def recordShows (m : Mem) (a n : Nat) (body : List Byte) : Prop :=
  memReadN m (a + 1) (n - 2) = body ∧ memRead m a = memRead m (a + n - 1)

/-- R94, R102, R144, R165: every result record but the panel mirror shows the running state, once the waiting accesses are
granted (log entry 7). -/
def RecordsShow (p : Part) : Prop :=
  (∀ c : Fin 32, recordShows p.mem (chanResultAddr c) 16 (chanBody p.chans[c])) ∧
  (∀ i : Fin 6, recordShows p.mem (ptrResultAddr i) 16 (ptrBody p.ptrs[i])) ∧
  (∀ i : Fin 32, recordShows p.mem (lampResultAddr i) 8 (lampBody p.lamps[i])) ∧
  recordShows p.mem summaryAddr 32 (summaryBody p.acct) ∧
  ∀ id : SeatId, recordShows p.mem (seatAddr id) 64 (seatBody p.acct id)

/-- The changes of operating state that chapter 3 knows, PARKING being left at once when its condition holds at entry, and a
restart ending in STARTING or PARK from any state (3.1, R36, R39 to R41, R50, R56). -/
def opMayChange (before after : OpState) : Prop :=
  match before with
  | .init => after = .unconfigured
  | .unconfigured => after = .starting ∨ after = .park
  | .starting => after = .run ∨ after = .parking ∨ after = .park
  | .run => after = .starting ∨ after = .parking ∨ after = .park
  | .parking => after = .run ∨ after = .park ∨ after = .starting
  | .park => after = .starting

end Sys2Proof.Machine
end

