-- ==== Sys2Proof/Certificates/Slice0/Obligations.lean ====
section
/-! DEFINITION. The statements for the provers. `exec c s = .next t` says that command `c` runs at `s` and leaves `t`. A frame is
written as an equation `t = { s with … }` that names every part of the state that may change; for exchange memory
`agreeOutside A s.mem t.mem` says that every byte outside `A` reads as before. `s.exch` is the memory as the link meets it and
`s.mem` the same once the record accesses that wait in `s.arb` are granted (R7, log entry 7). `Memory.wf s.exch` is the canonical
form, which every step keeps. -/

open Sys2Proof Sys2Proof.Machine

/-! ### The machine -/

/-- A step takes the command at the front of the queue and runs it on the rest; on an empty queue a microsecond passes, which is
the model's choice (log entry 3): nothing in INIT, else the free count rises, the running timers come nearer to their ends and
the waiting record accesses are granted (log entry 7). Every command, in every state, ends in a next state, and leaves the queue
as it was. -/
def Obligations.StepRunsTheFrontCommand : Prop :=
  (∀ (c : Instr) (s : State), ∃ t, exec c s = .next t ∧ t.pending = s.pending) ∧
  (∀ (s : State) (c : Instr) (rest : List Instr), step { s with pending := c :: rest } = exec c { s with pending := rest }) ∧
  (∀ s : State, s.pending = [] → s.ctl.op = .init → step s = .next s) ∧
  (∀ s : State, s.pending = [] → s.ctl.op ≠ .init → ∃ t, step s = .next t ∧
    t = { s with exch := s.mem, arb := t.arb, free := s.free + 1, ctl := t.ctl, lamps := t.lamps, chime := t.chime, acct := t.acct } ∧
    (s.arb.waiting = [] → t.arb = s.arb) ∧ (s.arb.waiting ≠ [] → t.arb = { s.arb with last := .record, waiting := [] }) ∧
    t.ctl = { s.ctl with settle := s.ctl.settle.map (· - 1), proving := t.ctl.proving } ∧
    t.ctl.proving = s.ctl.proving.map (fun c => { c with timer := c.timer.map (· - 1) }) ∧
    (∀ i : Fin 32, t.lamps[i] = { s.lamps[i] with onDelay := s.lamps[i].onDelay.map (· - 1) }) ∧
    t.chime = { s.chime with test := s.chime.test.map (· - 1), phase := t.chime.phase } ∧
    (s.chime.phase = .idle → t.chime.phase = .idle) ∧
    (∀ n, s.chime.phase = .tone n → t.chime.phase = .tone (n - 1)) ∧
    (∀ n, s.chime.phase = .gap n → t.chime.phase = .gap (n - 1)) ∧
    t.acct = { s.acct with confirm := t.acct.confirm } ∧
    t.acct.confirm = s.acct.confirm.map (fun c => if c.paused then c else { c with left := c.left - 1 }))

/-- The state right after power is applied, where the spec gives the values (R1, R11, R13, R15, R18, R25, R32, R57, R65, R71,
R75, R98, R102, R121, R141, R153, R167, R178, R184); the limits are those of the all-zero limits record (R148, log entry 1).
Every law of the state that steps keep holds there. -/
def Obligations.ResetState : Prop :=
  let s := State.reset
  s.pending = [] ∧ s.arb.waiting = [] ∧ s.ctl.op = .init ∧ s.ctl.access = .locked ∧ s.ctl.restart = none ∧ s.ctl.commit = none ∧
  s.ctl.proving = none ∧ s.ctl.settle = none ∧ s.live = false ∧
  s.link.state = .idle ∧ (∀ a, memRead s.exch a = 0) ∧ (∀ a, memRead s.working a = 0) ∧ s.attn = false ∧
  s.req.halt = false ∧ (∀ i : Fin 8, s.req.holds[i] = none) ∧ (∀ i : Fin 16, s.req.seen[i] = 0) ∧ s.req.restartSlots = [] ∧
  s.req.scanTimer = none ∧
  (∀ i : Fin 8, s.conv.codes[i] = 0) ∧ s.conv.pos = 0 ∧ s.conv.busy = none ∧
  (∀ i : Fin 4, s.pulse[i].freq = 0 ∧ s.pulse[i].tref = none ∧ s.pulse[i].lastEdge = none) ∧
  (∀ i : Fin 8, s.sw[i].raw = false ∧ s.sw[i].deb = false ∧ s.sw[i].taken = false) ∧
  (∀ i : Fin 32, s.chans[i].quality = .unset ∧ s.chans[i].value = 0 ∧ s.chans[i].acc = 0 ∧ s.chans[i].count = 0 ∧
    s.chans[i].age = 0 ∧ s.chans[i].update = 0) ∧
  (∀ i : Fin 6, s.ptrs[i].state = .released ∧ s.ptrs[i].homeNeeded = true ∧ s.ptrs[i].pos = 0 ∧ s.ptrs[i].target = 0 ∧
    s.ptrs[i].speed = 0 ∧ s.ptrs[i].active = { a := 0, b := 0 }) ∧
  (∀ i : Fin 32, s.lamps[i].state = .off ∧ s.lamps[i].cond = false ∧ s.lamps[i].hyst = false ∧ s.lamps[i].requested = false ∧
    s.lamps[i].onDelay = none ∧ s.lamps[i].msg = .none ∧ s.lamps[i].diag = .untested ∧ s.lamps[i].lowCount = 0 ∧
    s.lamps[i].sense = .none ∧ s.lamps[i].owed = false ∧ s.lamps[i].lit = false) ∧
  s.chime.phase = .idle ∧ s.chime.test = none ∧ s.chime.deferred = true ∧
  s.acct.clock = 0 ∧ s.acct.timeValid = false ∧ s.acct.moving = false ∧ s.acct.confirm = none ∧ s.acct.warnings = 0 ∧
  s.acct.seat1 = none ∧ s.acct.seat2 = none ∧ s.acct.limits = limitsOf s.working ∧
  s.jour = { wm := 0, rm := 0, seq := 0, lost := 0 } ∧ s.panel.basePage = 0 ∧ s.panel.stack = [] ∧
  let p := s.toPart
  MemoriesCanonical p ∧ ControlLaw p ∧ ChimeLaw p ∧ PointersWithinTravel p ∧ SeatLaws p.acct ∧ StackLaw p ∧
  ChannelsWithinRange p ∧ JournalLaw p ∧ HeaderShows p ∧ RecordsShow p ∧ NoticeWordLaw p ∧ WaitingLaw p

/-! ### The link -/

/-- R1, R5: the framing of transfers: each command of the framing, in the state that takes it, changes the transfer state and
nothing else. A byte access of a READ transfer while the part runs shifts out the byte at the address as it stands at the grant,
with some of the waiting record accesses granted before it (R7, LongRecordsAreWrittenInPieces); the register window reads IDENT
and STATE, and KEY, PROMPT and the unassigned bytes after them read 0x00. That an access to the register window takes no grant
is the model's choice (log entry 7). That SDO is idle from SEL's assertion through the command and address bytes, and after
SEL's release, is the model's choice too (log entry 24). -/
def Obligations.LinkFramesTransfersAndReads : Prop :=
  (∀ (s : State) (b : Byte),
    (s.link.state = .idle → exec .selAssert s = .next { s with link := { state := .command, sdo := none } }) ∧
    (s.link.state = .command →
      exec .readCommand s = .next { s with link := { s.link with state := .addressHigh false } } ∧
      exec .writeCommand s = .next { s with link := { s.link with state := .addressHigh true } } ∧
      (b ≠ 0x52 → b ≠ 0x57 → exec (.ignore b) s = .next { s with link := { s.link with state := .ignore } })) ∧
    (∀ w, s.link.state = .addressHigh w →
      exec (.addressHigh b) s = .next { s with link := { s.link with state := .addressLow w b } }) ∧
    (∀ w hi, s.link.state = .addressLow w hi →
      exec (.addressLow b) s =
        .next { s with link := { s.link with state := .data w (BitVec.ofNat 14 (256 * hi.toNat + b.toNat)) } }) ∧
    (s.link.state = .ignore → ∀ c ∈ [Instr.readCommand, .writeCommand, .ignore b, .addressHigh b, .addressLow b, .dataRead,
      .dataWrite b], exec c s = .next s) ∧
    exec .selRelease s = .next { s with link := { state := .idle, sdo := none } }) ∧
  ∀ (s : State) (a : BitVec 14), s.live = true → s.link.state = .data false a → ∃ v : Byte,
    exec .dataRead s = .next { s with
      exch := found s.toPart a.toNat, arb := arbAfter s.toPart a.toNat, link := { state := .data false (a + 1), sdo := some v } } ∧
    (a.toNat < 0x3FF0 → v = memRead (found s.toPart a.toNat) a.toNat) ∧
    (a.toNat < 0x3FF0 → s.arb.waiting = [] → v = memRead s.mem a.toNat) ∧
    (0x3FF0 ≤ a.toNat → found s.toPart a.toNat = s.exch ∧ arbAfter s.toPart a.toNat = s.arb) ∧
    (a.toNat = 0x3FF0 → v = 0x6B) ∧ (a.toNat = 0x3FF1 → v = 0x1E) ∧
    (a.toNat = 0x3FF2 → v.toNat = s.ctl.op.code.toNat + 16 * s.ctl.access.code.toNat) ∧
    (0x3FF3 ≤ a.toNat → v = 0)

/-- R2: while the part is not running, every byte read is 0x00, every byte written is discarded and only the transfer state
follows; and no command other than the link's own, and power-on, touches the link, so a transfer goes on through a restart. That
it goes on too where INIT begins again is the model's choice (log entry 2). That SDO stays as it is at a written byte is the
model's choice (log entry 24). -/
def Obligations.LinkOutsideService : Prop :=
  (∀ (s : State) (a : BitVec 14), s.live = false → s.link.state = .data false a →
    exec .dataRead s = .next { s with link := { state := .data false (a + 1), sdo := some 0 } }) ∧
  (∀ (s : State) (a : BitVec 14) (v : Byte), s.live = false → s.link.state = .data true a →
    exec (.dataWrite v) s = .next { s with link := { s.link with state := .data true (a + 1) } }) ∧
  (∀ (s : State) (v : Byte) (high : Bool), s.live = false → ∀ c ∈ [Instr.keyArm, .keyCommit, .keyOther v, .prompt v,
      .noticeClear high v, .noticeMaskWrite high v, .readMarkWrite v],
    ∃ t, exec c s = .next t ∧ t = { s with link := { s.link with state := t.link.state } }) ∧
  (∀ (c : Instr) (s t : State), ¬ linkCommand c → c ≠ .powerOn → exec c s = .next t → t.link = s.link)

/-- R3, R4: a DATA_WRITE of a byte that is stored, discarded, or falls in a configuration record while the access is OPEN. An
address that is stored takes the byte, and every other byte of the memory that the access finds is as it was; a write that takes
the access from ARMED to LOCKED has the header's state bytes written after it (R46). A write that overtakes a commit finds the
pieces up to a free number copied, as memory stood before it, which is the model's choice (log entry 11). At an address with a
row of its own the byte acts as that row's, which is the model's choice (log entry 5). A byte in a protected area, or in a
configuration record while the access is not OPEN, is discarded, and the protection record and WPROT follow (R4). That a write
at the register window takes no grant, and that the header's state bytes are granted at once, behind those that wait, is the
model's choice (log entry 7). That SDO stays as it is at a written byte is the model's choice (log entry 24). -/
def Obligations.WritesGetTheirDisposition : Prop :=
  ∀ (s : State) (a : BitVec 14) (v : Byte), Memory.wf s.exch = true → offersAt s a →
    let before : Mem := found s.toPart a.toNat
    let written (t : State) : Prop := exec (.dataWrite v) s = .next t ∧
      t = { s with link := { s.link with state := .data true (a + 1) }, ctl := t.ctl, exch := t.exch, arb := t.arb } ∧ elsewhereSeen s t
    (storedAddr a.toNat → ∃ t m, written t ∧ landed s.toPart t.toPart a.toNat m ∧
      memRead m a.toNat = v ∧ agreeOutside (· = a.toNat) before m) ∧
    (unassignedAddr a.toNat → ∃ t, written t ∧ landed s.toPart t.toPart a.toNat before) ∧
    (recordAddr a.toNat → s.ctl.access = .opened → ∃ t, exec (.dataWrite v) s = .next t ∧
      t = { s with link := { s.link with state := .data true (a + 1) }, ctl := { s.ctl with commit := t.ctl.commit },
                   exch := t.exch, arb := arbAfter s.toPart a.toNat, freeIdx := t.freeIdx } ∧
      memRead t.exch a.toNat = v ∧ agreeOutside (· = a.toNat) before t.exch ∧
      (s.ctl.commit = none → t.ctl.commit = none ∧ t.freeIdx = s.freeIdx) ∧
      (∀ c, s.ctl.commit = some c → ∃ d, t.ctl.commit = some d ∧ t.freeIdx = s.freeIdx + 1 ∧
        d.copied = max c.copied (min 376 (Config.commitProgress s.freeIdx)) ∧
        d.staging = c.staging ++ memSlice s.mem (0x1000 + 32 * c.copied) (0x1000 + 32 * d.copied))) ∧
    (a.toNat = 0x0008 → exec (.dataWrite v) s = exec (.noticeClear false v) s) ∧
    (a.toNat = 0x0009 → exec (.dataWrite v) s = exec (.noticeClear true v) s) ∧
    (a.toNat = 0x01E1 → exec (.dataWrite v) s = exec (.readMarkWrite v) s) ∧
    (a.toNat = 0x3FF3 → exec (.dataWrite v) s =
      exec (if v = 0xC3 then .keyArm else if v = 0x96 then .keyCommit else .keyOther v) s) ∧
    (a.toNat = 0x3FF4 → exec (.dataWrite v) s = exec (.prompt v) s) ∧
    (guardedAddr a.toNat → ∃ t m, written t ∧ landed s.toPart t.toPart a.toNat m ∧ protectedOffer 1 a.toNat v before m) ∧
    (recordAddr a.toNat → s.ctl.access ≠ .opened → ∃ t m, written t ∧ landed s.toPart t.toPart a.toNat m ∧
      protectedOffer 2 a.toNat v before m)

/-- Table 3-3 and the first judgement of a commit (R46, R47): a KEY byte, by each of its three rows, at the access state, the
operating state and the motion state that hold. That a KEY byte takes no grant is the model's choice (log entry 7). That SDO
stays as it is at a written byte is the model's choice (log entry 24). -/
def Obligations.KeySequence : Prop :=
  ∀ (s : State) (v : Byte) (c : Instr), Memory.wf s.exch = true → offersAt s 0x3FF3 →
    (c = .keyArm ∧ v = 0xC3 ∨ c = .keyCommit ∧ v = 0x96 ∨ c = .keyOther v ∧ v ≠ 0xC3 ∧ v ≠ 0x96) →
    let opens : Prop := s.ctl.op = .unconfigured ∨ s.ctl.op = .park ∨ (s.ctl.op = .run ∧ s.acct.moving = false)
    let refused : Prop := s.ctl.access = .armed ∧ v = 0xC3 ∧ ¬ opens
    let asked : Prop := s.ctl.access = .opened ∧ v = 0x96 ∧ s.ctl.commit = none
    let inMotion : Prop := s.acct.moving = true
    let notNow : Prop := s.ctl.op = .starting ∨ s.ctl.op = .parking
    ∃ t, exec c s = .next t ∧
      t = { s with link := { s.link with state := .data true 0x3FF4 },
                   ctl := { s.ctl with access := t.ctl.access, commit := t.ctl.commit }, exch := t.exch, arb := t.arb } ∧
      (s.ctl.access = .locked → v = 0xC3 → t.ctl.access = .armed) ∧
      (s.ctl.access = .locked → v ≠ 0xC3 → t.ctl.access = .locked) ∧
      (s.ctl.access = .armed → v = 0xC3 → opens → t.ctl.access = .opened) ∧
      (s.ctl.access = .armed → (v ≠ 0xC3 ∨ ¬ opens) → t.ctl.access = .locked) ∧
      (s.ctl.access = .opened → t.ctl.access = .opened) ∧
      (asked ∧ ¬ inMotion ∧ ¬ notNow → t.ctl.commit = some { copied := 0, staging := [] }) ∧
      (¬ (asked ∧ ¬ inMotion ∧ ¬ notNow) → t.ctl.commit = s.ctl.commit) ∧
      agreeOutside (fun k => (t.ctl.access ≠ s.ctl.access ∧ stateByte k) ∨ (refused ∧ noticeByte k) ∨
        (asked ∧ (inMotion ∨ notNow) ∧ (noticeByte k ∨ inRecord 4 3 k))) s.mem t.mem ∧
      (t.ctl.access ≠ s.ctl.access → memReadN t.mem 2 2 = [s.ctl.op.code, t.ctl.access.code]) ∧
      (refused → noticeWord t.mem = noticeWord s.mem ||| 0x400#16) ∧
      (asked ∧ (inMotion ∨ notNow) → noticeWord t.mem = noticeWord s.mem ||| 0x800#16) ∧
      (asked ∧ inMotion → memReadN t.mem 4 3 = [0, 0, 15]) ∧
      (asked ∧ ¬ inMotion ∧ notNow → memReadN t.mem 4 3 = [0, 0, 16]) ∧
      t.arb.idx = s.arb.idx ∧ (t.ctl.access = s.ctl.access → t.exch = s.exch ∧ t.arb.last = s.arb.last)

/-- R15, R20 to R22: a PROMPT byte asks for a prompted scan and an expiry of the running scan timer for a periodic one; what is
asked for already is joined: periodic if one of them is, and standing for the sum of the periods. That what is asked for waits
in pendingScan until EXCHANGE_SCAN runs it, and that later ones join it there while no scan runs, is the model's choice (log
entry 8). A scan that finds nothing to take, prompted or with the channels frozen: the scan count rises by one modulo 2^16, the
halt is lifted if CHECK is clear, the pending scan is gone, and nothing else changes; slots that are POSTED while the halt
stands are not taken. What waited is granted with the scan's reading accesses (log entry 7). That a PROMPT byte takes no grant,
and that the header's state bytes of an access that it takes from ARMED to LOCKED are granted at once, is the model's choice too
(log entry 7). That SDO stays as it is at a written byte is the model's choice (log entry 24). -/
def Obligations.ScansAreAskedForAndRun : Prop :=
  (∀ (s : State) (v : Byte), Memory.wf s.exch = true → offersAt s 0x3FF4 → ∃ t, exec (.prompt v) s = .next t ∧
    t = { s with link := { s.link with state := .data true 0x3FF5 }, ctl := t.ctl, exch := t.exch, arb := t.arb,
                 req := { s.req with pendingScan := t.req.pendingScan } } ∧
    elsewhereSeen s t ∧ landed s.toPart t.toPart 0x3FF4 s.exch ∧
    (s.req.pendingScan = none → t.req.pendingScan = some { periodic := false, time := 0 }) ∧
    (∀ x, s.req.pendingScan = some x → t.req.pendingScan = some x)) ∧
  (∀ (s : State) (n : Nat), s.live = true → s.req.scanTimer = some n → ∃ t, exec .scanTimerExpiry s = .next t ∧
    t = { s with req := { s.req with pendingScan := t.req.pendingScan } } ∧
    (s.req.pendingScan = none → t.req.pendingScan = some { periodic := true, time := n }) ∧
    (∀ x, s.req.pendingScan = some x → t.req.pendingScan = some { periodic := true, time := x.time + n })) ∧
  ∀ (s : State) (sc : PendingScan), Memory.wf s.exch = true → s.live = true → s.req.pendingScan = some sc →
    (sc.periodic = false ∨ s.channelsTake = false) → s.req.restartSlots = [] →
    (∀ i : Fin 16, memRead s.mem (0x40 + 8 * i.val) = s.req.seen[i]) →
    ((s.req.halt = true ∧ noticeOn s.mem .check = true) ∨
      ∀ i : Fin 8, s.req.holds[i].isSome ∨ memRead s.mem (0xC0 + 32 * i.val) ≠ 1) →
    ∃ t, exec .exchangeScan s = .next t ∧
      t = { s with exch := t.exch, arb := { s.arb with last := .record, waiting := [] }
                   req := { s.req with pendingScan := none, halt := s.req.halt && noticeOn s.mem .check } } ∧
      memReadN t.mem 0x0C 2 = leBytes 2 ((readNat s.mem 0x0C 2 + 1) % 65536) ∧ agreeOutside (inRecord 0x0C 2) s.mem t.mem

/-- R11, R12, R13: a NOTICE_CLEAR clears the bits whose written bit is 0, and empties the check record and the protection record
with their notices; a NOTICE_MASK_WRITE stores its byte; ATTN is asserted exactly while word and mask, as granted accesses left
them, share a set bit. A block that sets a notice sets that bit, leaves every other bit, and touches no other byte. Bits 12 to
15 of the notice word read 0, after every step. In INIT and in a restart no record access waits, so ATTN follows each at once
(R13); that it is granted at once there, as the header's state bytes are where a write takes the access from ARMED to LOCKED, is
the model's choice (log entry 7). That SDO stays as it is at a written byte is the model's choice (log entry 24). -/
def Obligations.NoticeByteWrites : Prop :=
  (∀ (s : State) (v : Byte) (high : Bool), Memory.wf s.exch = true → offersAt s (if high then 9 else 8) →
    let a : Nat := if high then 9 else 8
    let before : Mem := found s.toPart a
    ∃ t m, exec (.noticeClear high v) s = .next t ∧
      t = { s with link := { s.link with state := .data true (if high then 10 else 9) }, ctl := t.ctl, exch := t.exch, arb := t.arb } ∧
      elsewhereSeen s t ∧ landed s.toPart t.toPart a m ∧
      memRead m a = memRead before a &&& v &&& (if high then 0x0F else 0xFF) ∧
      (noticeOn before .check = true → noticeOn m .check = false → memReadN m 0x1C0 16 = List.replicate 16 0) ∧
      (noticeOn before .wprot = true → noticeOn m .wprot = false → memReadN m 0x1D0 16 = List.replicate 16 0) ∧
      agreeOutside (fun k => k = a ∨ (noticeOn before .check = true ∧ noticeOn m .check = false ∧ inRecord 0x1C0 16 k) ∨
        (noticeOn before .wprot = true ∧ noticeOn m .wprot = false ∧ inRecord 0x1D0 16 k)) before m) ∧
  (∀ (s : State) (v : Byte) (high : Bool), Memory.wf s.exch = true → offersAt s (if high then 11 else 10) →
    let a : Nat := if high then 11 else 10
    ∃ t m, exec (.noticeMaskWrite high v) s = .next t ∧
      t = { s with link := { s.link with state := .data true (if high then 12 else 11) }, ctl := t.ctl, exch := t.exch, arb := t.arb } ∧
      elsewhereSeen s t ∧ landed s.toPart t.toPart a m ∧ memRead m a = v ∧ agreeOutside (· = a) (found s.toPart a) m) ∧
  (∀ p : Part, p.attn = true ↔ ∃ k < 16, (noticeWord p.exch).getLsbD k = true ∧ (noticeMask p.exch).getLsbD k = true) ∧
  (∀ (n : Notice) (p : Part), Memory.wf p.exch = true →
    setNotice n p = { p with arb := { p.arb with waiting := p.arb.waiting ++ [.notice n] } } ∧
    (∀ k < 16, (noticeWord (setNotice n p).mem).getLsbD k = (decide (k = n.bit) || (noticeWord p.mem).getLsbD k)) ∧
    agreeOutside noticeByte p.mem (setNotice n p).mem) ∧
  (∀ s t : State, Memory.wf s.exch = true → NoticeWordLaw s.toPart → step s = .next t → NoticeWordLaw t.toPart) ∧
  (∀ p : Part, Memory.wf p.exch = true → NoticeWordLaw p → (memRead p.exch 9).toNat < 16 ∧ (memRead p.mem 9).toNat < 16) ∧
  ∀ s t : State, (s.live = false → s.arb.waiting = []) → step s = .next t → t.live = false → t.arb.waiting = [] ∧ t.mem = t.exch

/-- R170, R171: a read mark is accepted when it lies on the way from the read mark to the write mark; the mark already held
changes nothing; another accepted one is taken, and a lost count above 0 is written at once as a GAP entry; any other value is a
protected write. That the header's state bytes of an access that goes from ARMED to LOCKED are granted at once, behind those
that wait, is the model's choice (log entry 7). That SDO stays as it is at a written byte is the model's choice (log entry 24).
-/
def Obligations.ReadMarkIsJudged : Prop :=
  ∀ (s : State) (v : Byte), Memory.wf s.exch = true → offersAt s 0x1E1 →
    let accepted : Prop := v.toNat < 64 ∧ (v.toNat + 64 - s.jour.rm.val) % 64 ≤ (s.jour.wm.val + 64 - s.jour.rm.val) % 64
    ∃ t, exec (.readMarkWrite v) s = .next t ∧
      t = { s with link := { s.link with state := .data true 0x1E2 }, ctl := t.ctl, exch := t.exch, arb := t.arb, jour := t.jour } ∧
      elsewhereSeen s t ∧
      (¬ accepted → t.jour = s.jour ∧ ∃ m, landed s.toPart t.toPart 0x1E1 m ∧ protectedOffer 3 0x1E1 v (found s.toPart 0x1E1) m) ∧
      (accepted → v.toNat = s.jour.rm.val → t.jour = s.jour ∧ landed s.toPart t.toPart 0x1E1 (found s.toPart 0x1E1)) ∧
      (accepted → v.toNat ≠ s.jour.rm.val →
        (s.ctl.access ≠ .armed → t.exch = found s.toPart 0x1E1 ∧ t.arb.last = .link ∧
          ∃ new, t.arb.waiting = (arbAfter s.toPart 0x1E1).waiting ++ new) ∧
        t.jour.rm.val = v.toNat ∧ controlRecordShows t.jour t.mem ∧
        (s.jour.lost = 0 → t.jour = { s.jour with rm := t.jour.rm } ∧
          agreeOutside (fun k => elsewhereByte s k ∨ inRecord 0x1E0 16 k) s.mem t.mem) ∧
        (s.jour.lost ≠ 0 → t.jour = { wm := s.jour.wm + 1, rm := t.jour.rm, seq := s.jour.seq + 1, lost := 0 } ∧
          memReadN t.mem (0x800 + 32 * s.jour.wm.val) 32 =
            leBytes 2 s.jour.seq.toNat ++ [13, 0] ++ leBytes 4 s.acct.clock.toNat ++ [if s.acct.timeValid then 1 else 0] ++
              leBytes 2 s.jour.lost.toNat ++ List.replicate 21 0 ∧
          noticeWord t.mem = noticeWord s.mem ||| 0x10#16 ∧
          agreeOutside (fun k => elsewhereByte s k ∨ noticeByte k ∨ inRecord 0x1E0 16 k ∨
            inRecord (0x800 + 32 * s.jour.wm.val) 32 k) s.mem t.mem))

/-- R7, R8, R10, R31: a long record is asked for as a run of record accesses, its bytes in runs of 32 in descending address
order; once k of them are granted the link meets the last k runs of bytes new and the others old, so between two pieces the
trailing edition is the new one and the leading edition still the old one. The seat records, the mirror and the diagnostic
window are written so, and SNAPSHOT leaves the pieces of its window waiting, its answer behind them. Every command but the
link's own and power-on asks for its record accesses, each one that a block may make, behind those that wait: the rows of
onlyAsks grant none while the part runs, and each of the others either grants none, or all that waited and then some of its own,
where they read or write the header's state bytes (R5). Waiting accesses are granted the first first, each whole, and an answer
that takes place is followed by REPLY. A link byte access is granted after a free number of the waiting record accesses, and at
least one of them where the link held the last grant; it waits for no more. That the free number is one of the k-th such access
is the model's choice (log entry 38), as is that a reading access is granted at once and that REPLY comes next after its answer
(log entry 7). -/
def Obligations.LongRecordsAreWrittenInPieces : Prop :=
  (∀ (a : Nat) (bs : List Byte),
    let xs := (pieces ((bs.length + 31) / 32) a bs).reverse
    (xs.map (·.bytes)).flatten = bs ∧ xs.length = (bs.length + 31) / 32 ∧
    ∀ k x, xs[k]? = some x → x.addr = a + 32 * k ∧ 1 ≤ x.bytes.length ∧ x.bytes.length ≤ 32) ∧
  (∀ (p : Part) (a : Nat) (bs : List Byte), Memory.wf p.exch = true →
    let n := (bs.length + 31) / 32
    let new : List RecordAccess := (pieces n a bs).map fun x => .write x.addr x.bytes
    let q := p.storeRun a bs
    let after (k : Nat) : Mem := (grantSome k p.mem new).1
    q = { p with arb := { p.arb with waiting := p.arb.waiting ++ new } } ∧ new.length = n ∧
    memReadN q.mem a bs.length = bs ∧ agreeOutside (inRecord a bs.length) p.mem q.mem ∧
    ∀ k ≤ n, agreeOutside (inRecord a bs.length) p.mem (after k) ∧
      ∀ j < bs.length, memRead (after k) (a + j) = if 32 * (n - k) ≤ j then byteAt bs j else memRead p.mem (a + j)) ∧
  (∀ (p : Part) (a : Nat) (body : List Byte), Memory.wf p.exch = true → 31 ≤ body.length →
    let e := memRead p.mem a + 1
    let q := p.rewriteLongRecord a body
    let new : List RecordAccess := q.arb.waiting.drop p.arb.waiting.length
    q = p.storeRun a (e :: (body ++ [e])) ∧
    ∀ k, 0 < k → k < (body.length + 33) / 32 →
      let seen := (grantSome k p.mem new).1
      memRead seen (a + body.length + 1) = e ∧ memRead seen a = memRead p.mem a) ∧
  (∀ (p : Part) (id : SeatId), (seatBody p.acct id).length = 62 ∧
    rewriteSeat id p = p.rewriteLongRecord (seatAddr id) (seatBody p.acct id)) ∧
  (∀ (p : Part) (f : Frame), f.cells.length = 80 → (mirrorBody f p).length = 126 ∧
    (memReadN p.mem 0x781 126 ≠ mirrorBody f p → writeMirror f p = p.rewriteLongRecord 0x780 (mirrorBody f p))) ∧
  (∀ (p : Part) (page : Byte), page.toNat < 3 → (diagWindow page p).length = 256 ∧
    (snapshot page p).part = p.storeRun 0x200 (diagWindow page p)) ∧
  (∀ (c : Instr) (s t : State), ¬ linkCommand c → c ≠ .powerOn → s.ctl.op ≠ .init → exec c s = .next t →
    t.arb.idx = s.arb.idx ∧ (t.arb.last = s.arb.last ∨ t.arb.last = .record) ∧
    ∃ new : List RecordAccess, (∀ x ∈ new, blockAccess x) ∧ t.mem = grantAccesses s.mem new ∧
      let asked : Prop := t.exch = s.exch ∧ t.arb.waiting = s.arb.waiting ++ new
      (onlyAsks c → s.live = true → asked ∧ t.arb.last = s.arb.last) ∧
      (asked ∨ ∃ k, (t.exch, t.arb.waiting) = grantSome k s.mem new)) ∧
  (∀ (s : State) (a : BitVec 14), s.live = true → s.link.state = .data false a → a.toNat < 0x3FF0 →
    let free := Config.grantProgress s.arb.idx
    let k := if s.arb.last = .link ∧ free = 0 then 1 else free
    let granted := grantSome k s.exch s.arb.waiting
    ∃ t, exec .dataRead s = .next t ∧ t.exch = granted.1 ∧ t.mem = s.mem ∧
      t.link.sdo = some (memRead t.exch a.toNat) ∧
      t.arb = { last := .link, waiting := granted.2, idx := s.arb.idx + 1 }) ∧
  (∀ (s : State) (a : BitVec 14) (v : Byte), Memory.wf s.exch = true → offersAt s a → storedAddr a.toNat → s.ctl.access ≠ .armed →
    let free := Config.grantProgress s.arb.idx
    let k := if s.arb.last = .link ∧ free = 0 then 1 else free
    let granted := grantSome k s.exch s.arb.waiting
    ∃ t, exec (.dataWrite v) s = .next t ∧ memRead t.exch a.toNat = v ∧ agreeOutside (· = a.toNat) granted.1 t.exch ∧
      t.arb = { last := .link, waiting := granted.2, idx := s.arb.idx + 1 }) ∧
  (∀ (k : Nat) (m : Mem) (x : RecordAccess) (w : List RecordAccess),
    let whole (xs : List Piece) : Mem := xs.foldl (fun m y => memWriteN m y.addr y.bytes) m
    grantSome 0 m w = (m, w) ∧ grantSome k m [] = (m, []) ∧
    (∀ a bs, x = .write a bs → grantSome (k + 1) m (x :: w) = grantSome k (whole [{ addr := a, bytes := bs }]) w) ∧
    (∀ n, x = .notice n →
      grantSome (k + 1) m (x :: w) = grantSome k (whole [{ addr := 8, bytes := noticeBytes n m }]) w) ∧
    (∀ area slot bs, x = .checkFailure area slot bs →
      grantSome (k + 1) m (x :: w) = grantSome k (whole (checkFailurePieces area slot bs m)) w) ∧
    (∀ (i : Fin 8) bs, x = .answer i bs →
      (memRead m (0xC0 + 32 * i.val) = 1 ∨ memRead m (0xC0 + 32 * i.val) = 2 →
        grantSome (k + 1) m (x :: w) = grantSome k (whole [{ addr := 0xC0 + 32 * i.val, bytes := bs }]) (.notice .reply :: w)) ∧
      (memRead m (0xC0 + 32 * i.val) ≠ 1 → memRead m (0xC0 + 32 * i.val) ≠ 2 →
        grantSome (k + 1) m (x :: w) = grantSome k m w))) ∧
  ∀ (s : State) (i : Fin 8) (page : Byte), requestTaken i s.toPart = true → page.toNat < 3 →
    let taken := rowBytes i 11 [page] s.toPart
    ∃ t, exec (.snapshot i page) s = .next t ∧ t.exch = s.mem ∧
      t.arb.waiting = (pieces 8 0x200 (diagWindow page s.toPart)).map (fun x => .write x.addr x.bytes) ++
        [.answer i (withCheck ([3, byteAt taken 1, byteAt taken 2, 0] ++ answerTail taken []))]

/-! ### Scans and requests -/

/-- R14, R15, R16: intake meets a POSTED slot whose record check fails. The failure is logged; under HALT the slot stays as it
is and the halt is set; under CONTINUE the slot is answered CHECK_FAIL, its other bytes as read. -/
def Obligations.FailedSlotsHaltOrAreAnswered : Prop :=
  ∀ (p : Part) (i : Fin 8), Memory.wf p.exch = true → p.req.halt = false → p.req.holds[i] = none →
    let bs := memReadN p.mem (0xC0 + 32 * i.val) 32
    let slot : Nat → Prop := inRecord (0xC0 + 32 * i.val) 32
    memRead p.mem (0xC0 + 32 * i.val) = 1 → xorBytes bs ≠ 0 →
    let q := intakeSlot i p
    q = { p with exch := q.exch, arb := q.arb, req := { p.req with halt := policyHalt p.working } } ∧
    (noticeOn p.mem .check = false →
      memReadN q.mem 0x1C0 16 = [2, BitVec.ofNat 8 i.val, memRead p.mem 0x0C, memRead p.mem 0x0D] ++ bs.take 8 ++ [0, 0, 0, 0]) ∧
    (noticeOn p.mem .check = true → memReadN q.mem 0x1C0 12 = memReadN p.mem 0x1C0 12 ∧
      memRead q.mem 0x1CC = BitVec.ofNat 8 (min 255 ((memRead p.mem 0x1CC).toNat + 1)) ∧
      memReadN q.mem 0x1CD 3 = memReadN p.mem 0x1CD 3) ∧
    agreeOutside (fun k => noticeByte k ∨ inRecord 0x1C0 16 k ∨ (policyHalt p.working = false ∧ slot k)) p.mem q.mem ∧
    (policyHalt p.working = true → noticeWord q.mem = noticeWord p.mem ||| 2#16) ∧
    (policyHalt p.working = false → noticeWord q.mem = noticeWord p.mem ||| 3#16 ∧
      memReadN q.mem (0xC0 + 32 * i.val) 31 = [3, byteAt bs 1, byteAt bs 2, 0x0A] ++ (bs.drop 4).take 27 ∧
      xorBytes (memReadN q.mem (0xC0 + 32 * i.val) 32) = 0)

/-- R15, R22, R23: a scan counts, ages the channels if it is periodic, lifts the halt if CHECK is clear, takes the inbox slots 0
to 15 and then the request slots 0 to 7, in order, and hands over the RESTART requests it kept. A slot whose bytes are held
stays unread, and while the halt stands every slot does; a slot that is not POSTED is left as it is read. Intake of a POSTED
slot whose check holds does what the row of its kind does with the parameters in the slot; a RESTART is handed over at the end
of its scan; a kind of no request is answered BAD_KIND. That a request row does what intake of its slot does, and that a RESTART
row hands the request over at once, is the model's choice (log entry 10), as is that a reading access is granted at once, behind
those that wait (log entry 7). -/
def Obligations.IntakeRunsTheRowOfTheKind : Prop :=
  (∀ (s : State) (sc : PendingScan), Memory.wf s.exch = true → s.live = true → s.req.pendingScan = some sc →
    let counted : Part := countScan { s.toPart with req := { s.req with pendingScan := none } }
    let aged : Part := if sc.periodic then advanceAges sc.time counted else counted
    let inbox : Part := (List.finRange 16).foldl (fun q i => intakeInbox i q)
      { aged with req := { aged.req with halt := s.req.halt && noticeOn s.mem .check } }
    let walked : Part := (List.finRange 8).foldl (fun q i => intakeSlot i q) inbox
    exec .exchangeScan s =
      .next { s with toPart := if walked.req.restartSlots = [] then walked else restartCause .request walked } ∧
    (s.req.halt = true → noticeOn s.mem .check = true → walked = inbox)) ∧
  (∀ (p : Part) (i : Fin 8),
    let bs := memReadN p.mem (0xC0 + 32 * i.val) 32
    (p.req.halt = true ∨ p.req.holds[i].isSome → intakeSlot i p = p) ∧
    (p.req.halt = false → p.req.holds[i] = none → byteAt bs 0 ≠ 1 →
      intakeSlot i p = { p with exch := p.mem, arb := { p.arb with last := .record, waiting := [] } })) ∧
  ∀ (s : State) (i : Fin 8), s.live = true → s.req.halt = false → s.req.holds[i] = none →
    let bs := memReadN s.mem (0xC0 + 32 * i.val) 32
    byteAt bs 0 = 1 → xorBytes bs = 0 →
    (∀ c, requestRow i bs = some c → c ≠ .restart i → exec c s = .next { s with toPart := intakeSlot i s.toPart }) ∧
    (requestRow i bs = some (.restart i) → exec (.restart i) s = .next { s with toPart := handRestarts (intakeSlot i s.toPart) }) ∧
    (requestRow i bs = none → intakeSlot i s.toPart = answerTaken i bs 1 [] s.toPart.grantReading)

/-- R9, R24: an answer write. A slot that still reads POSTED or TAKEN takes the state ANSWERED, the kind and the tag as taken,
the status, the answer data filled up with 0x00, or the bytes as taken, the spare bytes as taken and a check byte that makes the
check hold; REPLY is set. A slot withdrawn is left alone, and one whose state byte is above 0x03 counts as EMPTY (R19, R185, log
entry 19). The answer is one access, asked for behind those that wait, which tests the state byte at its grant (R24); what it
leaves is said of the memory once the waiting accesses are granted (log entry 7). -/
def Obligations.AnswersAreWrittenWhole : Prop :=
  ∀ (p : Part) (i : Fin 8) (taken data : List Byte) (status : Byte), Memory.wf p.exch = true → taken.length = 32 →
    data.length ≤ 24 →
    let a := 0xC0 + 32 * i.val
    let q := answerTaken i taken status data p
    (memRead p.mem a = 1 ∨ memRead p.mem a = 2 →
      memReadN q.mem a 4 = [3, byteAt taken 1, byteAt taken 2, status] ∧
      (data = [] → memReadN q.mem (a + 4) 24 = (taken.drop 4).take 24) ∧
      (data ≠ [] → memReadN q.mem (a + 4) 24 = data ++ List.replicate (24 - data.length) 0) ∧
      memReadN q.mem (a + 28) 3 = (taken.drop 28).take 3 ∧ xorBytes (memReadN q.mem a 32) = 0 ∧
      noticeWord q.mem = noticeWord p.mem ||| 1#16 ∧ agreeOutside (fun k => noticeByte k ∨ inRecord a 32 k) p.mem q.mem) ∧
    (memRead p.mem a ≠ 1 → memRead p.mem a ≠ 2 → q = { p with arb := q.arb } ∧ q.mem = p.mem) ∧
    ∃ bs : List Byte, bs.length = 32 ∧ q = { p with arb := { p.arb with waiting := p.arb.waiting ++ [.answer i bs] } }

/-- R156, R157, R158: SET_ACTIVITY, taken, is judged in its order and answered. Accepted, it sets the selected activity and the
effective one, which is DRIVING for seat 1 in motion, AVAILABLE for seat 2 in motion with REST selected, and else the selected
one; a change of the effective activity submits an ACTIVITY entry, and no other entry is taken, and ends a rest. The answer is
the one that AnswersAreWrittenWhole describes, written over what the Accounting Unit leaves. A rest that ends is measured by the
limits of the last second tick (R148). That the row needs no POSTED slot is the model's choice (log entry 10), as is that its
intake access is granted at once, after what waited (log entry 7). -/
def Obligations.SetActivityIsJudged : Prop :=
  (∀ (moving : Bool) (a : Activity),
    effectiveOf .one moving a = (if moving = true then .driving else a) ∧
    effectiveOf .two moving a = (if moving = true ∧ a = .rest then .available else a)) ∧
  ∀ (s : State) (i : Fin 8) (seat activity : Byte), Memory.wf s.exch = true → requestTaken i s.toPart = true →
    ∃ (st : Byte) (q : Part),
      exec (.setActivity i seat activity) s =
        .next { s with toPart := answerTaken i (rowBytes i 1 [seat, activity] s.toPart) st [] q } ∧
      (seat ≠ 1 → seat ≠ 2 → st = 2 ∧ q = s.toPart.grantReading) ∧
      (3 ≤ activity.toNat → st = 2 ∧ q = s.toPart.grantReading) ∧
      (∀ id : SeatId, seat = id.code → activity.toNat < 3 → getSeat s.acct id = none → st = 5 ∧ q = s.toPart.grantReading) ∧
      (∀ (id : SeatId) (act : Activity) (x : Seat), seat = id.code → activity = act.code → act ≠ .driving →
        getSeat s.acct id = some x →
        let e := effectiveOf id s.acct.moving act
        st = 0 ∧ q = { s.toPart with exch := q.exch, arb := q.arb, jour := q.jour
                                     acct := { s.acct with seat1 := q.acct.seat1, seat2 := q.acct.seat2 } } ∧
        agreeOutside partByte s.mem q.mem ∧ getSeat q.acct (otherSeat id) = getSeat s.acct (otherSeat id) ∧
        journalTakes (if e = x.effective then [] else [.activity id x.effective e]) s.toPart q ∧
        (e = x.effective → getSeat q.acct id = some { x with selected := act }) ∧
        (e ≠ x.effective → x.effective ≠ .rest → e ≠ .rest →
          getSeat q.acct id = some { x with selected := act, effective := e }) ∧
        (e ≠ x.effective → e = .rest →
          getSeat q.acct id = some { x with selected := act, effective := e, span := 0, breakInSpan := false }) ∧
        (e ≠ x.effective → x.effective = .rest →
          getSeat q.acct id = some { x with
            selected := act, effective := e, span := 0, breakInSpan := false,
            split := x.split || (decide (s.acct.limits.split1 * 60 ≤ x.span) &&
              decide (x.span < s.acct.limits.fullBreak * 60) && !x.breakInSpan) }))

/-- R154, R155, R161: CARD_IN and CARD_OUT, taken, are judged in their order and answered. Accepted, they make the seat present
with the card's counters, or absent with the final counters in the answer; the other seat is as it was and the first five
warnings are those of Table 8-4 for the seats as they then stand, by the limits of the last second tick (R148); the Journal
takes the CARD_IN or CARD_OUT entry, then those of the warnings that begin or end. That the rows need no POSTED slot is the
model's choice (log entry 10), as is that their intake accesses are granted at once, after what waited (log entry 7). -/
def Obligations.CardsComeAndGo : Prop :=
  (∀ (s : State) (i : Fin 8) (seat flags : Byte) (card : Identity) (cdt ddt : Half), Memory.wf s.exch = true →
    requestTaken i s.toPart = true →
    ∃ (st : Byte) (q : Part),
      exec (.cardIn i seat flags card cdt ddt) s = .next { s with toPart := answerTaken i (rowBytes i 2
        (seat :: flags :: (leBytes 16 card.toNat ++ leBytes 2 cdt.toNat ++ leBytes 2 ddt.toNat)) s.toPart) st [] q } ∧
      (seat ≠ 1 → seat ≠ 2 → st = 2 ∧ q = s.toPart.grantReading) ∧
      (∀ id : SeatId, seat = id.code →
        let dup : Prop := ∃ y, getSeat s.acct (otherSeat id) = some y ∧ y.identity = card
        let carried : Prop := flags.getLsbD 0 = true
        ((getSeat s.acct id).isSome → st = 6 ∧ q = s.toPart.grantReading) ∧
        (getSeat s.acct id = none → dup → st = 7 ∧ q = s.toPart.grantReading) ∧
        (getSeat s.acct id = none → ¬ dup → carried → ddt.toNat < cdt.toNat → st = 2 ∧ q = s.toPart.grantReading) ∧
        (getSeat s.acct id = none → ¬ dup → ¬ (carried ∧ ddt.toNat < cdt.toNat) →
          st = 0 ∧
          q = { s.toPart with
                exch := q.exch, arb := q.arb, lamps := q.lamps, lampU := q.lampU, chime := q.chime, panel := q.panel, jour := q.jour
                acct := { s.acct with seat1 := q.acct.seat1, seat2 := q.acct.seat2, warnings := q.acct.warnings } } ∧
          agreeOutside partByte s.mem q.mem ∧ getSeat q.acct (otherSeat id) = getSeat s.acct (otherSeat id) ∧
          (∀ k < 5, q.acct.warnings.getLsbD k = warningActive q.acct k) ∧
          q.acct.warnings.getLsbD 5 = s.acct.warnings.getLsbD 5 ∧
          ∃ x, getSeat q.acct id = some x ∧ x.identity = card ∧ x.selected = .work ∧
            x.effective = effectiveOf id s.acct.moving .work ∧ x.span = 0 ∧ x.breakInSpan = false ∧
            (carried → x.cdt = cdt.toNat * 60 ∧ x.ddt = ddt.toNat * 60 ∧ x.split = flags.getLsbD 1) ∧
            (¬ carried → x.cdt = 0 ∧ x.ddt = 0 ∧ x.split = false) ∧
            journalTakes (.cardIn id card (BitVec.ofNat 24 x.cdt) (BitVec.ofNat 24 x.ddt) x.split x.effective ::
              warningEntries s.acct.warnings q.acct.warnings) s.toPart q))) ∧
  (∀ (s : State) (i : Fin 8) (seat : Byte), Memory.wf s.exch = true → requestTaken i s.toPart = true →
    ∃ (st : Byte) (data : List Byte) (q : Part),
      exec (.cardOut i seat) s = .next { s with toPart := answerTaken i (rowBytes i 3 [seat] s.toPart) st data q } ∧
      (seat ≠ 1 → seat ≠ 2 → st = 2 ∧ data = [] ∧ q = s.toPart.grantReading) ∧
      (∀ id : SeatId, seat = id.code → getSeat s.acct id = none → st = 5 ∧ data = [] ∧ q = s.toPart.grantReading) ∧
      (∀ (id : SeatId) (x : Seat), seat = id.code → getSeat s.acct id = some x →
        let split := x.split || (decide (x.effective = .rest) && decide (s.acct.limits.split1 * 60 ≤ x.span) &&
          decide (x.span < s.acct.limits.fullBreak * 60) && !x.breakInSpan)
        st = 0 ∧ data = leBytes 4 (x.cdt / 60) ++ leBytes 4 (x.ddt / 60) ++ [if split then 1 else 0] ∧
        q = { s.toPart with
              exch := q.exch, arb := q.arb, lamps := q.lamps, lampU := q.lampU, chime := q.chime, panel := q.panel, jour := q.jour
              acct := { s.acct with seat1 := q.acct.seat1, seat2 := q.acct.seat2, warnings := q.acct.warnings } } ∧
        agreeOutside partByte s.mem q.mem ∧ getSeat q.acct id = none ∧
        getSeat q.acct (otherSeat id) = getSeat s.acct (otherSeat id) ∧
        (∀ k < 5, q.acct.warnings.getLsbD k = warningActive q.acct k) ∧
        q.acct.warnings.getLsbD 5 = s.acct.warnings.getLsbD 5 ∧
        journalTakes (.cardOut id x.identity (BitVec.ofNat 24 (min x.cdt 0xFFFFFF)) (BitVec.ofNat 24 (min x.ddt 0xFFFFFF)) split ::
          warningEntries s.acct.warnings q.acct.warnings) s.toPart q))

/-- R147, R163: SWAP_SEATS is refused IN_MOTION, or exchanges the records whole; SET_TIME sets the clock and TIME_VALID. Both
submit their entries, a swap those of seat 1 and seat 2 and then those of the warnings that begin or end, SET_TIME one stamped
with the clock as set. For the swap the seats are taken to keep their laws. That the rows need no POSTED slot is the model's
choice (log entry 10), as is that their intake accesses are granted at once, after what waited (log entry 7). -/
def Obligations.SeatsSwapAndTheClockIsSet : Prop :=
  (∀ (s : State) (i : Fin 8), Memory.wf s.exch = true → requestTaken i s.toPart = true →
    ∃ (st : Byte) (q : Part),
      exec (.swapSeats i) s = .next { s with toPart := answerTaken i (rowBytes i 4 [] s.toPart) st [] q } ∧
      (s.acct.moving = true → st = 4 ∧ q = s.toPart.grantReading) ∧
      (s.acct.moving = false → SeatLaws s.acct → st = 0 ∧
        q = { s.toPart with
              exch := q.exch, arb := q.arb, lamps := q.lamps, lampU := q.lampU, chime := q.chime, panel := q.panel, jour := q.jour
              acct := { s.acct with seat1 := s.acct.seat2, seat2 := s.acct.seat1, warnings := q.acct.warnings } } ∧
        agreeOutside partByte s.mem q.mem ∧
        (∀ k < 5, q.acct.warnings.getLsbD k = warningActive q.acct k) ∧
        q.acct.warnings.getLsbD 5 = s.acct.warnings.getLsbD 5 ∧
        journalTakes ([.swap .one ((s.acct.seat2.map (·.identity)).getD 0), .swap .two ((s.acct.seat1.map (·.identity)).getD 0)] ++
          warningEntries s.acct.warnings q.acct.warnings) s.toPart q)) ∧
  (∀ (s : State) (i : Fin 8) (clock : Word), Memory.wf s.exch = true → requestTaken i s.toPart = true →
    ∃ q : Part,
      exec (.setTime i clock) s = .next { s with toPart := answerTaken i (rowBytes i 5 (leBytes 4 clock.toNat) s.toPart) 0 [] q } ∧
      q = { s.toPart with exch := q.exch, arb := q.arb, jour := q.jour, acct := { s.acct with clock := clock, timeValid := true } } ∧
      journalTakes [.timeSet s.acct.clock s.acct.timeValid clock]
        { s.toPart with acct := { s.acct with clock := clock, timeValid := true } } q ∧
      memReadN q.mem 0x0E 5 = leBytes 4 clock.toNat ++ [1] ∧ agreeOutside partByte s.mem q.mem)

/-- R125, R131: ACK_LAMP and SET_LAMP, taken, are judged in their order and answered. An acknowledgement takes an ON lamp to
ACKED and a LATCHED one to OFF; a SET_LAMP takes the requested truth, and the condition follows it unless it is frozen. That the
rows need no POSTED slot is the model's choice (log entry 10), as is that their intake accesses are granted at once, after what
waited (log entry 7). -/
def Obligations.LampRequestsAreJudged : Prop :=
  (∀ (s : State) (i : Fin 8) (which : Byte), Memory.wf s.exch = true → requestTaken i s.toPart = true →
    ∃ (st : Byte) (q : Part),
      exec (.ackLamp i which) s = .next { s with toPart := answerTaken i (rowBytes i 6 [which] s.toPart) st [] q } ∧
      (s.ctl.op = .unconfigured → st = 3 ∧ q = s.toPart.grantReading) ∧
      (s.ctl.op ≠ .unconfigured →
        ((32 ≤ which.toNat ∧ which.toNat < 0x80) ∨ 0x82 < which.toNat → st = 2 ∧ q = s.toPart.grantReading) ∧
        (∀ n : Fin 32, which.toNat = n.val →
          (lampUsed s.working n = false → st = 2 ∧ q = s.toPart.grantReading) ∧
          (lampUsed s.working n = true → s.lamps[n].state ≠ .on → s.lamps[n].state ≠ .latched → st = 8 ∧ q = s.toPart.grantReading)) ∧
        (∀ n : Fin 3, which.toNat = 0x80 + n.val →
          (∀ j : Fin 32, lampUsed s.working j = true → (lampRec s.working j).cls.rank = n.val →
            s.lamps[j].state ≠ .on ∧ s.lamps[j].state ≠ .latched) → st = 8 ∧ q = s.toPart.grantReading) ∧
        (let named : Fin 32 → Prop := fun j => lampUsed s.working j = true ∧ (s.lamps[j].state = .on ∨ s.lamps[j].state = .latched) ∧
            (which.toNat = j.val ∨ which.toNat = 0x80 + (lampRec s.working j).cls.rank)
         (∃ j, named j) → st = 0 ∧
          q = { s.toPart with exch := q.exch, arb := q.arb, lamps := q.lamps, chime := q.chime, panel := q.panel } ∧
          agreeOutside partByte s.mem q.mem ∧
          ∀ j : Fin 32, q.lamps[j].cond = s.lamps[j].cond ∧
            (named j → s.lamps[j].state = .on → q.lamps[j].state = .acked) ∧
            (named j → s.lamps[j].state = .latched → q.lamps[j].state = .off) ∧
            (¬ named j → q.lamps[j].state = s.lamps[j].state)))) ∧
  (∀ (s : State) (i : Fin 8) (lamp value : Byte), Memory.wf s.exch = true → requestTaken i s.toPart = true →
    ∃ (st : Byte) (q : Part),
      exec (.setLamp i lamp value) s = .next { s with toPart := answerTaken i (rowBytes i 7 [lamp, value] s.toPart) st [] q } ∧
      (s.ctl.op = .unconfigured → st = 3 ∧ q = s.toPart.grantReading) ∧
      (s.ctl.op ≠ .unconfigured → 32 ≤ lamp.toNat ∨ 2 ≤ value.toNat → st = 2 ∧ q = s.toPart.grantReading) ∧
      (∀ n : Fin 32, s.ctl.op ≠ .unconfigured → lamp.toNat = n.val →
        ((lampRec s.working n).kind ≠ .request → st = 2 ∧ q = s.toPart.grantReading) ∧
        ((lampRec s.working n).kind = .request → value.toNat < 2 → st = 0 ∧
          q = { s.toPart with exch := q.exch, arb := q.arb, lamps := q.lamps, chime := q.chime, panel := q.panel } ∧
          agreeOutside partByte s.mem q.mem ∧ q.lamps[n].requested = decide (value = 1) ∧
          (conditionFrozen s.toPart n = true → q.lamps[n].cond = s.lamps[n].cond) ∧
          (conditionFrozen s.toPart n = false → q.lamps[n].cond = (decide (value = 1) && gateOpen s.toPart n)) ∧
          ∀ j : Fin 32, j ≠ n → q.lamps[j].cond = s.lamps[j].cond ∧ q.lamps[j].state = s.lamps[j].state ∧
            q.lamps[j].requested = s.lamps[j].requested)))

/-- R28 to R30, R178: SHOW_PAGE takes the base page, and SNAPSHOT fills the diagnostic window whole: page number, scan count,
operating state and the page, an unused pointer showing RELEASED at 0 with its mark as held, then 0x00 to the window's end. That
every block gives its part at the one moment of the request is the model's choice (log entry 41), and that an output counts as
lit from its composition on (log entry 39). That the rows need no POSTED slot is the model's choice (log entry 10), as is that
their intake accesses are granted at once, after what waited (log entry 7). -/
def Obligations.PagesAreShownAndCopied : Prop :=
  (∀ (s : State) (i : Fin 8) (page : Byte), requestTaken i s.toPart = true →
    ∃ (st : Byte) (q : Part),
      exec (.showPage i page) s = .next { s with toPart := answerTaken i (rowBytes i 10 [page] s.toPart) st [] q } ∧
      (s.ctl.op = .unconfigured → st = 3 ∧ q = s.toPart.grantReading) ∧
      (s.ctl.op ≠ .unconfigured → 12 ≤ page.toNat → st = 2 ∧ q = s.toPart.grantReading) ∧
      (s.ctl.op ≠ .unconfigured → page.toNat < 12 →
        st = 0 ∧ q = { s.toPart.grantReading with panel := { s.panel with basePage := page.toNat } })) ∧
  (∀ (s : State) (i : Fin 8) (page : Byte), Memory.wf s.exch = true → requestTaken i s.toPart = true →
    ∃ (st : Byte) (q : Part),
      exec (.snapshot i page) s = .next { s with toPart := answerTaken i (rowBytes i 11 [page] s.toPart) st [] q } ∧
      (3 ≤ page.toNat → st = 2 ∧ q = s.toPart.grantReading) ∧
      (page.toNat < 3 → st = 0 ∧ q = { s.toPart with exch := q.exch, arb := q.arb } ∧ agreeOutside (inRecord 0x200 256) s.mem q.mem ∧
        memReadN q.mem 0x200 4 = [page, memRead s.mem 0x0C, memRead s.mem 0x0D, s.ctl.op.code] ∧
        (page = 0 → memReadN q.mem 0x204 252 = (s.conv.codes.toList.map (leBytes 2)).flatten ++
          (s.pulse.toList.map fun x => leBytes 4 x.freq).flatten ++
          [BitVec.ofNat 8 (packBits (s.pulse.toList.map fun x => x.tref.isSome)),
            BitVec.ofNat 8 (packBits (s.sw.toList.map (·.raw))), BitVec.ofNat 8 (packBits (s.sw.toList.map (·.deb))),
            if s.ign.on then 1 else 0] ++ List.replicate 216 0) ∧
        (page = 1 → memReadN q.mem 0x234 204 = List.replicate 204 0 ∧ ∀ n : Fin 6,
          (ptrUsed s.working n = true → memReadN q.mem (0x204 + 8 * n.val) 8 =
            leBytes 2 (if s.ptrs[n].state = .homing then 0xFFFF else s.ptrs[n].pos) ++ leBytes 2 s.ptrs[n].target ++
              [BitVec.ofInt 8 s.ptrs[n].speed, s.ptrs[n].state.code, if s.ptrs[n].homeNeeded then 0 else 1, 0]) ∧
          (ptrUsed s.working n = false → memReadN q.mem (0x204 + 8 * n.val) 8 =
            [0, 0, 0, 0, 0, 0, if s.ptrs[n].homeNeeded then 0 else 1, 0])) ∧
        (page = 2 → memReadN q.mem 0x284 124 = List.replicate 124 0 ∧ ∀ n : Fin 32, memReadN q.mem (0x204 + 4 * n.val) 4 =
          [if s.lamps[n].lit then 1 else 0, s.lamps[n].sense.code, s.lamps[n].diag.code, 0])))

/-- R23, R25, R42, R45: PROVE, taken, is answered BUSY, NOT_NOW or IN_MOTION, in that order of judgement, or accepted: the slot
is held and a REQUEST cycle begins, with its timer, the test tone, the SHORT lamps retried and the prove lamps forced on. A
POSTED slot is marked TAKEN first, its other bytes as taken and its check good, and any other slot is as it was. A second PROVE
is then answered BUSY. That the row needs no POSTED slot is the model's choice (log entry 10), as is that its intake access is
granted at once, after what waited (log entry 7). -/
def Obligations.ProveIsJudged : Prop :=
  ∀ (s : State) (i : Fin 8), Memory.wf s.exch = true → requestTaken i s.toPart = true →
    let taken := rowBytes i 8 [] s.toPart
    let marked : Part := if memRead s.mem (0xC0 + 32 * i.val) = 1 then markTaken i taken s.toPart else s.toPart.grantReading
    let refusedWith : Byte → Prop := fun st => exec (.prove i) s = .next { s with toPart := answerTaken i taken st [] marked }
    slotMarked i taken s.mem marked.mem ∧ agreeOutside (inRecord (0xC0 + 32 * i.val) 32) s.mem marked.mem ∧
    (s.ctl.proving.isSome → refusedWith 9) ∧
    (s.ctl.proving = none → s.ctl.op ≠ .run → refusedWith 3) ∧
    (s.ctl.proving = none → s.ctl.op = .run → s.acct.moving = true → refusedWith 4) ∧
    (s.ctl.proving = none → s.ctl.op = .run → s.acct.moving = false → ∃ t, exec (.prove i) s = .next t ∧
      t = { s with exch := t.exch, arb := t.arb, lamps := t.lamps, chime := t.chime, panel := t.panel,
                   req := { s.req with holds := t.req.holds }, ctl := { s.ctl with
                     proving := some { kind := .request i, timer := some (provingTime s.working), sweeps := [] } } } ∧
      t.req.holds[i] = some { taken := taken } ∧ (∀ j : Fin 8, j ≠ i → t.req.holds[j] = s.req.holds[j]) ∧
      t.chime.test = some 300000 ∧ t.chime.deferred = true ∧
      (∀ j : Fin 32, t.lamps[j].diag ≠ .short ∧
        (lampUsed s.working j = true → (lampRec s.working j).prove = true → (lampRec s.working j).drive = true →
          t.lamps[j].mode = .steady)) ∧
      slotMarked i taken s.mem t.mem ∧ agreeOutside (fun k => partByte k ∨ inRecord (0xC0 + 32 * i.val) 32 k) s.mem t.mem)

/-- R23, R110, R113: HOME_POINTER, taken, is judged in its order: NOT_NOW, BAD_PARAM, BUSY, NOT_NOW, IN_MOTION, or accepted: the
slot is held, the pointers named are noted, and each of them begins its homing. A POSTED slot is marked TAKEN first, its other
bytes as taken and its check good, and any other slot is as it was. That the row needs no POSTED slot is the model's choice (log
entry 10), as is that its intake access is granted at once, after what waited (log entry 7). That a homing begun in a dip holds
its pending duties is deduced from R110 and R117 (log entry 30). -/
def Obligations.HomePointerIsJudged : Prop :=
  ∀ (s : State) (i : Fin 8) (which : Byte), Memory.wf s.exch = true → requestTaken i s.toPart = true →
    let taken := rowBytes i 9 [which] s.toPart
    let marked : Part := if memRead s.mem (0xC0 + 32 * i.val) = 1 then markTaken i taken s.toPart else s.toPart.grantReading
    let refusedWith : Byte → Prop := fun st =>
      exec (.homePointer i which) s = .next { s with toPart := answerTaken i taken st [] marked }
    let named : Fin 6 → Prop := fun j => ptrUsed s.working j = true ∧ (which = 0xFF ∨ which.toNat = j.val)
    let homes : Prop := ∃ j, named j ∧ s.ptrs[j].state = .homing
    slotMarked i taken s.mem marked.mem ∧ agreeOutside (inRecord (0xC0 + 32 * i.val) 32) s.mem marked.mem ∧
    (s.ctl.op = .unconfigured → refusedWith 3) ∧
    (s.ctl.op ≠ .unconfigured → (∀ j, ¬ named j) → refusedWith 2) ∧
    (s.ctl.op ≠ .unconfigured → homes → refusedWith 9) ∧
    (s.ctl.op ≠ .unconfigured → (∃ j, named j) → ¬ homes → s.ctl.op ≠ .run → refusedWith 3) ∧
    ((∃ j, named j) → ¬ homes → s.ctl.op = .run → s.acct.moving = true → refusedWith 4) ∧
    ((∃ j, named j) → ¬ homes → s.ctl.op = .run → s.acct.moving = false → ∃ t, exec (.homePointer i which) s = .next t ∧
      t = { s with exch := t.exch, arb := t.arb, ptrs := t.ptrs, homeReqs := t.homeReqs, req := { s.req with holds := t.req.holds } } ∧
      t.req.holds[i] = some { taken := taken } ∧ (∀ j : Fin 8, j ≠ i → t.req.holds[j] = s.req.holds[j]) ∧
      (∃ l, t.homeReqs = s.homeReqs ++ [{ slot := i, left := l }] ∧ ∀ j, j ∈ l ↔ named j) ∧
      (∀ j : Fin 6, ¬ named j → t.ptrs[j] = s.ptrs[j]) ∧
      (∀ j : Fin 6, named j → t.ptrs[j] = { s.ptrs[j] with
        state := .homing, homeNeeded := true, speed := 0, target := 0, stepsLeft := (ptrRec s.working j).travel + 64,
        phase := ((ptrRec s.working j).travel + 64) % 24,
        pending := if s.inDip then s.ptrs[j].pending else dutyOf (((ptrRec s.working j).travel + 64) % 24) }) ∧
      slotMarked i taken s.mem t.mem ∧
      agreeOutside (fun k => (∃ j : Fin 6, named j ∧ inRecord (0x500 + 16 * j.val) 16 k) ∨ inRecord (0xC0 + 32 * i.val) 32 k)
        s.mem t.mem)

/-! ### Power, restarts and operating states -/

/-- R13, R33, R57, R172: power-on, with the RESET line released and asserted: memory is clear but for the identity copy, the
POWER_ON entry and the control record, and both notice words are zero; a cause that held INIT passes, and INIT begins again as
at a power-on; INIT_END samples the pins, starts the units, enters UNCONFIGURED and shows STATE and JOURNAL to a host that reads
the notice word right after it. That INIT keeps the link's framing when it begins again, that its work stands in initDone and
that JOURNAL shows at its end are the model's choices (log entry 2), and that POWER_ON keeps the RESET level and finds the
supply present (log entry 26). -/
def Obligations.InitBeginsAndEnds : Prop :=
  (∀ s : State, s.ctl.resetLine = false → ∃ t, exec .powerOn s = .next t ∧
    t = { State.reset with
      pending := s.pending, freeIdx := s.freeIdx, exch := t.exch, arb := { last := .record, waiting := [], idx := s.arb.idx }
      ctl := { State.reset.ctl with initDone := true }, jour := { wm := 1, rm := 0, seq := 1, lost := 0 } } ∧
    memReadN t.exch 0 2 = [0x6B, 0x1E] ∧ noticeWord t.exch = 0 ∧ noticeMask t.exch = 0 ∧ controlRecordShows t.jour t.exch ∧
    memReadN t.exch 0x800 32 = [0, 0, 1] ++ List.replicate 29 0 ∧
    (∀ a, 2 ≤ a → ¬ inRecord 0x1E0 6 a → ¬ inRecord 0x800 32 a → memRead t.exch a = 0)) ∧
  (∀ s : State, s.ctl.resetLine = true → exec .powerOn s =
    .next { State.reset with
      pending := s.pending, freeIdx := s.freeIdx, arb := { State.reset.arb with idx := s.arb.idx }
      ctl := { State.reset.ctl with resetLine := true } }) ∧
  (∀ s : State, s.ctl.op = .init → s.ctl.initDone = false → s.ctl.resetLine = true → s.ctl.supplyLow = false → ∃ t,
    exec .powerOn { s with ctl := { s.ctl with resetLine := false } } = .next t ∧
    exec .resetRelease s = .next { t with link := s.link }) ∧
  (∀ s : State, s.ctl.op = .init → s.ctl.initDone = false → s.ctl.resetLine = false → s.ctl.supplyLow = true → ∃ t,
    exec .powerOn s = .next t ∧ exec .supplyAboveReset s = .next { t with link := s.link }) ∧
  (∀ (s : State) (strap ign belowDip : Bool) (now : Word), Memory.wf s.exch = true → ChimeLaw s.toPart → s.ctl.op = .init →
    s.ctl.initDone = true → s.ctl.resetLine = false → s.ctl.supplyLow = false → s.working = [] →
    ∃ t, exec (.initEnd strap ign belowDip now) s = .next t ∧
    t = { s with
      exch := t.exch, arb := { s.arb with last := .record, waiting := [] }, sw := t.sw, pulse := t.pulse, chime := t.chime, free := now
      ign := { on := ign, count := 0 }
      ctl := { s.ctl with op := .unconfigured, strap := strap, supply := if belowDip then .dip else .normal, settle := none }
      req := { s.req with scanTimer := some 20, seen := t.req.seen }
      conv := { s.conv with pos := 0, busy := none, sref := true }
      panel := { s.panel with lastSent := none, sinceSend := 0 } } ∧
    (∀ i : Fin 16, t.req.seen[i] = memRead s.mem (0x40 + 8 * i.val)) ∧
    (∀ i : Fin 8, t.sw[i] = { s.sw[i] with taken := false, count := 0 }) ∧
    (∀ i : Fin 4, t.pulse[i].start = now ∧ t.pulse[i].len = windowLength s.working i ∧ t.pulse[i].win.m = 0) ∧
    memReadN t.exch 2 2 = [1, s.ctl.access.code] ∧
    noticeWord t.exch = noticeWord s.mem ||| (if belowDip then 0x218#16 else 0x18#16) ∧
    agreeOutside (fun k => stateByte k ∨ noticeByte k) s.mem t.exch)

/-- R13, R23, R26, R33, R55, R59, R119, R145: a restart begins by the RESET line, by the supply, or by a RESTART request, whose
slot, if POSTED, is marked TAKEN: every operation in flight stops, the access is locked, the outputs go off, the record accesses
asked for are granted, and the rest is kept. A further cause during a restart changes its level alone, and in INIT it makes INIT
begin again (R33), which the model tells by initDone (log entry 2); a cause that passes outside INIT changes its level alone.
That the RESTART row begins the restart at once, in place of the end of a scan, is the model's choice (log entry 10). That lamp
states, conditions and modes stay as they were is deduced from R55, R56, R119 and R145 (log entry 17), and that the panel
forgets its last frame and its count at the start from R180 (log entry 27). -/
def Obligations.RestartsBegin : Prop :=
  (∀ (s : State) (c : Instr) (cause : Cause), Memory.wf s.exch = true → s.ctl.op ≠ .init → s.ctl.restart = none →
    (c = .resetAssert ∧ s.ctl.resetLine = false ∧ cause = .reset ∨
      c = .supplyBelowReset ∧ s.ctl.supplyLow = false ∧ cause = .supply ∨
      (∃ i, c = .restart i ∧ requestTaken i s.toPart = true) ∧ cause = .request) →
    ∃ t, exec c s = .next t ∧
      t = { s with
        exch := t.exch, arb := { t.arb with idx := s.arb.idx, waiting := [] }, ptrs := t.ptrs, lamps := t.lamps, chime := t.chime
        pulse := t.pulse, sw := t.sw, homeReqs := []
        ctl := { s.ctl with
          access := .locked, restart := some cause, proving := none, commit := none, settle := none
          resetLine := s.ctl.resetLine || decide (cause = .reset), supplyLow := s.ctl.supplyLow || decide (cause = .supply) }
        req := { s.req with
          holds := Vector.replicate 8 none, halt := false, pendingScan := none, scanTimer := none
          restartSlots := t.req.restartSlots }
        conv := { s.conv with busy := none, sref := false }, ign := { s.ign with count := 0 }
        panel := { s.panel with lastSent := none, sinceSend := 0 }, acct := { s.acct with confirm := none } } ∧
      (∀ i, c = .restart i → t.req.restartSlots = s.req.restartSlots ++ [i] ∧
        slotMarked i (rowBytes i 12 [] s.toPart) s.mem t.mem) ∧
      (cause ≠ .request → t.req.restartSlots = s.req.restartSlots) ∧
      t.chimeSounds = false ∧ t.chime.phase = .idle ∧ t.chime.test = none ∧ t.chime.deferred = true ∧
      (∀ i : Fin 6, t.ptrs[i] = { s.ptrs[i] with
        state := .released, stepsLeft := 0, sweep := .waiting, pending := { a := 0, b := 0 } }) ∧
      (∀ i : Fin 32, t.lamps[i] = { s.lamps[i] with
        lit := false, pending := 0, active := 0, onDelay := none, owed := t.lamps[i].owed }) ∧
      (∀ i : Fin 4, t.pulse[i] = { s.pulse[i] with win := Edges.none, next := Edges.none, tref := none, lastEdge := none }) ∧
      (∀ i : Fin 8, t.sw[i] = { s.sw[i] with taken := false, count := 0 }) ∧
      (s.ctl.access ≠ .locked → memReadN t.mem 2 2 = [s.ctl.op.code, 0]) ∧
      agreeOutside (fun k => (s.ctl.access ≠ .locked ∧ stateByte k) ∨ inRecord 0x500 0x60 k ∨
        ∃ i, c = .restart i ∧ inRecord (0xC0 + 32 * i.val) 32 k) s.mem t.mem) ∧
  (∀ s : State, s.ctl.op ≠ .init → s.ctl.restart.isSome →
    (s.ctl.resetLine = false → exec .resetAssert s = .next { s with ctl := { s.ctl with resetLine := true } }) ∧
    (s.ctl.supplyLow = false → exec .supplyBelowReset s = .next { s with ctl := { s.ctl with supplyLow := true } })) ∧
  (∀ s : State, s.ctl.op ≠ .init →
    (s.ctl.resetLine = true → exec .resetRelease s = .next { s with ctl := { s.ctl with resetLine := false } }) ∧
    (s.ctl.supplyLow = true → exec .supplyAboveReset s = .next { s with ctl := { s.ctl with supplyLow := false } })) ∧
  (∀ s : State, s.ctl.op = .init →
    (s.ctl.resetLine = false →
      exec .resetAssert s = .next { s with ctl := { s.ctl with resetLine := true, initDone := false } }) ∧
    (s.ctl.supplyLow = false →
      exec .supplyBelowReset s = .next { s with ctl := { s.ctl with supplyLow := true, initDone := false } }))

/-- R27, R51, R54, R56, R126, R145, R162, R184: a restart whose causes have passed ends: STARTING with IGN on and PARK with it
off, the samples taken, the blocks at their restart values, the kept RESTART slots answered OK, the other TAKEN slots ABORTED,
and the host's other bytes as they were; what waits is granted (log entry 7). The Journal takes the entries of the motion state
forced to STOPPED, then the RESTART entry. A lamp that no active warning and no lamp fault lights is OFF with its timers and its
message state cleared, so the stack holds none but lit ones; the chime arbiter is at its starting values, and its test tone runs
only in a START cycle that begins at once. A kept slot whose state byte is above 0x03 counts as EMPTY (log entry 19); the order
of the blocks is the model's choice (log entry 16), as is that the kind of the tone last sounded becomes ONCE (log entry 42).
That the end of SPEED_LOST writes its entry is deduced from R152 and R161 (log entry 33). -/
def Obligations.RestartsEnd : Prop :=
  ∀ (s : State) (cause : Cause) (strap ign belowDip : Bool) (now : Word), Memory.wf s.exch = true → s.ctl.restart = some cause →
    s.ctl.resetLine = false → s.ctl.supplyLow = false → (∀ i : Fin 8, s.req.holds[i] = none) → s.homeReqs = [] →
    ∃ t, exec (.restartEnd strap ign belowDip now) s = .next t ∧
      t.pending = s.pending ∧ t.link = s.link ∧ t.working = s.working ∧ t.free = now ∧ t.ign = { on := ign, count := 0 } ∧
      t.arb.waiting = [] ∧ t.arb.idx = s.arb.idx ∧ t.ctl = { s.ctl with
        op := if ign then .starting else .park, restart := none, strap := strap, settle := none
        supply := if belowDip then .dip else .normal, proving := t.ctl.proving } ∧
      t.req.restartSlots = [] ∧ t.req.scanTimer = some (if ign then scanPeriodOf s.working else 1000) ∧
      (∀ i : Fin 16, t.req.seen[i] = memRead s.mem (0x40 + 8 * i.val)) ∧
      (∀ c : Fin 32, t.chans[c] = { quality := .unset, value := 0, acc := 0, count := 0, age := 0, update := 0 }) ∧
      t.conv = { pos := 0, busy := none, codes := Vector.replicate 8 0, sref := ign } ∧
      (∀ i : Fin 4, t.pulse[i].freq = 0 ∧ t.pulse[i].tref = none ∧ t.pulse[i].lastEdge = none) ∧
      (∀ i : Fin 8, t.sw[i] = { raw := false, deb := false, taken := false, count := 0 }) ∧
      (∀ i : Fin 6, t.ptrs[i].homeNeeded = true ∧ t.ptrs[i].pos = 0 ∧ t.ptrs[i].target = 0 ∧ t.ptrs[i].speed = 0 ∧
        t.ptrs[i].state = if ign && ptrUsed s.working i then .homing else .released) ∧
      t.lampU.slowLit = true ∧ t.lampU.fastLit = true ∧ t.lampU.frozen = !ign ∧ t.lampU.warn = t.acct.warnings ∧
      (ign = false → ∀ i : Fin 32, t.lamps[i].diag = s.lamps[i].diag ∧
        (t.lamps[i].lowCount = s.lamps[i].lowCount ∨ t.lamps[i].mode ≠ .unlit ∧ t.lamps[i].lowCount = 0)) ∧
      lampsAreReset s.working s.toPart t.toPart ∧ chimeIsReset t.toPart ∧
      (s.ctl.proving = none → startCycleAtOnce s.working t.toPart) ∧
      t.panel.basePage = startPage s.working ∧
      t.acct.moving = false ∧ t.acct.confirm = none ∧ t.acct.clock = s.acct.clock ∧ t.acct.timeValid = s.acct.timeValid ∧
      t.acct.warnings.getLsbD 5 = false ∧
      (∀ id, (getSeat t.acct id).map (fun x => (x.identity, x.selected, x.cdt, x.ddt)) =
        (getSeat s.acct id).map (fun x => (x.identity, x.selected, x.cdt, x.ddt))) ∧
      journalTakes (stoppingEntries s.acct t.acct ++ [.restart cause s.ctl.op]) s.toPart t.toPart ∧
      noticeOn t.mem .state = true ∧
      (∀ i : Fin 8,
        let a := 0xC0 + 32 * i.val
        let st := memRead s.mem a
        (i ∈ s.req.restartSlots → st = 1 ∨ st = 2 →
          memReadN t.mem a 4 = [3, memRead s.mem (a + 1), memRead s.mem (a + 2), 0]) ∧
        (i ∉ s.req.restartSlots → st = 2 → memReadN t.mem a 4 = [3, memRead s.mem (a + 1), memRead s.mem (a + 2), 0x0B]) ∧
        (st ≠ 2 → (i ∉ s.req.restartSlots ∨ st ≠ 1) → memReadN t.mem a 32 = memReadN s.mem a 32)) ∧
      agreeOutside (fun k => partByte k ∨ slotByte k) s.mem t.mem

/-- R35, R37, R39 to R41: the ignition. A change is recorded in UNCONFIGURED; a fall in STARTING or RUN goes to PARKING, and to
PARK at once when every used pointer rests at 0; a rise in PARKING goes to RUN, and in PARK to STARTING; PARK is entered when
its condition holds. A proving cycle that the fall finds is abandoned, and a REQUEST cycle's slot is answered NOT_NOW (R44). The
frozen conditions thaw: at the rise in PARKING every one is evaluated from the stored inputs and makes its event, and at the
exit of PARK every one stands as evaluated after the reset notifications (R128). That the events are rows of their own, taken at
their word, and that a repeated level, which cannot occur, changes nothing, are the model's choices (log entry 4), as is the
free count that comes with the event (log entry 6). -/
def Obligations.IgnitionMovesTheOperatingState : Prop :=
  ∀ (s : State) (now : Word), Memory.wf s.exch = true → s.live = true →
    let rests : Prop := ∀ i : Fin 6, ptrUsed s.working i = true → s.ptrs[i].pos = 0 ∧ s.ptrs[i].speed = 0 ∧
      s.ptrs[i].state ≠ .homing ∧ (s.inDip = true → s.ptrs[i].state = .released)
    (s.ign.on = true → exec (.ignRise now) s = .next { s with free := now }) ∧
    (s.ign.on = false → exec .ignFall s = .next s) ∧
    (s.ctl.op = .unconfigured → s.ign.on = false →
      exec (.ignRise now) s = .next { s with free := now, ign := { on := true, count := 0 } }) ∧
    (s.ctl.op = .unconfigured → s.ign.on = true → exec .ignFall s = .next { s with ign := { on := false, count := 0 } }) ∧
    (s.ctl.op = .starting ∨ s.ctl.op = .run → s.ign.on = true → ∃ t, exec .ignFall s = .next t ∧
      t.ign = { on := false, count := 0 } ∧ t.ctl = { s.ctl with op := t.ctl.op, proving := none } ∧
      (rests → t.ctl.op = .park ∧ t.acct.moving = false ∧ journalTakes (stoppingEntries s.acct t.acct) s.toPart t.toPart ∧
        ∀ i : Fin 6, ptrUsed s.working i = true → t.ptrs[i].state = .released ∧ t.ptrs[i].pos = 0) ∧
      (¬ rests → t.ctl.op = .parking ∧ t.acct.moving = s.acct.moving ∧ t.jour = s.jour ∧
        ∀ i : Fin 6, ptrUsed s.working i = true → t.ptrs[i].pos = s.ptrs[i].pos ∧ t.ptrs[i].speed = s.ptrs[i].speed ∧
          (s.ptrs[i].state = .follow ∨ s.ptrs[i].state = .sweep → t.ptrs[i].state = .return ∧ t.ptrs[i].target = 0) ∧
          (s.ptrs[i].state ≠ .follow → s.ptrs[i].state ≠ .sweep → t.ptrs[i] = s.ptrs[i])) ∧
      t.chans = s.chans ∧ t.working = s.working ∧ t.conv = { s.conv with busy := none, sref := false } ∧
      t.lampU.frozen = true ∧ t.acct.confirm = none ∧ t.chime.test = none ∧ (ChimeLaw s.toPart → t.chimeSounds = false) ∧
      t.req.scanTimer = scanPeriod s.working t.ctl.op ∧ noticeOn t.mem .state = true ∧
      (∀ slot : Fin 8, (∃ c, s.ctl.proving = some c ∧ c.kind = .request slot) → ∀ h, s.req.holds[slot] = some h →
        t.req.holds[slot] = none ∧
        (memRead s.mem (0xC0 + 32 * slot.val) = 1 ∨ memRead s.mem (0xC0 + 32 * slot.val) = 2 →
          memReadN t.mem (0xC0 + 32 * slot.val) 4 = [3, byteAt h.taken 1, byteAt h.taken 2, 3])) ∧
      (∀ slot : Fin 8, (∀ c, s.ctl.proving = some c → c.kind ≠ .request slot) → t.req.holds[slot] = s.req.holds[slot] ∧
        memReadN t.mem (0xC0 + 32 * slot.val) 32 = memReadN s.mem (0xC0 + 32 * slot.val) 32) ∧
      agreeOutside (fun k => partByte k ∨ slotByte k) s.mem t.mem) ∧
    (s.ctl.op = .parking → s.ign.on = false → ∃ t, exec (.ignRise now) s = .next t ∧
      t = { s with
        exch := t.exch, arb := t.arb, ptrs := t.ptrs, lamps := t.lamps, chime := t.chime, panel := t.panel, pulse := t.pulse, sw := t.sw
        free := now, ign := { on := true, count := 0 }, ctl := { s.ctl with op := .run }
        req := { s.req with scanTimer := some (scanPeriodOf s.working) }
        conv := { s.conv with pos := 0, busy := none, sref := true }, lampU := { s.lampU with frozen := false } } ∧
      (∀ i : Fin 6, ptrUsed s.working i = true → s.ptrs[i].state = .return →
        t.ptrs[i].state = .follow ∧ t.ptrs[i].pos = s.ptrs[i].pos ∧ t.ptrs[i].speed = s.ptrs[i].speed ∧
        t.ptrs[i].target = followTarget (ptrRec s.working i) s.ptrs[i]) ∧
      (∀ i : Fin 6, (ptrUsed s.working i = false ∨ s.ptrs[i].state ≠ .return) → t.ptrs[i] = s.ptrs[i]) ∧
      (∀ i : Fin 32, lampUsed s.working i = true →
        let h := hysteresis (lampRec s.working i) s.lamps[i].chanLast s.lamps[i].hyst
        let truth := kindTruth s.toPart i h && gateOpen s.toPart i
        t.lamps[i].chanLast = s.lamps[i].chanLast ∧ t.lamps[i].gateLast = s.lamps[i].gateLast ∧ t.lamps[i].hyst = h ∧
        t.lamps[i].cond = truth ∧ t.lamps[i].state = lampStateAfter (lampRec s.working i) s.lamps[i] truth) ∧
      agreeOutside partByte s.mem t.mem) ∧
    (s.ctl.op = .park → s.ign.on = false → ∃ t, exec (.ignRise now) s = .next t ∧
      t.ctl.op = .starting ∧ t.ign = { on := true, count := 0 } ∧ t.free = now ∧ t.working = s.working ∧
      t.lampU.frozen = false ∧ t.panel.basePage = startPage s.working ∧
      (∀ c : Fin 32, t.chans[c] = { quality := .unset, value := 0, acc := 0, count := 0, age := 0, update := 0 }) ∧
      t.conv = { pos := 0, busy := none, codes := Vector.replicate 8 0, sref := true } ∧
      (∀ i : Fin 4, t.pulse[i].freq = 0 ∧ t.pulse[i].tref = none ∧ t.pulse[i].start = now) ∧
      (∀ i : Fin 6, ptrUsed s.working i = true → s.ptrs[i].homeNeeded = true →
        t.ptrs[i].state = .homing ∧ t.ptrs[i].stepsLeft = (ptrRec s.working i).travel + 64) ∧
      (∀ i : Fin 32, lampUsed s.working i = true → conditionStands t.toPart i ∧
        ((lampRec s.working i).kind.usesChannel = true → (lampRec s.working i).chan ≤ 31 → t.lamps[i].chanLast.quality = .unset) ∧
        (∀ g, (lampRec s.working i).gate = some g → g ≤ 31 → t.lamps[i].gateLast.quality = .unset)) ∧
      noticeOn t.mem .state = true ∧ agreeOutside partByte s.mem t.mem) ∧
    (s.ctl.op = .parking → rests → ∃ t, exec .parkEntry s = .next t ∧
      t.ctl = { s.ctl with op := .park } ∧ t.acct.moving = false ∧ t.acct.confirm = none ∧ t.req.scanTimer = some 1000 ∧
      journalTakes (stoppingEntries s.acct t.acct) s.toPart t.toPart ∧
      (∀ i : Fin 6, ptrUsed s.working i = true → t.ptrs[i].state = .released ∧ t.ptrs[i].pos = 0 ∧
        t.ptrs[i].pending = { a := 0, b := 0 } ∧ t.ptrs[i].homeNeeded = s.ptrs[i].homeNeeded) ∧
      t.chans = s.chans ∧ t.working = s.working ∧ noticeOn t.mem .state = true ∧ agreeOutside partByte s.mem t.mem) ∧
    (s.ctl.op ≠ .parking ∨ ¬ rests → exec .parkEntry s = .next s)

/-- R47, R48: a running commit that ends without success writes its result, drops its staging copy and leaves the access OPEN:
the first check that fails gives table, index and reason, as ValidationFindsTheFirstFailingCheck says; else a second judgement
that refuses gives its reason. With no commit running the event changes nothing, which is the model's choice (log entry 4). -/
def Obligations.CommitsFailOrAreRefused : Prop :=
  (∀ s : State, s.ctl.commit = none → exec .commitEnd s = .next s) ∧
  ∀ (s : State) (c : CommitRun), Memory.wf s.exch = true → s.live = true → s.ctl.commit = some c → c.copied ≤ 376 →
    let staging := c.staging ++ memSlice s.mem (0x1000 + 32 * c.copied) 0x3F00
    let ends : List Byte → Prop := fun result => ∃ t, exec .commitEnd s = .next t ∧
      t = { s with exch := t.exch, arb := t.arb, ctl := { s.ctl with commit := none } } ∧ memReadN t.mem 4 3 = result ∧
      noticeWord t.mem = noticeWord s.mem ||| 0x800#16 ∧ agreeOutside (fun k => inRecord 4 3 k ∨ noticeByte k) s.mem t.mem
    (∀ f, validate staging = some f → ends [BitVec.ofNat 8 f.table, BitVec.ofNat 8 f.index, BitVec.ofNat 8 f.reason.code]) ∧
    (validate staging = none → s.acct.moving = true → ends [0, 0, 15]) ∧
    (validate staging = none → s.acct.moving = false → s.ctl.op = .starting ∨ s.ctl.op = .parking → ends [0, 0, 16])

/-- R44, R50, R99, R118, R145, R152, R184: a commit that succeeds latches the staging copy whole, locks the access, gives every
block its commit values, changes the operating state as R50 says, and writes the result 0. A lamp that no active warning and no
lamp fault lights under the new configuration is OFF with its timers and its message state cleared, so the stack holds none but
lit ones; the chime arbiter is at its starting values; a REQUEST proving cycle is abandoned and answered NOT_NOW, as are the
held HOME_POINTER requests. The seats, the clock and the host's bytes outside the request slots are kept. That a debounce count
is zeroed at the commit, where R73 and R74 differ, is log entry 36, the order of the blocks log entry 16, that the kind of the
tone last sounded becomes ONCE log entry 42, and that a commit found in PARK succeeds, also where IGN fell while it ran, which
the words of R49 refuse and the tests of R47 do not, log entry 35. -/
def Obligations.CommitsSucceed : Prop :=
  ∀ (s : State) (c : CommitRun), Memory.wf s.exch = true → s.live = true → s.ctl.commit = some c → c.copied ≤ 376 →
    s.ctl.access = .opened → s.acct.moving = false → s.ctl.op ≠ .starting → s.ctl.op ≠ .parking →
    let staging := c.staging ++ memSlice s.mem (0x1000 + 32 * c.copied) 0x3F00
    validate staging = none → ∃ t, exec .commitEnd s = .next t ∧
      t.working = staging ∧ t.ctl.access = .locked ∧ t.ctl.commit = none ∧ t.ctl.supply = s.ctl.supply ∧ t.ctl.settle = s.ctl.settle ∧
      (s.ctl.op = .run → t.ctl.op = .starting) ∧
      (s.ctl.op = .unconfigured → t.ctl.op = if s.ign.on then .starting else .park) ∧
      (s.ctl.op = .park → t.ctl.op = .park) ∧
      (∀ k : Fin 32, t.chans[k] = { quality := .unset, value := 0, acc := 0, count := 0, age := 0, update := 0 }) ∧
      (∀ i : Fin 6, t.ptrs[i].homeNeeded = true ∧ t.ptrs[i].pos = 0 ∧ t.ptrs[i].target = 0 ∧ t.ptrs[i].speed = 0 ∧
        (ptrUsed staging i = false → t.ptrs[i].state = .released) ∧
        (t.ctl.op = .starting → ptrUsed staging i = true → t.ptrs[i].state = .homing)) ∧
      (∀ i : Fin 8, t.sw[i] = { s.sw[i] with taken := false, count := 0 }) ∧
      lampsAreReset staging s.toPart t.toPart ∧ chimeIsReset t.toPart ∧ startCycleAtOnce staging t.toPart ∧
      (∀ (slot : Fin 8) (h : Holding),
        (∃ y, s.ctl.proving = some y ∧ y.kind = .request slot) ∨ (∃ q ∈ s.homeReqs, q.slot = slot) →
        s.req.holds[slot] = some h → t.req.holds[slot] = none ∧
          (memRead s.mem (0xC0 + 32 * slot.val) = 1 ∨ memRead s.mem (0xC0 + 32 * slot.val) = 2 →
            memReadN t.mem (0xC0 + 32 * slot.val) 4 = [3, byteAt h.taken 1, byteAt h.taken 2, 3])) ∧
      t.panel.basePage = startPage staging ∧ t.homeReqs = [] ∧
      t.acct.moving = false ∧ t.acct.confirm = none ∧ t.acct.clock = s.acct.clock ∧ t.acct.seat1 = s.acct.seat1 ∧
      t.acct.seat2 = s.acct.seat2 ∧ t.acct.warnings.getLsbD 5 = false ∧ t.lampU.warn = t.acct.warnings ∧
      memReadN t.mem 2 2 = [t.ctl.op.code, 0] ∧ memReadN t.mem 4 3 = [0, 0, 0] ∧ noticeOn t.mem .commit = true ∧
      agreeOutside (fun k => partByte k ∨ slotByte k) s.mem t.mem

/-- R52, R53, R91, R97, R104, R117, R137, R142, R149: a dip start holds the sender channels and tells their consumers: a pointer
that follows takes its position as its target, and a confirm timer pauses; it freezes the driven pointers, holds the lamp image
and silences the chime; a recovery lets them go and starts the settle timer; the settle end sets DIP again. That at a dip start
the image is held first and the channels' consumers are told before the pointers freeze is the model's order (log entry 16), and
that an output counts as lit from its composition on, at a recovery too, its choice (log entry 39). -/
def Obligations.DipsHoldAndLetGo : Prop :=
  (∀ s : State, Memory.wf s.exch = true → s.live = true → s.inDip = false → ∃ t, exec .dipStart s = .next t ∧
    t = { s with
      exch := t.exch, arb := t.arb, chans := t.chans, ptrs := t.ptrs, lamps := t.lamps, chime := t.chime, panel := t.panel
      ctl := { s.ctl with supply := .dip, settle := none }, lampU := { s.lampU with dim := t.lampU.dim }
      acct := { s.acct with confirm := t.acct.confirm } } ∧
    (∀ c : Fin 32, chanKind s.working c = .sender → s.chans[c].quality = .good ∨ s.chans[c].quality = .held →
      t.chans[c] = { s.chans[c] with quality := .dip, update := s.chans[c].update + 1 }) ∧
    (∀ c : Fin 32, (chanKind s.working c ≠ .sender ∨ s.chans[c].quality ≠ .good ∧ s.chans[c].quality ≠ .held) →
      t.chans[c] = s.chans[c]) ∧
    (∀ i : Fin 6, t.ptrs[i].state = s.ptrs[i].state ∧ t.ptrs[i].pos = s.ptrs[i].pos ∧ t.ptrs[i].active = s.ptrs[i].active ∧
      t.ptrs[i].pending = s.ptrs[i].pending ∧
      (ptrUsed s.working i = true → s.ptrs[i].state ≠ .released → t.ptrs[i].speed = 0)) ∧
    (∀ i : Fin 32, t.lamps[i].lit = s.lamps[i].lit ∧ t.lamps[i].active = s.lamps[i].active ∧
      t.lamps[i].pending = s.lamps[i].pending) ∧
    (let dips (c : Fin 32) : Prop := chanKind s.working c = .sender ∧ (s.chans[c].quality = .good ∨ s.chans[c].quality = .held)
     (∀ (i : Fin 6) (c : Fin 32), ptrUsed s.working i = true → (ptrRec s.working i).chan = c.val → dips c →
       t.ptrs[i].last = { quality := .dip, value := s.chans[c].value } ∧
       t.ptrs[i].target = if s.ptrs[i].state = .follow then s.ptrs[i].pos else s.ptrs[i].target) ∧
     (∀ i : Fin 6, (∀ c : Fin 32, ptrUsed s.working i = true → (ptrRec s.working i).chan = c.val → ¬ dips c) →
       t.ptrs[i].last = s.ptrs[i].last ∧ t.ptrs[i].target = s.ptrs[i].target) ∧
     lampsTold dips s.toPart t.toPart ∧ dimmingTold dips s.toPart t.toPart ∧
     (∀ c, motionChannel s.working = some c → dips c → s.channelsTake = true →
       t.acct.confirm = s.acct.confirm.map fun r => { r with paused := true }) ∧
     ((∀ c, motionChannel s.working = some c → dips c → s.channelsTake = false) → t.acct.confirm = s.acct.confirm)) ∧
    (ChimeLaw s.toPart → t.chimeSounds = false) ∧
    noticeOn t.mem .dip = true ∧ agreeOutside partByte s.mem t.mem) ∧
  (∀ s : State, Memory.wf s.exch = true → s.live = true → s.inDip = true → ∃ t, exec .recovery s = .next t ∧
    t = { s with
      exch := t.exch, arb := t.arb, ptrs := t.ptrs, lamps := t.lamps, chime := t.chime
      ctl := { s.ctl with supply := .settle, settle := some (settleTime s.working) } } ∧
    (∀ i : Fin 6, ptrUsed s.working i = true → s.ptrs[i].state = .homing →
      t.ptrs[i].state = .homing ∧ t.ptrs[i].stepsLeft = (ptrRec s.working i).travel + 64) ∧
    (∀ i : Fin 6, ptrUsed s.working i = true → s.ptrs[i].state.moves = true →
      t.ptrs[i] = { s.ptrs[i] with phase := s.ptrs[i].pos % 24, pending := dutyOf (s.ptrs[i].pos % 24) }) ∧
    (∀ i : Fin 32, t.lamps[i].state = s.lamps[i].state ∧ t.lamps[i].mode = composedMode t.toPart i ∧
      t.lamps[i].lit = modeLit s.lampU t.lamps[i].mode) ∧
    agreeOutside partByte s.mem t.mem) ∧
  (∀ s : State, Memory.wf s.exch = true → s.live = true → s.ctl.supply = .settle → ∃ t, exec .settleTimerExpiry s = .next t ∧
    t = { s with exch := t.exch, arb := t.arb, ctl := { s.ctl with supply := .normal, settle := none } } ∧
    noticeWord t.mem = noticeWord s.mem ||| 0x200#16 ∧ agreeOutside noticeByte s.mem t.mem)

/-- R43, R143: the proving timer expires. With a sweep still out the cycle goes on; else it ends: a START cycle enters RUN, a
REQUEST cycle is answered OK, the forcing stops. The test tone's timer stops the tone. That an expiry is taken while its timer
runs, whatever is left, and changes nothing else, is the model's choice (log entry 4). -/
def Obligations.ProvingCyclesEnd : Prop :=
  (∀ (s : State) (c : Proving), Memory.wf s.exch = true → s.live = true → s.ctl.proving = some c → c.timer.isSome →
    (c.sweeps ≠ [] →
      exec .provingTimerExpiry s = .next { s with ctl := { s.ctl with proving := some { c with timer := none } } }) ∧
    (c.sweeps = [] → c.kind = .start → ∃ t, exec .provingTimerExpiry s = .next t ∧
      t = { s with
        exch := t.exch, arb := t.arb, lamps := t.lamps, chime := t.chime, panel := t.panel, ctl := { s.ctl with op := .run, proving := none }
        req := { s.req with scanTimer := some (scanPeriodOf s.working) } } ∧
      memReadN t.mem 2 2 = [3, s.ctl.access.code] ∧ noticeOn t.mem .state = true ∧
      (∀ i : Fin 32, t.lamps[i].state = s.lamps[i].state ∧ t.lamps[i].mode = composedMode t.toPart i) ∧
      agreeOutside partByte s.mem t.mem) ∧
    (∀ (slot : Fin 8) (h : Holding), c.sweeps = [] → c.kind = .request slot → s.req.holds[slot] = some h →
      ∃ t, exec .provingTimerExpiry s = .next t ∧
      t = { s with
        exch := t.exch, arb := t.arb, lamps := t.lamps, chime := t.chime, ctl := { s.ctl with proving := none }
        req := { s.req with holds := t.req.holds } } ∧
      t.req.holds[slot] = none ∧ (∀ j : Fin 8, j ≠ slot → t.req.holds[j] = s.req.holds[j]) ∧
      (memRead s.mem (0xC0 + 32 * slot.val) = 1 ∨ memRead s.mem (0xC0 + 32 * slot.val) = 2 →
        memReadN t.mem (0xC0 + 32 * slot.val) 4 = [3, byteAt h.taken 1, byteAt h.taken 2, 0]) ∧
      (∀ i : Fin 32, t.lamps[i].state = s.lamps[i].state ∧ t.lamps[i].mode = composedMode t.toPart i) ∧
      agreeOutside (fun k => partByte k ∨ inRecord (0xC0 + 32 * slot.val) 32 k) s.mem t.mem)) ∧
  (∀ s : State, s.ctl.proving = none → exec .provingTimerExpiry s = .next s) ∧
  (∀ s : State, s.chime.test.isSome →
    exec .testToneEnd s = .next { s with chime := { s.chime with test := none, testMuted := false } }) ∧
  (∀ s : State, s.chime.test = none → exec .testToneEnd s = .next s)

/-! ### Measuring -/

/-- R61, R62, R63: a conversion slot begins the conversion of its input if a used channel names it, and the position advances
either way; the code of a held level is the number of ladder levels below it, level n standing at 512 (2n + 1) units of 2^-20 of
the sender reference (the unit is the model's choice, log entry 18); a completed conversion stores its code and delivers it.
Where the units stand, or a conversion runs already or does not run, the events change nothing, which is the model's choice (log
entry 4). -/
def Obligations.ConversionsTakeTheCode : Prop :=
  (∀ (s : State) (level : Int), s.unitsRun = true → s.conv.busy = none →
    let inUse : Prop := ∃ c : Fin 32, (chanRec s.working c).kind = .sender ∧ (chanRec s.working c).index = s.conv.pos.val
    (inUse → exec (.conversionSlot level) s =
      .next { s with conv := { s.conv with pos := s.conv.pos + 1, busy := some (s.conv.pos, level) } }) ∧
    (¬ inUse → exec (.conversionSlot level) s = .next { s with conv := { s.conv with pos := s.conv.pos + 1 } })) ∧
  (∀ (s : State) (level : Int), s.unitsRun = false ∨ s.conv.busy.isSome → exec (.conversionSlot level) s = .next s) ∧
  (∀ level : Int, conversionCode level =
    ((List.range 1023).filter fun n => decide (((2 * n + 1) * 512 : Int) < level)).length) ∧
  (∀ (s : State) (i : Fin 8) (level : Int), Memory.wf s.exch = true → s.unitsRun = true → s.conv.busy = some (i, level) →
    ∃ p, exec .conversionComplete s = .next { s with toPart := p } ∧
      rawDelivered .sender i (conversionCode level)
        { s.toPart with conv := { s.conv with busy := none, codes := s.conv.codes.set i (conversionCode level) } } p) ∧
  (∀ s : State, s.unitsRun = false ∨ s.conv.busy = none → exec .conversionComplete s = .next s)

/-- R66 to R70: an edge of the selected direction within 20 µs of the last accepted one is ignored; another is counted in the
window while its timestamp lies within the span, and in the next window when it lies at or past the end, which the model reads
from R67 (log entry 32). A window end takes the frequency of Table 4-6, or with no edge the decay of R69, keeps the last edge as
the reference, begins the next window and delivers. -/
def Obligations.EdgesGiveTheFrequency : Prop :=
  (∀ (s : State) (i : Fin 4) (rising : Bool) (now : Word), s.ctl.op ≠ .init →
    let x := s.pulse[i]
    let taken (y : PulseIn) : Prop := exec (.pulseEdge i rising now) s = .next { s with free := now, pulse := s.pulse.set i y }
    let added (e : Edges) : Edges := { m := e.m + 1, first := if e.m = 0 then now else e.first, last := now }
    (s.unitsRun = false ∨ rising = fallingEdges s.working i → exec (.pulseEdge i rising now) s = .next { s with free := now }) ∧
    (s.unitsRun = true → rising ≠ fallingEdges s.working i →
      (∀ l, x.lastEdge = some l → (now - l).toNat < 20 → exec (.pulseEdge i rising now) s = .next { s with free := now }) ∧
      ((∀ l, x.lastEdge = some l → 20 ≤ (now - l).toNat) →
        ((now - x.start).toNat < x.len → taken { x with lastEdge := some now, win := added x.win }) ∧
        (x.len ≤ (now - x.start).toNat → taken { x with lastEdge := some now, next := added x.next })))) ∧
  (∀ (s : State) (i : Fin 4), s.unitsRun = false → exec (.windowEnd i) s = .next s) ∧
  (∀ (s : State) (i : Fin 4), Memory.wf s.exch = true → s.unitsRun = true →
    let x := s.pulse[i]
    let ends : Word := x.start + BitVec.ofNat 32 x.len
    ∃ (f : Nat) (t : Option Word) (p : Part), exec (.windowEnd i) s = .next { s with toPart := p } ∧
      rawDelivered .pulse i f
        { s.toPart with pulse := s.pulse.set i { x with
            start := ends, len := windowLength s.working i, win := x.next, next := { m := 0, first := 0, last := 0 }, tref := t
            freq := f } } p ∧
      (0 < x.win.m → t = some x.win.last ∧
        (∀ t0, x.tref = some t0 → f = x.win.m * 10 ^ 9 / (x.win.last - t0).toNat) ∧
        (x.tref = none → 2 ≤ x.win.m → f = (x.win.m - 1) * 10 ^ 9 / (x.win.last - x.win.first).toNat) ∧
        (x.tref = none → x.win.m = 1 → f = x.freq)) ∧
      (x.win.m = 0 →
        (x.tref = none → f = 0 ∧ t = none) ∧
        (∀ t0, x.tref = some t0 →
          (zeroTimeout s.working i ≤ (ends - t0).toNat → f = 0 ∧ t = none) ∧
          ((ends - t0).toNat < zeroTimeout s.working i → f = min x.freq (10 ^ 9 / (ends - t0).toNat) ∧ t = some t0))))

/-- R72 to R74, R76: a discrete sample takes each running switch input's first state, or counts its differing samples up to its
debounce count, and delivers each state taken or changed; the ignition line's fifth differing sample in a row is its change. The
pull, applied from the end of INIT in every state, gives an open contact its level. That the switches come first is the model's
choice (log entry 14), as are the change of a switch taken at its word (log entry 4) and the contacts that come with the sample
(log entry 29). -/
def Obligations.DiscreteSamplesAreDebounced : Prop :=
  (∀ (p : Part) (i : Fin 8), (p.ctl.op = .init → p.pull i = none) ∧
    (p.ctl.op ≠ .init → p.pull i = some (pullUp p.working i))) ∧
  (∀ (s : State) (ign : Bool) (pins : Pins) (now : Word), Memory.wf s.exch = true → s.live = true →
    let level (i : Fin 8) : Bool := match pins[i] with
      | some high => high
      | none => pullUp s.working i
    let raw (i : Fin 8) : Bool := level i != lowIsOne s.working i
    let x (i : Fin 8) : Switch := s.sw[i]
    let toldOf (i : Fin 8) : Prop := s.unitsRun = true ∧
      ((x i).taken = false ∨ (raw i ≠ (x i).deb ∧ debounceCount s.working i ≤ (x i).count + 1))
    ∃ q : Part,
      onlyConsumers { s.toPart with free := now, sw := q.sw } q ∧
      (s.unitsRun = false → q.sw = s.sw) ∧
      (∀ i : Fin 8, toldOf i → q.sw[i] = { raw := raw i, deb := raw i, taken := true, count := 0 }) ∧
      (∀ i : Fin 8, s.unitsRun = true → ¬ toldOf i →
        q.sw[i] = { x i with raw := raw i, count := if raw i = (x i).deb then 0 else (x i).count + 1 }) ∧
      (∀ (c : Fin 32) (i : Fin 8), chanNames s.working c .discrete i = true → toldOf i →
        q.chans[c] = sampled s.working c (if raw i then 1 else 0) s.chans[c]) ∧
      (∀ c : Fin 32, (∀ i : Fin 8, chanNames s.working c .discrete i = true → ¬ toldOf i) → q.chans[c] = s.chans[c]) ∧
      (ign = s.ign.on →
        exec (.discreteSample ign pins now) s = .next { s with toPart := { q with ign := { s.ign with count := 0 } } }) ∧
      (ign ≠ s.ign.on → s.ign.count < 4 → exec (.discreteSample ign pins now) s =
        .next { s with toPart := { q with ign := { s.ign with count := s.ign.count + 1 } } }) ∧
      (ign ≠ s.ign.on → 4 ≤ s.ign.count →
        exec (.discreteSample ign pins now) s = exec (if ign then .ignRise now else .ignFall) { s with toPart := q })) ∧
  (∀ (s : State) (i : Fin 8) (state : Bool), Memory.wf s.exch = true →
    (s.unitsRun = true → s.sw[i].taken = true → s.sw[i].deb ≠ state →
      ∃ p, exec (.switchChange i state) s = .next { s with toPart := p } ∧
        rawDelivered .discrete i (if state then 1 else 0)
          { s.toPart with sw := s.sw.set i { raw := state, deb := state, taken := true, count := 0 } } p) ∧
    (s.unitsRun = false ∨ s.sw[i].taken = false ∨ s.sw[i].deb = state → exec (.switchChange i state) s = .next s))

/-! ### Channels -/

/-- R84: a sample whose scaled value is below lo is out of range on the low side, one above hi on the high side, any other is in
range and fits an int32; a scaled value beyond the int32 range is out of range on the side of its sign; with lo equal to hi one
value alone is in range. A sender's code at or beyond its short or its open code is judged before (R64). -/
def Obligations.PlausibilityIsTested : Prop :=
  ∀ (w : Mem) (n : Nat) (raw : Int),
    let r := chanRec w n
    let y := scaleRaw w r raw
    (r.kind = .sender → (r.short : Int) < raw ∧ raw < (r.openCode : Int)) →
    (y < r.lo → judge w r raw = .low) ∧
    (r.lo ≤ y → r.hi < y → judge w r raw = .high) ∧
    (r.lo ≤ y → y ≤ r.hi → judge w r raw = .inRange y ∧ -2 ^ 31 ≤ y ∧ y < 2 ^ 31) ∧
    (y < -2 ^ 31 → judge w r raw = .low) ∧
    (2 ^ 31 ≤ y → judge w r raw = .high) ∧
    (r.lo = r.hi → ∀ z, judge w r raw = .inRange z → z = r.lo)

/-- R64, R81 to R87, R95, R96: a raw sample at a channel. A sender's code is judged first; the value is scaled, in LINEAR mode
or on its curve, which gives the y of a point at its x and the quotient rounded toward zero between two; in range it makes the
channel GOOD and runs the filter, out of range it counts towards LOW or HIGH; the update count rises, the record follows, and a
change to STALE, LOW, HIGH or FAULT sets STALE. Each consumer of the channel is told of the result (R97): its pointers take it
as their last one, and in FOLLOW the target of Table 6-5, the value mapped through the scale while it is trusted (R103, R104);
its lamps are evaluated, and their states follow Table 7-4; the dimming level and the motion detector take it. A SPEED_LOST that
the detector begins or ends is reported to the DRIVETIME lamps (R126, R162), behind the gate channel's own notification, which
is the model's order (log entry 12). A reset's notification reaches the same consumers (R99). -/
def Obligations.SamplesSetTheQuality : Prop :=
  (∀ (p : Part) (c : Fin 32) (raw : Int), Memory.wf p.exch = true →
    let r := chanRec p.working c
    let x := p.chans[c]
    let q := sampleChan raw c p
    let y := scaleRaw p.working r raw
    let short : Prop := r.kind = .sender ∧ raw ≤ (r.short : Int)
    let opened : Prop := r.kind = .sender ∧ (r.openCode : Int) ≤ raw
    let tooLow : Prop := short ∨ ¬ opened ∧ y < r.lo
    let tooHigh : Prop := ¬ short ∧ (opened ∨ r.lo ≤ y ∧ r.hi < y)
    let n := min (x.count + 1) r.persistence
    let kept : Prop := x.quality = .good ∨ x.quality = .held ∨ x.quality = .dip
    onlyConsumers p q ∧
    (∀ d : Fin 32, d ≠ c → q.chans[d] = p.chans[d]) ∧
    (tooLow ∨ tooHigh →
      (n = r.persistence → q.chans[c] =
        { x with count := n, quality := q.chans[c].quality, update := x.update + 1 } ∧
        (tooLow → q.chans[c].quality = .low) ∧ (tooHigh → q.chans[c].quality = .high)) ∧
      (n < r.persistence → q.chans[c] = { x with count := n, quality := q.chans[c].quality, update := x.update + 1 } ∧
        (kept → q.chans[c].quality = .held) ∧ (¬ kept → q.chans[c].quality = x.quality))) ∧
    (¬ tooLow → ¬ tooHigh →
      q.chans[c] = { x with
        quality := .good, count := 0, acc := q.chans[c].acc, value := q.chans[c].acc / 2 ^ r.shift, update := x.update + 1 } ∧
      (kept → q.chans[c].acc = x.acc - x.acc / 2 ^ r.shift + y) ∧
      (¬ kept → q.chans[c].acc = y * 2 ^ r.shift)) ∧
    (x.quality ≠ q.chans[c].quality → q.chans[c].quality = .low ∨ q.chans[c].quality = .high → noticeOn q.mem .stale = true) ∧
    (let lost : Prop := p.acct.warnings.getLsbD 5 ≠ q.acct.warnings.getLsbD 5 ∧ p.ctl.restart = none
     (∀ k, q.lampU.warn.getLsbD k = p.lampU.warn.getLsbD k ∨ k = 5 ∧ lost) ∧
     (lost → q.lampU.warn.getLsbD 5 = q.acct.warnings.getLsbD 5) ∧
     ∀ i : Fin 32,
      let d := lampRec p.working i
      let l := p.lamps[i]
      let told : Prop := d.gate = some c.val ∧ conditionFrozen p i = false
      (d.kind ≠ .drivetime → q.lamps[i].state = lampStateAfter d l q.lamps[i].cond) ∧
      (d.kind = .drivetime →
        let warned : Prop := lost ∧ d.selector = 5 ∧ conditionFrozen p i = false
        (told ∨ warned → q.lamps[i].cond = (q.lampU.warn.getLsbD d.selector && gateOpen q i)) ∧
        (¬ told → ¬ warned → q.lamps[i].cond = l.cond) ∧
        (¬ told → q.lamps[i].state = lampStateAfter d l q.lamps[i].cond) ∧
        (told →
          let first : Bool := p.lampU.warn.getLsbD d.selector && gateOpen q i
          q.lamps[i].state = lampStateAfter d { l with state := lampStateAfter d l first, cond := first } q.lamps[i].cond)))) ∧
  (∀ (p : Part) (c : Fin 32),
    let q := resetChan c p
    let heard := notifyMotion c { quality := .unset, value := 0 } true p
    q.chans[c] = { quality := .unset, value := 0, acc := 0, count := 0, age := 0, update := 0 } ∧
    (∀ d : Fin 32, d ≠ c → q.chans[d] = p.chans[d]) ∧
    pointersTold (· = c) p q ∧ lampsTold (· = c) p q ∧ dimmingTold (· = c) p q ∧ q.acct = heard.acct) ∧
  (∀ (r : PtrRec) (x : Ptr),
    let trusted : Prop := x.last.quality = .good ∨ x.last.quality = .held
    (trusted → followTarget r x = (interp r.scale x.last.value).toNat) ∧
    (x.last.quality = .dip → followTarget r x = x.pos) ∧
    (¬ trusted → x.last.quality ≠ .dip → followTarget r x = if r.hold = true then x.target else 0)) ∧
  (∀ (w : Mem) (r : ChanRec) (raw : Int), r.curve = none ∨ r.kind = .account →
    scaleRaw w r raw = (raw * r.mul).tdiv r.div + r.offset) ∧
  (∀ (w : Mem) (r : ChanRec) (k : Nat) (raw : Int), r.curve = some k → r.kind ≠ .account →
    scaleRaw w r raw = interp (curvePoints w k) raw) ∧
  (∀ (pts : List (Int × Int)) (v : Int), strictlyAscending (pts.map (·.1)) = true →
    (∀ a ∈ pts.head?, v < a.1 → interp pts v = a.2) ∧
    (∀ a ∈ pts.getLast?, a.1 ≤ v → interp pts v = a.2) ∧
    (∀ k a b, pts[k]? = some a → pts[k + 1]? = some b → a.1 ≤ v → v < b.1 →
      interp pts v = a.2 + ((v - a.1) * (b.2 - a.2)).tdiv (b.1 - a.1)))

/-- R15, R17, R22, R88, R89: a scan that takes no request, because it meets no POSTED slot or because the halt stands, which
does not stop inbox intake. A periodic one ages the INBOX channels, and one older than its limit becomes STALE; then each inbox
slot with a new sequence byte is seen, and, if its check holds, delivered to the channels that name it by its flag; a failed
check sets CHECK, and leaves the check record of R14: filled by the first one if CHECK was clear, with the number of the further
ones as its count, else with its count raised by their number. -/
def Obligations.InboxValuesAndAges : Prop :=
  ∀ (s : State) (sc : PendingScan), Memory.wf s.exch = true → s.live = true → s.req.pendingScan = some sc →
    s.req.restartSlots = [] →
    ((s.req.halt = true ∧ noticeOn s.mem .check = true) ∨
      ∀ i : Fin 8, s.req.holds[i].isSome ∨ memRead s.mem (0xC0 + 32 * i.val) ≠ 1) →
    let slot (k : Fin 16) : List Byte := memReadN s.mem (0x40 + 8 * k.val) 8
    let isNew (k : Fin 16) : Prop := byteAt (slot k) 0 ≠ s.req.seen[k]
    let r (c : Fin 32) : ChanRec := chanRec s.working c
    let a (c : Fin 32) : Nat := min 65535 (s.chans[c].age + sc.time)
    let ages (c : Fin 32) : Prop := sc.periodic = true ∧ s.channelsTake = true ∧ (r c).kind = .inbox
    let old (c : Fin 32) : Prop := (r c).ageLimit * 100 < a c ∧
      (s.chans[c].quality = .good ∨ s.chans[c].quality = .held ∨ s.chans[c].quality = .low ∨ s.chans[c].quality = .high)
    ∃ t, exec .exchangeScan s = .next t ∧ t.pending = s.pending ∧
      onlyConsumers { s.toPart with
        req := { s.req with pendingScan := none, halt := s.req.halt && noticeOn s.mem .check, seen := t.req.seen } } t.toPart ∧
      memReadN t.mem 0x0C 2 = leBytes 2 ((readNat s.mem 0x0C 2 + 1) % 65536) ∧
      (∀ k : Fin 16, t.req.seen[k] = byteAt (slot k) 0) ∧
      (∀ k : Fin 16, isNew k → xorBytes (slot k) ≠ 0 → noticeOn t.mem .check = true) ∧
      (let failed : List (Fin 16) := (List.finRange 16).filter fun k => byteAt (slot k) 0 != s.req.seen[k] && xorBytes (slot k) != 0
       (failed = [] → memReadN t.mem 0x1C0 16 = memReadN s.mem 0x1C0 16) ∧
       (∀ k rest, failed = k :: rest → noticeOn s.mem .check = false → memReadN t.mem 0x1C0 16 =
         [1, BitVec.ofNat 8 k.val] ++ memReadN t.mem 0x0C 2 ++ slot k ++ [BitVec.ofNat 8 rest.length, 0, 0, 0]) ∧
       (noticeOn s.mem .check = true → memReadN t.mem 0x1C0 12 = memReadN s.mem 0x1C0 12 ∧
         memRead t.mem 0x1CC = BitVec.ofNat 8 (min 255 ((memRead s.mem 0x1CC).toNat + failed.length)))) ∧
      ∀ c : Fin 32, ∃ x : Chan,
        (¬ ages c → x = s.chans[c]) ∧
        (ages c → old c →
          x = { s.chans[c] with age := a c, quality := .stale, count := 0, update := s.chans[c].update + 1 }) ∧
        (ages c → ¬ old c → x = { s.chans[c] with age := a c }) ∧
        ((∀ k : Fin 16, (r c).kind = .inbox → (r c).index = k.val → isNew k → xorBytes (slot k) = 0 → s.channelsTake = false) →
          t.chans[c] = x) ∧
        (∀ k : Fin 16, (r c).kind = .inbox → (r c).index = k.val → isNew k → xorBytes (slot k) = 0 → s.channelsTake = true →
          (byteAt (slot k) 1 = 1 →
            t.chans[c] = { sampled s.working c (leInt32 (((slot k).drop 2).take 4)) x with age := 0 }) ∧
          (byteAt (slot k) 1 = 2 →
            t.chans[c] = { x with quality := .stale, count := 0, age := 0, update := x.update + 1 }) ∧
          (byteAt (slot k) 1 ≠ 1 → byteAt (slot k) 1 ≠ 2 →
            t.chans[c] = { x with quality := .fault, count := 0, age := 0, update := x.update + 1 }))

/-! ### Pointers -/

/-- R105, R107: the motion law. At its target a pointer stops; else it steps towards it by |e| / 2^m, at least one, at most
Smax, at most one more than its last step in that direction, and one from rest or at a reversal; so it never passes its target.
The coil duties are those of Table 6-7, and six phases on B's duty moves to A and A's, negated, to B. -/
def Obligations.MotionLawAndCoilDuties : Prop :=
  (∀ (pos target : Nat) (v : Int) (m smax : Nat), 1 ≤ smax →
    let e : Int := target - pos
    let next := motionLaw pos target v m smax
    let q := min (max (e.natAbs / 2 ^ m) 1) smax
    let onward : Prop := (0 < v ∧ 0 < e) ∨ (v < 0 ∧ e < 0)
    (e = 0 → next = (pos, 0)) ∧
    (e ≠ 0 →
      (next.1 : Int) = pos + next.2 ∧ next.2.sign = e.sign ∧
      (onward → next.2.natAbs = min q (v.natAbs + 1)) ∧ (¬ onward → next.2.natAbs = 1)) ∧
    next.2.natAbs ≤ smax ∧ min pos target ≤ next.1 ∧ next.1 ≤ max pos target) ∧
  ((List.range 7).map dutyOf = [{ a := 0, b := 100 }, { a := 26, b := 97 }, { a := 50, b := 87 }, { a := 71, b := 71 },
    { a := 87, b := 50 }, { a := 97, b := 26 }, { a := 100, b := 0 }]) ∧
  (∀ k, dutyOf (k + 6) = { a := (dutyOf k).b, b := -(dutyOf k).a }) ∧ ∀ k, dutyOf (k + 24) = dutyOf k

/-- R40, R42, R43, R105, R106, R107, R111 to R117: a motion tick outside a dip takes one homing step of a homing pointer, moves
each used pointer in SWEEP, FOLLOW or RETURN by the motion law and lets its coils take the phase of its position, and turns a
sweep at full travel back. A homing's last step ends it: in RUN it follows, in STARTING it waits for its sweep or follows, in
PARKING it returns, and the HOME_POINTER requests left with no pointer are answered OK; the last one in STARTING begins the
START cycle. A sweep that has come back follows, and the last of them ends a cycle whose timer has expired. In PARKING the tick
that finds every used pointer at rest at 0 enters PARK. No tick moves a pointer in a dip. That all pointers move before any is
judged is the model's choice (log entry 15). -/
def Obligations.MotionTicksMoveThePointers : Prop :=
  (∀ s : State, s.live = true → s.inDip = true → s.ctl.op ≠ .parking → exec .motionTick s = .next s) ∧
  (∀ s : State, s.live = true → s.inDip = true → s.ctl.op = .parking → exec .motionTick s = exec .parkEntry s) ∧
  (∀ s : State, s.live = false → exec .motionTick s = .next s) ∧
  ∀ s : State, Memory.wf s.exch = true → s.live = true → s.inDip = false → (∀ q ∈ s.homeReqs, q.left ≠ []) →
    let law (i : Fin 6) : Nat × Int :=
      motionLaw s.ptrs[i].pos s.ptrs[i].target s.ptrs[i].speed (ptrRec s.working i).shift (ptrRec s.working i).smax
    let used (i : Fin 6) : Prop := ptrUsed s.working i = true
    let homes (i : Fin 6) : Prop := used i ∧ s.ptrs[i].state = .homing ∧ 1 < s.ptrs[i].stepsLeft
    let ended (i : Fin 6) : Bool := ptrUsed s.working i && s.ptrs[i].state == .homing && decide (s.ptrs[i].stepsLeft ≤ 1)
    let returned (i : Fin 6) : Prop := used i ∧ s.ptrs[i].state = .sweep ∧ s.ptrs[i].sweep = .back ∧ s.ptrs[i].target = 0 ∧
      law i = (0, 0)
    let moved (i : Fin 6) (y : Ptr) : Prop :=
      let x := s.ptrs[i]
      let r := ptrRec s.working i
      let turns : Prop := x.state = .sweep ∧ x.sweep = .out ∧ x.target = r.travel ∧ law i = (r.travel, 0)
      (¬ used i ∨ x.state = .released ∨ x.state = .homeNeeded → y = x) ∧
      (homes i → y = { x with
        phase := (x.phase + 23) % 24, pending := dutyOf ((x.phase + 23) % 24), speed := -1, stepsLeft := x.stepsLeft - 1 }) ∧
      (ended i → y = homed s.toPart i) ∧
      (returned i → y = { x with
        state := .follow, pos := 0, speed := 0, phase := 0, pending := { a := 0, b := 100 }
        target := followTarget r { x with pos := 0, target := 0 } }) ∧
      (used i → x.state = .sweep ∨ x.state = .follow ∨ x.state = .return → ¬ returned i →
        y = { x with
          pos := (law i).1, speed := (law i).2, sweep := y.sweep, target := y.target
          phase := if (law i).1 = x.pos then x.phase else (law i).1 % 24
          pending := if (law i).1 = x.pos then x.pending else dutyOf ((law i).1 % 24) } ∧
        (turns → y.sweep = .back ∧ y.target = 0) ∧ (¬ turns → y.sweep = x.sweep ∧ y.target = x.target))
    let shown : Nat → Prop := fun k => inRecord 0x500 0x60 k ∨ (s.homeReqs ≠ [] ∧ (noticeByte k ∨ slotByte k))
    let begins : Prop := s.ctl.op = .starting ∧ s.ctl.proving = none ∧ (∃ i, ended i) ∧ ∀ i, ¬ homes i
    (s.ctl.op ≠ .parking → ¬ begins → s.ctl.proving = none ∨ (∀ i, ¬ returned i) → ∃ t, exec .motionTick s = .next t ∧
      t = { s with exch := t.exch, arb := t.arb, ptrs := t.ptrs, homeReqs := t.homeReqs, req := { s.req with holds := t.req.holds } } ∧
      (∀ i : Fin 6, moved i t.ptrs[i]) ∧ homingsReported ended s.toPart t.toPart ∧ agreeOutside shown s.mem t.mem) ∧
    (begins → (∀ i, ¬ returned i) → (∀ i, used i → 1 ≤ (ptrRec s.working i).travel) → ∃ t, exec .motionTick s = .next t ∧
      t = { s with
        exch := t.exch, arb := t.arb, ptrs := t.ptrs, lamps := t.lamps, chime := t.chime, panel := { s.panel with stack := t.panel.stack }
        ctl := { s.ctl with proving := t.ctl.proving }, homeReqs := t.homeReqs, req := { s.req with holds := t.req.holds } } ∧
      startCycleBegun s.toPart t.toPart ∧ homingsReported ended s.toPart t.toPart ∧
      (∀ i, ¬ used i ∨ (ptrRec s.working i).sweep = false → moved i t.ptrs[i]) ∧
      agreeOutside (fun k => partByte k ∨ slotByte k) s.mem t.mem) ∧
    (∀ c : Proving, s.ctl.op = .starting → s.ctl.proving = some c → c.kind = .start → (∀ i, ¬ ended i) → (∃ i, returned i) →
      ∃ t, exec .motionTick s = .next t ∧ (∀ i : Fin 6, moved i t.ptrs[i]) ∧
      ∃ l : List (Fin 6), (∀ i, i ∈ l ↔ i ∈ c.sweeps ∧ ¬ returned i) ∧
      (c.timer.isSome ∨ l ≠ [] → t = { s with
        exch := t.exch, arb := t.arb, ptrs := t.ptrs, ctl := { s.ctl with proving := some { c with sweeps := l } } } ∧
        agreeOutside (inRecord 0x500 0x60) s.mem t.mem) ∧
      (c.timer = none → l = [] → t = { s with
        exch := t.exch, arb := t.arb, ptrs := t.ptrs, lamps := t.lamps, chime := t.chime, panel := t.panel
        ctl := { s.ctl with op := .run, proving := none }, req := { s.req with scanTimer := some (scanPeriodOf s.working) } } ∧
        noticeOn t.mem .state = true ∧ (∀ i : Fin 32, t.lamps[i].mode = composedMode t.toPart i) ∧
        agreeOutside partByte s.mem t.mem)) ∧
    (s.ctl.op = .parking → (∀ i, used i → s.ptrs[i].state ≠ .sweep) → ∃ t, exec .motionTick s = .next t ∧
      homingsReported ended s.toPart t.toPart ∧
      ∃ y : Fin 6 → Ptr, (∀ i : Fin 6, moved i (y i)) ∧
        let rests : Prop := ∀ i : Fin 6, used i → (y i).pos = 0 ∧ (y i).speed = 0 ∧ ¬ homes i
        (¬ rests → (∀ i : Fin 6, t.ptrs[i] = y i) ∧
          t = { s with exch := t.exch, arb := t.arb, ptrs := t.ptrs, homeReqs := t.homeReqs, req := { s.req with holds := t.req.holds } } ∧
          agreeOutside shown s.mem t.mem) ∧
        (rests → (∀ i : Fin 6, t.ptrs[i] = if ptrUsed s.working i then parked (y i) else y i) ∧ parkEntered s.toPart t.toPart))

/-- R40, R42, R109, R111 to R114, R116: a homing ends, as an event of its own, which is the model's choice (log entry 4): the
position is known, and the pointer waits for its sweep or follows in STARTING, returns in PARKING, and follows in every other
state, UNCONFIGURED and PARK included, which R112 does not list and which is the model's choice (log entry 28). The HOME_POINTER
requests left with no pointer are answered OK. The last homing in STARTING begins the START proving cycle, with the sweeps of
every used pointer flagged. The last homing in PARKING, with every other used pointer at rest at 0, enters PARK. -/
def Obligations.HomingsEnd : Prop :=
  (∀ (s : State) (i : Fin 6), s.live = false ∨ ptrUsed s.working i = false ∨ s.ptrs[i].state ≠ .homing ∨ s.inDip = true →
    exec (.homingEnd i) s = .next s) ∧
  ∀ (s : State) (i : Fin 6), Memory.wf s.exch = true → s.live = true → s.inDip = false → ptrUsed s.working i = true →
    s.ptrs[i].state = .homing →
    let othersHoming : Prop := ∃ j : Fin 6, j ≠ i ∧ ptrUsed s.working j = true ∧ s.ptrs[j].state = .homing
    let begins : Prop := s.ctl.op = .starting ∧ ¬ othersHoming ∧ s.ctl.proving = none
    let rests : Prop := s.ctl.op = .parking ∧ ∀ j : Fin 6, j ≠ i → ptrUsed s.working j = true →
      s.ptrs[j].pos = 0 ∧ s.ptrs[j].speed = 0 ∧ s.ptrs[j].state ≠ .homing
    ∃ t, exec (.homingEnd i) s = .next t ∧ homingsReported (· == i) s.toPart t.toPart ∧
      (¬ begins → ¬ rests →
        t = { s with
          exch := t.exch, arb := t.arb, ptrs := s.ptrs.set i (homed s.toPart i), homeReqs := t.homeReqs
          req := { s.req with holds := t.req.holds } } ∧
        agreeOutside (fun k => inRecord (0x500 + 16 * i.val) 16 k ∨ (s.homeReqs ≠ [] ∧ (noticeByte k ∨ slotByte k))) s.mem t.mem) ∧
      (begins →
        t = { s with
          exch := t.exch, arb := t.arb, ptrs := t.ptrs, lamps := t.lamps, chime := t.chime, panel := { s.panel with stack := t.panel.stack }
          ctl := { s.ctl with proving := t.ctl.proving }, homeReqs := t.homeReqs, req := { s.req with holds := t.req.holds } } ∧
        startCycleBegun s.toPart t.toPart ∧
        ((ptrRec s.working i).sweep = false → t.ptrs[i] = homed s.toPart i) ∧
        (∀ j : Fin 6, j ≠ i → ptrUsed s.working j = false ∨ (ptrRec s.working j).sweep = false → t.ptrs[j] = s.ptrs[j]) ∧
        agreeOutside (fun k => partByte k ∨ slotByte k) s.mem t.mem) ∧
      (rests → parkEntered s.toPart t.toPart ∧ t.ptrs[i] = parked (homed s.toPart i) ∧
        ∀ j : Fin 6, j ≠ i → t.ptrs[j] = if ptrUsed s.working j then parked s.ptrs[j] else s.ptrs[j])

/-- R108, R117, R133 to R137: a lamp forced by a proving cycle has the output mode STEADY, an eligible one the mode that its
state gives, and any other UNLIT; at their period boundaries the pending duties of coils and lamps become active, unless a dip
holds them, which holds those of every pointer that is not RELEASED, as is deduced from R108, R116 and R117 (log entry 30); a
flash generator's phase change reaches the lamps that follow it: a lit one has the duty of the dimming level, with the red
floor, and an unlit one 0. -/
def Obligations.PeriodBoundariesApplyTheDuties : Prop :=
  (∀ (p : Part) (i : Fin 32),
    let r := lampRec p.working i
    let driven : Prop := lampUsed p.working i = true ∧ r.drive = true ∧ p.lamps[i].diag ≠ .short
    let forced : Prop := driven ∧ r.prove = true ∧ p.ctl.proving.isSome
    let eligible : Prop := driven ∧ p.ctl.restart = none ∧
      (p.ctl.op = .run ∨ (p.ctl.op = .parking ∨ p.ctl.op = .park) ∧ r.park = true)
    (forced → composedMode p i = .steady) ∧
    (¬ forced → eligible → composedMode p i = match p.lamps[i].state with
      | .on => r.pattern
      | .acked => .steady
      | .latched => .slow
      | .off => .unlit
      | .pending => .unlit) ∧
    (¬ forced → ¬ eligible → composedMode p i = .unlit)) ∧
  (∀ s : State, ∃ t, exec .coilPeriodBoundary s = .next t ∧ t = { s with ptrs := t.ptrs } ∧
    ∀ i : Fin 6,
      (s.inDip = false ∨ s.ptrs[i].state = .released → t.ptrs[i] = { s.ptrs[i] with active := s.ptrs[i].pending }) ∧
      (s.inDip = true → s.ptrs[i].state ≠ .released → t.ptrs[i] = s.ptrs[i])) ∧
  (∀ s : State, s.inDip = true → exec .lampPeriodBoundary s = .next s) ∧
  (∀ s : State, s.inDip = false → ∃ t, exec .lampPeriodBoundary s = .next t ∧ t = { s with lamps := t.lamps } ∧
    ∀ i : Fin 32, t.lamps[i] = { s.lamps[i] with active := s.lamps[i].pending }) ∧
  (∀ (s : State) (fast : Bool), s.live = false → exec (.flashPhaseChange fast) s = .next s) ∧
  (∀ (s : State) (fast : Bool), s.live = true → ∃ t, exec (.flashPhaseChange fast) s = .next t ∧
    t = { s with lamps := t.lamps, lampU := t.lampU } ∧
    t.lampU = (if fast then { s.lampU with fastLit := !s.lampU.fastLit } else { s.lampU with slowLit := !s.lampU.slowLit }) ∧
    ∀ i : Fin 32,
      let follows : Prop := s.inDip = false ∧ s.lamps[i].mode = if fast then .fast else .slow
      let lit := if fast then !s.lampU.fastLit else !s.lampU.slowLit
      let trusted : Prop := (dimmingChannel s.working).isSome ∧ (s.lampU.dim.quality = .good ∨ s.lampU.dim.quality = .held)
      (¬ follows → t.lamps[i] = s.lamps[i]) ∧
      (follows → lit = false → t.lamps[i] = { s.lamps[i] with lit := false, pending := 0 }) ∧
      (follows → lit = true → ∃ level : Nat, level ≤ 15 ∧
        (trusted → (level : Int) = max 0 (min 15 s.lampU.dim.value)) ∧ (¬ trusted → level = 15) ∧
        t.lamps[i] = { s.lamps[i] with
          lit := true, pending := (if (lampRec s.working i).cls = .red then max level 8 else level) + 1 }))

/-! ### Lamps -/

/-- R124: the condition of an INVALID lamp is true while its channel's last notified quality is STALE, LOW, HIGH or FAULT and
false while it is UNSET, GOOD, HELD or DIP; that of a SWITCH lamp while it is GOOD or HELD with a value that is not 0, and false
in every other case; both combined with the gate. The thresholds have no part in it. -/
def Obligations.InvalidAndSwitchConditions : Prop :=
  ∀ (p : Part) (i : Fin 32), lampUsed p.working i = true → conditionFrozen p i = false →
    let x := p.lamps[i].chanLast
    let q := evalLamp i p
    ((lampRec p.working i).kind = .invalid →
      (q.lamps[i].cond = true ↔
        (x.quality = .stale ∨ x.quality = .low ∨ x.quality = .high ∨ x.quality = .fault) ∧ gateOpen p i = true)) ∧
    ((lampRec p.working i).kind = .switch →
      (q.lamps[i].cond = true ↔
        (x.quality = .good ∨ x.quality = .held) ∧ x.value ≠ 0 ∧ gateOpen p i = true))

/-- R122, R123, R125 to R128: the evaluation of the other kinds: the hysteresis of ABOVE and BELOW, the requested truth, the
warning selected, and the faults of the prove lamps, each combined with the gate, which leaves the hysteresis alone. While
conditions are frozen, those of park lamps of kind REQUEST, DRIVETIME and LAMPFAULT alone are not. A frozen condition and an
unused lamp are left as they are, and no evaluation changes another lamp's condition. -/
def Obligations.ConditionsFollowTheirKinds : Prop :=
  ∀ (p : Part) (i : Fin 32),
    let r := lampRec p.working i
    let x := p.lamps[i].chanLast
    let g := p.lamps[i].gateLast
    let q := evalLamp i p
    let trusted (y : Result) : Prop := y.quality = .good ∨ y.quality = .held
    let gate : Prop := r.gate = none ∨ (trusted g ∧ r.gateAt ≤ g.value)
    (conditionFrozen p i = true ↔ p.lampU.frozen = true ∧
      ¬ (r.park = true ∧ (r.kind = .request ∨ r.kind = .drivetime ∨ r.kind = .lampfault))) ∧
    (lampUsed p.working i = false ∨ conditionFrozen p i = true → q = p) ∧
    (∀ j : Fin 32, j ≠ i → q.lamps[j].cond = p.lamps[j].cond ∧ q.lamps[j].state = p.lamps[j].state) ∧
    (lampUsed p.working i = true → conditionFrozen p i = false →
      (r.kind = .above → trusted x →
        (r.onAt ≤ x.value → q.lamps[i].hyst = true) ∧
        (x.value < r.onAt → x.value ≤ r.offAt → q.lamps[i].hyst = false) ∧
        (x.value < r.onAt → r.offAt < x.value → q.lamps[i].hyst = p.lamps[i].hyst)) ∧
      (r.kind = .below → trusted x →
        (x.value ≤ r.onAt → q.lamps[i].hyst = true) ∧
        (r.onAt < x.value → r.offAt ≤ x.value → q.lamps[i].hyst = false) ∧
        (r.onAt < x.value → x.value < r.offAt → q.lamps[i].hyst = p.lamps[i].hyst)) ∧
      (r.kind = .above ∨ r.kind = .below →
        (x.quality = .dip → q.lamps[i].hyst = p.lamps[i].hyst) ∧
        (¬ trusted x → x.quality ≠ .dip → q.lamps[i].hyst = false) ∧
        (q.lamps[i].cond = true ↔ q.lamps[i].hyst = true ∧ gate)) ∧
      (r.kind = .request → (q.lamps[i].cond = true ↔ p.lamps[i].requested = true ∧ gate)) ∧
      (r.kind = .drivetime → (q.lamps[i].cond = true ↔ p.lampU.warn.getLsbD r.selector = true ∧ gate)) ∧
      (r.kind = .lampfault → (q.lamps[i].cond = true ↔
        (∃ j : Fin 32, lampUsed p.working j = true ∧ (lampRec p.working j).prove = true ∧
          (p.lamps[j].diag = .open ∨ p.lamps[j].diag = .short)) ∧ gate)))

/-- R129 to R132: Table 7-4, event by event, and the on-delay expiry as a command: the lamp enters ON, its output mode is
composed, its demand is made: an AMBER one is owed, and a RED one starts its tone unless a REPEAT tone or the pause after one
holds it back. An event that the table does not list changes nothing. The message of a lamp whose record names a text is
admitted at entry to ON, after the last entry of its class, in the place of a last entry of a lower class, or as WAITING; at
ACKED and OFF it leaves, and the WAITING message of the highest class, and of the lowest index within it, is admitted (R181,
R182). That the chime takes a demand inside the event that makes it is deduced from R132 and R142 (log entry 22). -/
def Obligations.LampStatesMove : Prop :=
  (∀ (p : Part) (i : Fin 32) (truth : Bool),
    let r := lampRec p.working i
    let st := p.lamps[i].state
    let q := conditionEvent i truth p
    let k := acknowledge i p
    (∀ j : Fin 32, j ≠ i → q.lamps[j].state = p.lamps[j].state ∧ k.lamps[j].state = p.lamps[j].state) ∧
    (st = .off → truth = true → 0 < r.onDelay → q.lamps[i].state = .pending ∧ q.lamps[i].onDelay = some (r.onDelay * 100000)) ∧
    (st = .off → truth = true → r.onDelay = 0 → q.lamps[i].state = .on) ∧
    (st = .pending → truth = false → q.lamps[i].state = .off ∧ q.lamps[i].onDelay = none) ∧
    (st = .on → truth = false → q.lamps[i].state = if r.latch then .latched else .off) ∧
    (st = .acked → truth = false → q.lamps[i].state = .off) ∧
    (st = .latched → truth = true → q.lamps[i].state = .on) ∧
    (st = .on → k.lamps[i].state = .acked) ∧
    (st = .latched → k.lamps[i].state = .off) ∧
    ((st = .off ∧ truth = false) ∨ (st = .pending ∧ truth = true) ∨ (st = .on ∧ truth = true) ∨ (st = .acked ∧ truth = true) ∨
      (st = .latched ∧ truth = false) → q = p) ∧
    (st = .off ∨ st = .pending ∨ st = .acked → k = p) ∧
    (st = .on → truth = false → q.lamps[i].owed = false ∧ k.lamps[i].owed = false) ∧
    ((st = .off ∨ st = .latched) ∧ truth = true ∨ (st = .pending ∨ st = .on ∨ st = .acked) ∧ truth = false →
      q = lampChange i q.lamps[i].state p) ∧
    (st = .on ∨ st = .latched → k = lampChange i k.lamps[i].state p)) ∧
  (∀ (p : Part) (i : Fin 32) (after : LampState),
    let q := lampChange i after p
    q.lamps[i].state = after ∧
    ((lampRec p.working i).text.isSome → messageFollows i p.lamps[i].state after p q) ∧
    ((lampRec p.working i).text = none → messageBecomes i p.lamps[i].msg p q)) ∧
  (∀ (s : State) (i : Fin 32), s.live = false ∨ s.lamps[i].state ≠ .pending ∨ s.lamps[i].onDelay = none →
    exec (.onDelayExpiry i) s = .next s) ∧
  ∀ (s : State) (i : Fin 32), Memory.wf s.exch = true → s.live = true → lampUsed s.working i = true → s.lamps[i].state = .pending →
    s.lamps[i].onDelay.isSome →
    let r := lampRec s.working i
    ∃ t, exec (.onDelayExpiry i) s = .next t ∧ t = { s with toPart := lampChange i .on s.toPart } ∧
      t = { s with exch := t.exch, arb := t.arb, lamps := t.lamps, chime := t.chime, panel := { s.panel with stack := t.panel.stack } } ∧
      t.lamps[i].state = .on ∧ t.lamps[i].onDelay = none ∧ t.lamps[i].mode = composedMode t.toPart i ∧
      (∀ j : Fin 32, j ≠ i → t.lamps[j].state = s.lamps[j].state ∧ t.lamps[j].cond = s.lamps[j].cond) ∧
      (r.cls = .amber → r.chime = true → t.lamps[i].owed = true) ∧
      (r.cls = .red → r.chime = true → s.chime.deferred = false → s.chime.phase = .idle ∨ s.chime.lastRepeat = false →
        t.chime.phase = .tone 300000 ∧ t.chime.lastRepeat = true) ∧
      (s.chime.deferred = true ∨ r.chime = false ∨ r.cls = .info → t.chime = s.chime) ∧
      agreeOutside partByte s.mem t.mem

/-- R138 to R140: a sense check, and an overcurrent. A lit output that draws too little counts towards OPEN, one that does not
is OK again; a SHORT switches the output off at once; a new OPEN or SHORT sets LAMPFAULT. Where a diagnosis changes, the
condition of every LAMPFAULT lamp, unless frozen, stands as the diagnoses give it (R126). The readings of the LAMPFAULT lamps
themselves are left aside in the check, since their own outputs may change with the diagnoses. That an output counts as lit from
its composition on is the model's choice (log entry 39). -/
def Obligations.DiagnosesFollowTheCurrent : Prop :=
  (∀ (s : State) (low : BitVec 32), s.live = false ∨ s.inDip = true → exec (.senseCheck low) s = .next s) ∧
  (∀ (s : State) (low : BitVec 32), Memory.wf s.exch = true → s.live = true → s.inDip = false →
    ∃ t, exec (.senseCheck low) s = .next t ∧
    t = { s with exch := t.exch, arb := t.arb, lamps := t.lamps, chime := t.chime, panel := { s.panel with stack := t.panel.stack } } ∧
    agreeOutside partByte s.mem t.mem ∧
    ∀ i : Fin 32,
      (s.lamps[i].lit = false → t.lamps[i].diag = s.lamps[i].diag) ∧
      ((lampRec s.working i).kind ≠ .lampfault → s.lamps[i].mode = composedMode s.toPart i → s.lamps[i].diag ≠ .short →
        (s.lamps[i].lit = false → t.lamps[i].sense = s.lamps[i].sense ∧ t.lamps[i].lowCount = s.lamps[i].lowCount) ∧
        (s.lamps[i].lit = true → low.getLsbD i = true →
          t.lamps[i].sense = .low ∧ t.lamps[i].lowCount = min 3 (s.lamps[i].lowCount + 1) ∧
          (2 ≤ s.lamps[i].lowCount → t.lamps[i].diag = .open ∧ (s.lamps[i].diag ≠ .open → noticeOn t.mem .lampfault = true)) ∧
          (s.lamps[i].lowCount < 2 → t.lamps[i].diag = s.lamps[i].diag)) ∧
        (s.lamps[i].lit = true → low.getLsbD i = false →
          t.lamps[i].sense = .normal ∧ t.lamps[i].lowCount = 0 ∧ t.lamps[i].diag = .ok)) ∧
      (let follows : Prop := (lampRec s.working i).kind = .lampfault ∧ conditionFrozen s.toPart i = false ∧
         ∃ j : Fin 32, t.lamps[j].diag ≠ s.lamps[j].diag
       (follows → conditionStands t.toPart i) ∧ (¬ follows → t.lamps[i].cond = s.lamps[i].cond))) ∧
  (∀ (s : State) (i : Fin 32), s.live = false ∨ s.lamps[i].lit = false → exec (.overcurrent i) s = .next s) ∧
  (∀ (s : State) (i : Fin 32), Memory.wf s.exch = true → s.live = true → s.lamps[i].lit = true → s.lamps[i].diag ≠ .short →
    ∃ t, exec (.overcurrent i) s = .next t ∧
    t = { s with exch := t.exch, arb := t.arb, lamps := t.lamps, chime := t.chime, panel := { s.panel with stack := t.panel.stack } } ∧
    t.lamps[i].diag = .short ∧ t.lamps[i].sense = .over ∧ t.lamps[i].lowCount = s.lamps[i].lowCount ∧
    t.lamps[i].lit = false ∧ t.lamps[i].active = 0 ∧ t.lamps[i].pending = 0 ∧ t.lamps[i].mode = .unlit ∧
    (∀ j : Fin 32, j ≠ i → t.lamps[j].diag = s.lamps[j].diag) ∧
    (∀ j : Fin 32, let follows : Prop := (lampRec s.working j).kind = .lampfault ∧ conditionFrozen s.toPart j = false
      (follows → conditionStands t.toPart j) ∧ (¬ follows → t.lamps[j].cond = s.lamps[j].cond) ∧
      t.lamps[j].state = lampStateAfter (lampRec s.working j) s.lamps[j] t.lamps[j].cond) ∧
    noticeOn t.mem .lampfault = true ∧ agreeOutside partByte s.mem t.mem)

/-- R141, R142: the end of a tone satisfies the demands it served, and a GAP follows; at the end of a GAP a REPEAT tone starts
if some lamp has a REPEAT demand, a ONCE tone if some lamp is owed one, and else the arbiter is IDLE. A lamp that leaves ON
withdraws its demands, and a tone with none left stops for a GAP. While demands are served, a lamp that enters ON with a REPEAT
demand cuts a ONCE tone short, whose served demands are satisfied, and ends the GAP after one; a demand that finds the arbiter
IDLE starts a tone; a REPEAT tone, the GAP after it, and a ONCE demand beside any tone or GAP, run on. That an end is taken
while its phase runs and changes nothing else is the model's choice (log entry 4); that the arbiter takes a change of demand
inside the event that makes it is deduced from R132 and R142 (log entry 22). -/
def Obligations.ChimePhasesEnd : Prop :=
  (∀ (s : State) (n : Nat), s.chime.phase = .tone n → ∃ t, exec .chimeToneEnd s = .next t ∧
    t = { s with lamps := t.lamps, chime := { s.chime with phase := .gap 700000, served := [] } } ∧
    ∀ i : Fin 32, t.lamps[i] = { s.lamps[i] with owed := s.lamps[i].owed && !decide (i ∈ s.chime.served) }) ∧
  (∀ s : State, (∀ n, s.chime.phase ≠ .tone n) → exec .chimeToneEnd s = .next s) ∧
  (∀ (s : State) (n : Nat), s.chime.phase = .gap n →
    let red : Prop := ∃ i : Fin 32, lampUsed s.working i = true ∧ (lampRec s.working i).cls = .red ∧
      (lampRec s.working i).chime = true ∧ s.lamps[i].state = .on
    let owed : Prop := ∃ i : Fin 32, s.lamps[i].owed = true
    (¬ red → ¬ owed → exec .chimeGapEnd s = .next { s with chime := { s.chime with phase := .idle } }) ∧
    (red ∨ owed → ∃ t, exec .chimeGapEnd s = .next t ∧
      t = { s with chime := { s.chime with phase := .tone 300000, lastRepeat := t.chime.lastRepeat, served := t.chime.served } } ∧
      (t.chime.lastRepeat = true ↔ red) ∧ ∀ i : Fin 32, i ∈ t.chime.served ↔ s.lamps[i].owed = true)) ∧
  (∀ s : State, (∀ n, s.chime.phase ≠ .gap n) → exec .chimeGapEnd s = .next s) ∧
  ∀ (p : Part) (i : Fin 32),
    let r := lampRec p.working i
    let red (j : Fin 32) : Prop := lampUsed p.working j = true ∧ (lampRec p.working j).cls = .red ∧
      (lampRec p.working j).chime = true ∧ p.lamps[j].state = .on
    let others : Prop := ∃ j, j ≠ i ∧ red j
    (∀ after : LampState, p.lamps[i].state = .on → after ≠ .on →
      let q := lampChange i after p
      let left := p.chime.served.filter (· != i)
      let stops : Prop := left = [] ∧ ¬ others
      q.lamps[i].owed = false ∧ (∀ j : Fin 32, j ≠ i → q.lamps[j].owed = p.lamps[j].owed) ∧
      q.chime = { p.chime with served := left, phase := q.chime.phase } ∧
      (∀ n, p.chime.phase = .tone n → (stops → q.chime.phase = .gap 700000) ∧ (¬ stops → q.chime.phase = .tone n)) ∧
      ((∀ n, p.chime.phase ≠ .tone n) → q.chime.phase = p.chime.phase)) ∧
    (lampUsed p.working i = true → r.chime = true → p.chime.deferred = false → p.lamps[i].state ≠ .on →
      let q := lampChange i .on p
      let tone (isRepeat : Prop) (owed : Fin 32 → Prop) : Prop := q.chime = { p.chime with
          phase := .tone 300000, lastRepeat := q.chime.lastRepeat, served := q.chime.served } ∧
        (q.chime.lastRepeat = true ↔ isRepeat) ∧ ∀ j, j ∈ q.chime.served ↔ owed j
      (r.cls = .red →
        (p.chime.phase = .idle → tone True (fun j => p.lamps[j].owed = true)) ∧
        (∀ n, p.chime.phase = .tone n → p.chime.lastRepeat = false →
          tone True (fun j => p.lamps[j].owed = true ∧ j ∉ p.chime.served) ∧
          ∀ j : Fin 32, q.lamps[j].owed = (p.lamps[j].owed && !decide (j ∈ p.chime.served))) ∧
        (∀ n, p.chime.phase = .gap n → p.chime.lastRepeat = false → tone True (fun j => p.lamps[j].owed = true)) ∧
        (p.chime.phase ≠ .idle → p.chime.lastRepeat = true → q.chime = p.chime)) ∧
      (r.cls = .amber → q.lamps[i].owed = true ∧
        (p.chime.phase = .idle → tone (∃ j, red j) (fun j => p.lamps[j].owed = true ∨ j = i)) ∧
        (p.chime.phase ≠ .idle → q.chime = p.chime)) ∧
      (r.cls = .info → q.chime = p.chime))

/-! ### Accounting and journal -/

/-- R146, R148, R159 to R162, R164, R90: a second tick: the clock, the limits taken from the working configuration, the counting
of each present seat by its effective activity, the five evaluated warnings, the derived values and their delivery to the
ACCOUNT channels, and the clock mirror; the BREAK or DAILY_REST entry of each seat, seat 1 first, then the entries of the
warnings that begin or end, in the order of Table 8-4, and of SPEED_LOST, all under the advanced clock; the DRIVETIME notice of
a beginning, and the Lamp Unit's copy, which a restart holds back. In INIT there is none. The five warnings are those of Table
8-4 and the derived values those of Table 8-5. That the motion detector hears of a changed ACCOUNT motion channel after the
tick's work, so that SPEED_LOST comes last, is deduced from R97 and R159 (log entry 9). -/
def Obligations.SecondTicksCount : Prop :=
  (∀ a : Acct,
    let l := a.limits
    (a.seat1 = none → (∀ k < 4, warningActive a k = false) ∧ warningActive a 4 = a.moving) ∧
    ∀ x, a.seat1 = some x →
      (warningActive a 0 = true ↔ (l.contLimit - l.warnMargin) * 60 ≤ x.cdt ∧ x.cdt ≤ l.contLimit * 60) ∧
      (warningActive a 1 = true ↔ l.contLimit * 60 < x.cdt) ∧
      (warningActive a 2 = true ↔ (l.dailyLimit - l.warnMargin) * 60 ≤ x.ddt ∧ x.ddt ≤ l.dailyLimit * 60) ∧
      (warningActive a 3 = true ↔ l.dailyLimit * 60 < x.ddt) ∧ warningActive a 4 = false) ∧
  (∀ a : Acct,
    let left (limit count : Nat) : Nat := (limit * 60 - count) / 60
    let l := a.limits
    (a.seat1 = none → ∀ k ∈ [(0 : Fin 8), 1, 2, 3, 6], derive a k = { value := 0, present := false }) ∧
    (a.seat2 = none → ∀ k ∈ [(4 : Fin 8), 5, 7], derive a k = { value := 0, present := false }) ∧
    (∀ x, a.seat1 = some x → [(0 : Fin 8), 1, 2, 3, 6].map (derive a) =
      [left l.contLimit x.cdt, left l.dailyLimit x.ddt, x.span / 60, x.cdt / 60, x.effective.code.toNat].map
        fun n => { value := n, present := true }) ∧
    ∀ x, a.seat2 = some x → [(4 : Fin 8), 5, 7].map (derive a) =
      [left l.dailyLimit x.ddt, x.span / 60, x.effective.code.toNat].map fun n => { value := n, present := true }) ∧
  (∀ s : State, s.ctl.op = .init → exec .secondTick s = .next s) ∧
  ∀ s : State, Memory.wf s.exch = true → s.ctl.op ≠ .init → ∃ t, exec .secondTick s = .next t ∧ t.pending = s.pending ∧
    onlyConsumers { s.toPart with acct := { s.acct with
      clock := s.acct.clock + 1, limits := limitsOf s.working, seat1 := t.acct.seat1, seat2 := t.acct.seat2
      derived := t.acct.derived } } t.toPart ∧
    memReadN t.mem 0x0E 5 = leBytes 4 t.acct.clock.toNat ++ [if s.acct.timeValid then 1 else 0] ∧
    (∀ k < 5, t.acct.warnings.getLsbD k = warningActive t.acct k) ∧
    (∀ id, getSeat s.acct id = none → getSeat t.acct id = none) ∧
    (∀ id x, getSeat s.acct id = some x →
      let n := min (x.span + 1) (2 ^ 32 - 1)
      let broke : Seat := { x with span := n, cdt := 0, split := false, breakInSpan := true }
      let part : Prop := n = split2 s.working * 60 ∧ x.split = true
      let full : Prop := n = fullBreak s.working * 60
      let daily : Prop := n = dailyRest s.working * 60
      (x.effective = .driving → getSeat t.acct id =
        some { x with cdt := min (x.cdt + 1) (2 ^ 32 - 1), ddt := min (x.ddt + 1) (2 ^ 32 - 1), span := 0 }) ∧
      (x.effective = .work ∨ x.effective = .available → getSeat t.acct id = some { x with span := 0 }) ∧
      (x.effective = .rest → part ∨ full → getSeat t.acct id = some broke) ∧
      (x.effective = .rest → ¬ part → ¬ full → daily → getSeat t.acct id = some { broke with ddt := 0 }) ∧
      (x.effective = .rest → ¬ part → ¬ full → ¬ daily → getSeat t.acct id = some { x with span := n })) ∧
    (let restEntry (id : SeatId) : List Submission := match getSeat s.acct id with
      | none => []
      | some x =>
        let n := min (x.span + 1) (2 ^ 32 - 1)
        if x.effective ≠ .rest then []
        else if n = split2 s.working * 60 ∧ x.split = true then [.breakTaken id false (BitVec.ofNat 32 x.cdt)]
        else if n = fullBreak s.working * 60 then [.breakTaken id true (BitVec.ofNat 32 x.cdt)]
        else if n = dailyRest s.working * 60 then [.dailyRest id (BitVec.ofNat 32 x.cdt) (BitVec.ofNat 32 x.ddt)]
        else []
     let was (k : Nat) : Bool := s.acct.warnings.getLsbD k
     let is (k : Nat) : Bool := t.acct.warnings.getLsbD k
     journalTakes (restEntry .one ++ restEntry .two ++ warningEntries s.acct.warnings t.acct.warnings ++
       speedLostEntries s.acct.warnings t.acct.warnings) { s.toPart with acct := { s.acct with clock := s.acct.clock + 1 } } t.toPart ∧
     (∀ k < 6, is k = true → was k = false → noticeOn t.mem .drivetime = true) ∧
     (∀ k < 6, s.ctl.restart = none → is k ≠ was k → t.lampU.warn.getLsbD k = is k) ∧
     (∀ k < 6, s.ctl.restart.isSome ∨ is k = was k → t.lampU.warn.getLsbD k = s.lampU.warn.getLsbD k)) ∧
    (∀ k : Fin 8, t.acct.derived[k] = derive t.acct k) ∧
    ∀ c : Fin 32,
      let taken : Prop := s.channelsTake = true ∧ chanKind s.working c = .account
      (∀ k : Fin 8, taken → (chanRec s.working c).index = k.val →
        (t.acct.derived[k].present = true → t.chans[c] = sampled s.working c t.acct.derived[k].value s.chans[c]) ∧
        (t.acct.derived[k].present = false → s.chans[c].quality ≠ .unset →
          t.chans[c] = { s.chans[c] with
            quality := .unset, value := 0, acc := 0, count := 0, update := s.chans[c].update + 1 }) ∧
        (t.acct.derived[k].present = false → s.chans[c].quality = .unset → t.chans[c] = s.chans[c])) ∧
      (¬ taken ∨ 8 ≤ (chanRec s.working c).index → t.chans[c] = s.chans[c])

/-- R149 to R151, R157, R158, R161: the motion detector. A notification of the motion channel acts on the confirm timer by its
class and on SPEED_LOST, and holds the motion state; the running timer's expiry changes the motion state, the effective
activities, the warnings, by the limits of the last second tick (R148), and the summary; the Journal takes the ACTIVITY entries,
seat 1 first, then those of the warnings, as a notification's beginning or end of SPEED_LOST is taken. A rest that the change
ends is judged for the split flag, and its span and its break-in-span flag become 0, as those of a rest that it begins. That the
expiry is taken while the timer runs unpaused and changes nothing else is the model's choice (log entry 4). -/
def Obligations.MotionIsConfirmed : Prop :=
  (∀ (p : Part) (c : Fin 32) (x : Result) (reset : Bool),
    let q := notifyMotion c x reset p
    let heard : Prop := motionChannel p.working = some c ∧ (reset = true ∨ p.channelsTake = true)
    let trusted : Prop := x.quality = .good ∨ x.quality = .held
    let above : Prop := (motionThreshold p.working : Int) < x.value
    let start (up : Bool) : Option Confirm := some { toMoving := up, left := confirmTime p.working up, paused := false }
    (¬ heard → q = p) ∧
    (heard →
      q.acct.moving = p.acct.moving ∧ q.acct.clock = p.acct.clock ∧ q.acct.seat1 = p.acct.seat1 ∧ q.acct.seat2 = p.acct.seat2 ∧
      q.chans = p.chans ∧ q.ptrs = p.ptrs ∧ (∀ k < 5, q.acct.warnings.getLsbD k = p.acct.warnings.getLsbD k) ∧
      (trusted → (above ↔ p.acct.moving = true) → q.acct.confirm = none) ∧
      (trusted → ¬ (above ↔ p.acct.moving = true) →
        (∀ r, p.acct.confirm = some r → (r.toMoving = true ↔ above) → q.acct.confirm = some { r with paused := false }) ∧
        (∀ r, p.acct.confirm = some r → ¬ (r.toMoving = true ↔ above) → q.acct.confirm = start (!p.acct.moving)) ∧
        (p.acct.confirm = none → q.acct.confirm = start (!p.acct.moving))) ∧
      (x.quality = .dip → q.acct.confirm = p.acct.confirm.map fun r => { r with paused := true }) ∧
      (¬ trusted → x.quality ≠ .dip → q.acct.confirm = none) ∧
      (trusted → q.acct.warnings.getLsbD 5 = false) ∧
      (¬ trusted → x.quality ≠ .dip → x.quality ≠ .unset ∨ p.acct.moving = true → q.acct.warnings.getLsbD 5 = true) ∧
      (x.quality = .dip ∨ x.quality = .unset ∧ p.acct.moving = false →
        q.acct.warnings.getLsbD 5 = p.acct.warnings.getLsbD 5) ∧
      (Memory.wf p.exch = true → journalTakes (speedLostEntries p.acct.warnings q.acct.warnings) p q))) ∧
  (∀ s : State, s.live = false ∨ s.acct.confirm = none ∨ (∃ r, s.acct.confirm = some r ∧ r.paused = true) →
    exec .confirmTimerExpiry s = .next s) ∧
  ∀ (s : State) (r : Confirm), Memory.wf s.exch = true → s.live = true → s.acct.confirm = some r → r.paused = false →
    ∃ t, exec .confirmTimerExpiry s = .next t ∧
      t = { s with
        exch := t.exch, arb := t.arb, lamps := t.lamps, chime := t.chime, jour := t.jour, lampU := { s.lampU with warn := t.lampU.warn }
        panel := { s.panel with stack := t.panel.stack }
        acct := { s.acct with
          moving := r.toMoving, confirm := none, warnings := t.acct.warnings, seat1 := t.acct.seat1, seat2 := t.acct.seat2 } } ∧
      (∀ id, getSeat s.acct id = none → getSeat t.acct id = none) ∧
      (∀ id x, getSeat s.acct id = some x →
        let e := effectiveOf id r.toMoving x.selected
        (e = x.effective ∨ x.effective ≠ .rest ∧ e ≠ .rest → getSeat t.acct id = some { x with effective := e }) ∧
        (x.effective ≠ .rest → e = .rest →
          getSeat t.acct id = some { x with effective := e, span := 0, breakInSpan := false }) ∧
        (x.effective = .rest → e ≠ .rest →
          getSeat t.acct id = some { x with
            effective := e, span := 0, breakInSpan := false,
            split := x.split || (decide (s.acct.limits.split1 * 60 ≤ x.span) &&
              decide (x.span < s.acct.limits.fullBreak * 60) && !x.breakInSpan) })) ∧
      (∀ k < 5, t.acct.warnings.getLsbD k = warningActive t.acct k) ∧
      t.acct.warnings.getLsbD 5 = s.acct.warnings.getLsbD 5 ∧
      journalTakes (activityEntries r.toMoving s.acct ++ warningEntries s.acct.warnings t.acct.warnings) s.toPart t.toPart ∧
      memRead t.mem 0x681 = (if r.toMoving then 1 else 0) ∧ agreeOutside partByte s.mem t.mem

/-- R168, R169: a submission. With room its entry is written whole at the write mark under the next sequence number, stamped
with the clock, and JOURNAL is set; full, it is lost, consumes its number unless the lost count stands at 65,535, and JFULL is
set. The control record follows. The kind, the seat, the split flag and the data of each entry are those of Tables 9-1 and
11-15. That a submission is a row of its own, taken at its word, is the model's choice (log entry 4), and that in INIT the
Journal takes none but INIT's own (log entry 2). -/
def Obligations.JournalTakesSubmissions : Prop :=
  (∀ (s : State) (sub : Submission), s.ctl.op = .init → exec (.journalSubmission sub) s = .next s) ∧
  (∀ (s : State) (sub : Submission), Memory.wf s.exch = true → s.ctl.op ≠ .init →
    let b := entryBody sub
    let a := 0x800 + 32 * s.jour.wm.val
    (s.jour.wm + 1 ≠ s.jour.rm → ∃ t, exec (.journalSubmission sub) s = .next t ∧
      t = { s with exch := t.exch, arb := t.arb, jour := { s.jour with wm := s.jour.wm + 1, seq := s.jour.seq + 1 } } ∧
      memReadN t.mem a 9 = leBytes 2 s.jour.seq.toNat ++ [b.kind, b.seat] ++ leBytes 4 s.acct.clock.toNat ++
        [(if s.acct.timeValid then 1 else 0) + (if b.split then 2 else 0)] ∧
      memReadN t.mem (a + 9) b.data.length = b.data ∧ b.data.length ≤ 23 ∧
      (∀ k, a + 9 + b.data.length ≤ k → k < a + 32 → memRead t.mem k = 0) ∧
      controlRecordShows t.jour t.mem ∧ noticeWord t.mem = noticeWord s.mem ||| 0x10#16 ∧
      agreeOutside (fun k => noticeByte k ∨ inRecord 0x1E0 16 k ∨ inRecord a 32 k) s.mem t.mem) ∧
    (s.jour.wm + 1 = s.jour.rm → ∃ t, exec (.journalSubmission sub) s = .next t ∧
      t = { s with
        exch := t.exch, arb := t.arb
        jour := if s.jour.lost = 0xFFFF then s.jour else { s.jour with lost := s.jour.lost + 1, seq := s.jour.seq + 1 } } ∧
      controlRecordShows t.jour t.mem ∧ noticeWord t.mem = noticeWord s.mem ||| 0x20#16 ∧
      agreeOutside (fun k => noticeByte k ∨ inRecord 0x1E0 16 k) s.mem t.mem)) ∧
  (∀ id : SeatId, id.code = if id = .one then 1 else 2) ∧
  [Activity.rest, .available, .work, .driving].map Activity.code = [0, 1, 2, 3] ∧
  [OpState.init, .unconfigured, .starting, .run, .parking, .park].map OpState.code = [0, 1, 2, 3, 4, 5] ∧
  [Cause.reset, .supply, .request].map Cause.code = [1, 2, 3] ∧
  ∀ (id : SeatId) (card : Identity) (c d : BitVec 24) (x y : Word) (a b : Activity) (op : OpState) (cause : Cause) (f : Bool),
    let one (f : Bool) : Byte := if f then 2 else 1
    entryBody .powerOn = { kind := 1, seat := 0, split := false, data := [] } ∧
    entryBody (.restart cause op) = { kind := 2, seat := 0, split := false, data := [cause.code, op.code] } ∧
    entryBody (.activity id a b) = { kind := 3, seat := id.code, split := false, data := [a.code, b.code] } ∧
    entryBody (.cardIn id card c d f a) =
      { kind := 4, seat := id.code, split := f, data := (leBytes 16 card.toNat ++ leBytes 3 c.toNat ++ leBytes 3 d.toNat ++ [a.code]) } ∧
    entryBody (.cardOut id card c d f) =
      { kind := 5, seat := id.code, split := f, data := (leBytes 16 card.toNat ++ leBytes 3 c.toNat ++ leBytes 3 d.toNat) } ∧
    entryBody (.swap id card) = { kind := 6, seat := id.code, split := false, data := leBytes 16 card.toNat } ∧
    entryBody (.breakTaken id f x) = { kind := 7, seat := id.code, split := false, data := one f :: leBytes 4 x.toNat } ∧
    entryBody (.dailyRest id x y) =
      { kind := 8, seat := id.code, split := false, data := leBytes 4 x.toNat ++ leBytes 4 y.toNat } ∧
    entryBody (.overrun f) = { kind := 9, seat := 1, split := false, data := [one f] } ∧
    entryBody (.noCardMoving f) = { kind := 10, seat := 1, split := false, data := [one f] } ∧
    entryBody (.speedLost f) = { kind := 11, seat := 0, split := false, data := [one f] } ∧
    entryBody (.timeSet x f y) =
      { kind := 12, seat := 0, split := false, data := (leBytes 4 x.toNat ++ [if f then 1 else 0] ++ leBytes 4 y.toNat) }

/-! ### The panel -/

/-- R174, R177, R179, R180, R182, R183: the line is active with the strap on, outside INIT, UNCONFIGURED and restarts, and in
PARK with a park page alone; a panel refresh composes the image: the mirror takes it under a new edition if it differs, the
active line sends it if it differs from the last one sent or if ten refreshes have passed, an idle line forgets; the placed
entry's shown time rises, and an AMBER or INFO entry that reaches the display time leaves, and lets a WAITING message in. In a
dip the refresh only counts. The message display timeout is the leaving alone of an entry that has reached the display time, and
changes nothing else; that it is a row of its own beside the refresh is the model's choice (log entry 4), as are the order
inside a refresh (log entry 37), how refreshes are counted (log entry 23), and that a first composition after a commit or a
restart that changes nothing leaves the mirror and its edition (log entry 43); that an idle line has forgotten while it is idle,
and not only when it becomes active again, is deduced (log entry 27). -/
def Obligations.PanelRefreshesComposeTheImage : Prop :=
  (∀ s : State, s.live = false → exec .panelRefresh s = .next s) ∧
  (∀ s : State, s.live = true → s.inDip = true →
    exec .panelRefresh s = .next { s with panel := { s.panel with sinceSend := s.panel.sinceSend + 1 } }) ∧
  (∀ s : State, Memory.wf s.exch = true → s.live = true → s.inDip = false →
    let f := composeFrame s.toPart
    let shows := memReadN s.mem 0x781 126
    ∃ t, exec .panelRefresh s = .next t ∧
      t = { s with exch := t.exch, arb := t.arb, lamps := t.lamps, panel := { t.panel with basePage := s.panel.basePage } } ∧
      memReadN t.mem 0x781 126 = mirrorBody f s.toPart ∧
      (shows = mirrorBody f s.toPart → memRead t.mem 0x780 = memRead s.mem 0x780 ∧ memRead t.mem 0x7FF = memRead s.mem 0x7FF) ∧
      (shows ≠ mirrorBody f s.toPart →
        memRead t.mem 0x780 = memRead s.mem 0x780 + 1 ∧ memRead t.mem 0x7FF = memRead s.mem 0x780 + 1) ∧
      (s.lineActive = false → t.panel.lastSent = none ∧ t.panel.sinceSend = 0) ∧
      (s.lineActive = true → s.panel.lastSent ≠ some f ∨ 9 ≤ s.panel.sinceSend →
        t.panel.lastSent = some f ∧ t.panel.sinceSend = 0) ∧
      (s.lineActive = true → s.panel.lastSent = some f → s.panel.sinceSend < 9 →
        t.panel.lastSent = some f ∧ t.panel.sinceSend = s.panel.sinceSend + 1) ∧
      (overlayTop s.toPart = none → t.panel.stack = s.panel.stack ∧ t.lamps = s.lamps) ∧
      (∀ e rest, overlayTop s.toPart = some e → s.panel.stack = e :: rest →
        let leaves : Prop := e.cls ≠ .red ∧ displayLimit s.working ≤ e.shown + 1
        (¬ leaves → t.panel.stack = { e with shown := e.shown + 1 } :: rest ∧ t.lamps = s.lamps) ∧
        (leaves → t.lamps[e.lamp].msg = .dismissed ∧ (∀ x ∈ t.panel.stack, x.lamp ≠ e.lamp) ∧
          messageLeaves e.lamp .dismissed s.toPart t.toPart)) ∧
      agreeOutside (fun k => inRecord 0x780 128 k ∨ inRecord 0x580 0x100 k) s.mem t.mem) ∧
  (∀ p : Part, p.lineActive = true ↔ p.ctl.strap = true ∧ p.ctl.restart = none ∧ p.ctl.op ≠ .init ∧ p.ctl.op ≠ .unconfigured ∧
    (p.ctl.op = .park → 0 < gByte p.working 7)) ∧
  (∀ p : Part, (∀ e, overlayTop p = some e ↔
    p.ctl.op = .run ∧ p.ctl.proving = none ∧ overlayShown p.working = true ∧ p.panel.stack.head? = some e)) ∧
  (∀ s : State, s.live = false ∨ s.inDip = true ∨
    (∀ e, overlayTop s.toPart = some e → e.cls = .red ∨ e.shown < displayLimit s.working) →
    exec .messageDisplayTimeout s = .next s) ∧
  (∀ (s : State) (e : Entry), Memory.wf s.exch = true → s.live = true → s.inDip = false → overlayTop s.toPart = some e →
    e.cls ≠ .red → displayLimit s.working ≤ e.shown → ∃ t, exec .messageDisplayTimeout s = .next t ∧
      t = { s with exch := t.exch, arb := t.arb, lamps := t.lamps, panel := { s.panel with stack := t.panel.stack } } ∧
      t.lamps[e.lamp].msg = .dismissed ∧ (∀ x ∈ t.panel.stack, x.lamp ≠ e.lamp) ∧
      messageLeaves e.lamp .dismissed s.toPart t.toPart ∧
      agreeOutside (inRecord 0x580 0x100) s.mem t.mem)

/-- R173 to R177, R179: the page shown is the base page, and in PARKING and PARK the park page; each cell takes the message text
where the overlay is placed, else the page if the base block is shown, else 0x20, and the colour records and the shown flags
follow; a page is its cell bytes, with the last used field that covers a cell over them; a field reads a channel, a derived
value or the clock as they stand; the mirror shows the frame as Table 11-11 lays it out. Every frame has eighty cells, each a
text or icon code; with the master enable clear it is the blank image; a field has exactly its width: dashes for an invalid
source, asterisks where its string does not fit, else the string right-aligned; a number's string is its decimal digits, with a
leading minus below 0. -/
def Obligations.ImagesHoldCodesAlone : Prop :=
  (∀ p : Part,
    let f := composeFrame p
    let w := p.working
    let shown : Prop := (gByte w 9).testBit 0 = true ∧ (gByte w 9).testBit 1 = true
    let colour (a : Nat) : Byte := memRead w a &&& 0x7F
    (p.ctl.op ≠ .parking → p.ctl.op ≠ .park → pageShown p = some p.panel.basePage) ∧
    (p.ctl.op = .parking ∨ p.ctl.op = .park → gByte w 7 = 0 → pageShown p = none) ∧
    (p.ctl.op = .parking ∨ p.ctl.op = .park → 0 < gByte w 7 → pageShown p = some (gByte w 7 - 1)) ∧
    (∀ e n, overlayTop p = some e → (lampRec w e.lamp).text = some n → ∀ k < 40,
      byteAt f.cells (40 + k) = renderByte (memRead w (0x2500 + 40 * n + k))) ∧
    (∀ k < 80, k < 40 ∨ overlayTop p = none →
      (∀ n, shown → pageShown p = some n → byteAt f.cells k = byteAt (renderPage n p) k) ∧
      (¬ shown ∨ pageShown p = none → byteAt f.cells k = 0x20)) ∧
    (f.baseShown = true ↔ shown ∧ pageShown p ≠ none) ∧ (f.overlayShown = true ↔ overlayTop p ≠ none) ∧
    (∀ n, shown → pageShown p = some n → f.baseColour = colour (0x1F50 + 128 * n)) ∧
    (¬ shown ∨ pageShown p = none → f.baseColour = 0) ∧
    (∀ e, overlayTop p = some e → f.overlayColour = colour (match e.cls with | .red => 0x100A | .amber => 0x100B | .info => 0x100C)) ∧
    (overlayTop p = none → f.overlayColour = 0)) ∧
  (∀ (page : Nat) (p : Part),
    let a (n : Nat) : Nat := 0x1F58 + 128 * page + 5 * n
    let b (n k : Nat) : Nat := (memRead p.working (a n + k)).toNat
    let covers (n k : Nat) : Prop := 20 * b n 0 + b n 1 ≤ k ∧ k < 20 * b n 0 + b n 1 + b n 2
    (∀ n < 8, (pageField p.working page n).width = b n 2 ∧
      (b n 3 ≤ 31 → ∃ c : Fin 32, c.val = b n 3 ∧ (pageField p.working page n).source = .chan c) ∧
      (0x40 ≤ b n 3 → b n 3 ≤ 0x47 → ∃ d : Fin 8, d.val = b n 3 - 0x40 ∧ (pageField p.working page n).source = .derived d) ∧
      (b n 3 = 0x80 → (pageField p.working page n).source = .clock) ∧
      ∀ g ∈ [FieldFormat.int, .dec1, .dec2, .hhmm, .mmss, .activity].zipIdx, b n 4 = g.2 → (pageField p.working page n).format = g.1) ∧
    ∀ k < 80,
      ((∀ n < 8, ¬ covers n k) → byteAt (renderPage page p) k = renderByte (memRead p.working (0x1F00 + 128 * page + k))) ∧
      ∀ n < 8, covers n k → (∀ m < 8, n < m → ¬ covers m k) →
        byteAt (renderPage page p) k = byteAt (fieldCells (pageField p.working page n) p) (k - (20 * b n 0 + b n 1))) ∧
  (∀ p : Part,
    (∀ c : Fin 32, readSource (.chan c) p =
      if p.chans[c].quality = .good ∨ p.chans[c].quality = .held ∨ p.chans[c].quality = .dip then some p.chans[c].value else none) ∧
    (∀ d : Fin 8, readSource (.derived d) p = if p.acct.derived[d].present then some p.acct.derived[d].value else none) ∧
    readSource .clock p = if p.acct.timeValid then some (p.acct.clock.toNat % 86400 / 60 : Nat) else none) ∧
  (∀ b : Byte, renderByte b =
    if (0x20 ≤ b.toNat ∧ b.toNat ≤ 0x7E) ∨ (0x80 ≤ b.toNat ∧ b.toNat ≤ 0x9F) then b else 0x3F) ∧
  (∀ (p : Part) (f : Frame), f.cells.length = 80 →
    let m := mirrorBody f p
    let page (x : Option Nat) : Byte := match x with | none => 0xFF | some n => BitVec.ofNat 8 n
    m.length = 126 ∧ m.take 80 = f.cells ∧ byteAt m 80 = f.baseColour ∧ byteAt m 81 = f.overlayColour ∧
    byteAt m 82 = BitVec.ofNat 8 ((if f.baseShown then 1 else 0) + (if f.overlayShown then 2 else 0)) ∧
    byteAt m 83 = page (pageShown p) ∧ byteAt m 84 = BitVec.ofNat 8 p.panel.basePage ∧
    (overlayTop p = none → byteAt m 85 = 0xFF ∧ byteAt m 86 = 0xFF) ∧
    (∀ e, overlayTop p = some e → byteAt m 85 = BitVec.ofNat 8 e.lamp.val ∧ byteAt m 86 = e.cls.code) ∧
    byteAt m 87 = BitVec.ofNat 8 p.panel.stack.length ∧
    (∀ k < 8, byteAt m (88 + k) = page (p.panel.stack[k]?.map (·.lamp.val))) ∧ ∀ k, 96 ≤ k → byteAt m k = 0) ∧
  (∀ p : Part, (composeFrame p).cells.length = 80 ∧
    ∀ b ∈ (composeFrame p).cells, (0x20 ≤ b.toNat ∧ b.toNat ≤ 0x7E) ∨ (0x80 ≤ b.toNat ∧ b.toNat ≤ 0x9F)) ∧
  (∀ p : Part, (gByte p.working 9).testBit 0 = false → composeFrame p =
    { cells := List.replicate 80 0x20, baseColour := 0, overlayColour := 0, baseShown := false, overlayShown := false }) ∧
  (∀ (f : Field) (p : Part), (fieldCells f p).length = f.width ∧
    (readSource f.source p = none → fieldCells f p = List.replicate f.width 0x2D) ∧
    (∀ v t, readSource f.source p = some v → fieldString f.format v = some t →
      (f.width < t.length → fieldCells f p = List.replicate f.width 0x2A) ∧
      (t.length ≤ f.width → fieldCells f p = List.replicate (f.width - t.length) 0x20 ++ t)) ∧
    (∀ v, readSource f.source p = some v → fieldString f.format v = none → fieldCells f p = List.replicate f.width 0x2A)) ∧
  (∀ n < 10 ^ 10, (digits n).foldl (fun a b => 10 * a + (b.toNat - 0x30)) 0 = n ∧
    (∀ b ∈ digits n, 0x30 ≤ b.toNat ∧ b.toNat ≤ 0x39) ∧ (0 < n → (digits n).head? ≠ some 0x30)) ∧
  ∀ v : Int,
    let sign : List Byte := if v < 0 then [0x2D] else []
    let n := v.natAbs
    fieldString .int v = some (sign ++ digits n) ∧
    fieldString .dec1 v = some (sign ++ digits (n / 10) ++ [0x2E] ++ digits (n % 10)) ∧
    fieldString .dec2 v = some (sign ++ digits (n / 100) ++ [0x2E] ++ digits (n / 10 % 10) ++ digits (n % 10)) ∧
    fieldString .mmss v = fieldString .hhmm v ∧
    (600 ≤ n → fieldString .hhmm v = some (sign ++ digits (n / 60) ++ [0x3A] ++ digits (n % 60 / 10) ++ digits (n % 10))) ∧
    (n < 600 → fieldString .hhmm v =
      some (sign ++ [0x30] ++ digits (n / 60) ++ [0x3A] ++ digits (n % 60 / 10) ++ digits (n % 10))) ∧
    (0 ≤ v → v ≤ 3 → fieldString .activity v = some [BitVec.ofNat 8 (0x80 + n)]) ∧
    (v < 0 ∨ 3 < v → fieldString .activity v = none)

/-! ### Validation -/

/-- R48, R185, Tables 3-4 and 11-16: validation walks the tables in their order and the records of each in ascending order, and
answers with the table, the index and the reason of the first check that fails: an earlier record passes every check of its own,
and so does an earlier check of the same record. The checks of each table are those of Table 3-4, in its order, on used records
alone. -/
def Obligations.ValidationFindsTheFirstFailingCheck : Prop :=
  (∀ w : Mem,
    let failing (table n : Nat) : Option Reason := match table with
      | 1 => firstFailing (generalChecks w)
      | 2 => firstFailing (limitsChecks w)
      | 3 => firstFailing (channelChecks w n)
      | 4 => firstFailing (curveChecks w n)
      | 5 => firstFailing (pointerChecks w n)
      | 6 => firstFailing (lampChecks w n)
      | 7 => firstFailing (pageChecks w n)
      | _ => none
    let isRecord (table n : Nat) : Prop := n < [0, 1, 1, 32, 8, 6, 32, 12].getD table 0
    (∀ f, validate w = some f ↔ isRecord f.table f.index ∧ failing f.table f.index = some f.reason ∧
      ∀ table n, isRecord table n → table < f.table ∨ (table = f.table ∧ n < f.index) → failing table n = none) ∧
    (validate w = none ↔ ∀ table n, isRecord table n → failing table n = none)) ∧
  (∀ w : Mem,
    checksInOrder (firstFailing (generalChecks w))
      [(gByte w 0 ∈ [0, 10, 20, 50] ∧ gByte w 1 ≤ 2 ∧ gByte w 2 ≤ 10 ∧ gByte w 3 ≤ 10, .range),
        (gByte w 4 ≤ 32 ∧ gByte w 5 ≤ 32 ∧ gByte w 6 ≤ 11 ∧ gByte w 7 ≤ 12, .index),
        (gByte w 8 ≤ 60 ∧ (∀ i : Fin 8, gByte w (16 + i) ≤ 15) ∧
          ∀ i : Fin 4, gByte w (24 + i) ≤ 20 ∧ readNat w (0x101C + 2 * i) 2 ≤ 100, .range),
        (∀ i : Fin 4, windowLength w i ≤ zeroTimeout w i, .window)] ∧
    checksInOrder (firstFailing (limitsChecks w))
      [(split1 w ≤ 720 ∧ split2 w ≤ 720 ∧ fullBreak w ≤ 720 ∧ dailyRest w ≤ 1440 ∧ contLimit w ≤ 1440 ∧ warnMargin w ≤ 720 ∧
          dailyLimit w ≤ 1440 ∧ motionThreshold w ≤ 30000 ∧ motionConfirm w ≤ 60 ∧ stopConfirm w ≤ 600, .range),
        (split1 w ≤ split2 w ∧ split2 w < fullBreak w ∧ fullBreak w < dailyRest w, .limitOrder),
        (warnMargin w < contLimit w ∧ contLimit w ≤ dailyLimit w, .limitOrder)]) ∧
  (∀ (w : Mem) (n : Nat),
    let kind := readByte w (0x1100 + 32 * n)
    let r := chanRec w n
    (kind = 0 → firstFailing (channelChecks w n) = none) ∧
    (kind ≠ 0 → checksInOrder (firstFailing (channelChecks w n))
      [(kind ≤ 5 ∧ r.index ≤ [0, 7, 3, 7, 15, 7].getD kind 0 ∧
          (kind ≠ 5 → ∀ c, r.curve = some c → c ≤ 7 ∧ readByte w (0x1500 + 128 * c) ≠ 0), .index),
        (r.shift ≤ 7 ∧ 1 ≤ r.persistence ∧ r.persistence ≤ 15 ∧ (kind = 4 → 1 ≤ r.ageLimit ∧ r.ageLimit ≤ 600) ∧
          (kind = 1 → r.short < r.openCode), .range),
        (r.curve = none ∨ kind = 5 → 1 ≤ r.div, .divisor),
        (r.lo ≤ r.hi, .order)])) ∧
  (∀ (w : Mem) (n : Nat),
    let points := readByte w (0x1500 + 128 * n)
    (points = 0 → firstFailing (curveChecks w n) = none) ∧
    (points ≠ 0 → checksInOrder (firstFailing (curveChecks w n))
      [(2 ≤ points ∧ points ≤ 15, .curvePoints), (((curvePoints w n).map (·.1)).Pairwise (· < ·), .curveOrder)])) ∧
  (∀ (w : Mem) (n : Nat),
    let points := readByte w (0x1900 + 64 * n + 2)
    let r := ptrRec w n
    (ptrUsed w n = false → firstFailing (pointerChecks w n) = none) ∧
    (ptrUsed w n = true → checksInOrder (firstFailing (pointerChecks w n))
      [(r.chan ≤ 31, .index), (1 ≤ r.travel ∧ r.travel ≤ 4095, .travel), (2 ≤ points ∧ points ≤ 8, .scalePoints),
        ((r.scale.map (·.1)).Pairwise (· < ·) ∧ ∀ x ∈ r.scale, 0 ≤ x.2 ∧ x.2 ≤ (r.travel : Int), .scaleOrder),
        (1 ≤ r.smax ∧ r.smax ≤ 8 ∧ r.shift ≤ 6 ∧ readByte w (0x1900 + 64 * n + 5) ≤ 1, .range)])) ∧
  (∀ (w : Mem) (n : Nat),
    let kind := readByte w (0x1B00 + 32 * n)
    let field (k : Nat) : Nat := readByte w (0x1B00 + 32 * n + k)
    let r := lampRec w n
    (kind = 0 → firstFailing (lampChecks w n) = none) ∧
    (kind ≠ 0 → checksInOrder (firstFailing (lampChecks w n))
      [((kind ≤ 4 → field 4 ≤ 31) ∧ (field 5 ≤ 31 ∨ field 5 = 0xFF) ∧ (field 7 ≤ 63 ∨ field 7 = 0xFF) ∧
          (kind = 6 → field 8 ≤ 5), .index),
        (field 1 ≤ 2 ∧ field 2 ≤ 2 ∧ kind ≤ 7, .range),
        ((kind = 1 → r.offAt < r.onAt) ∧ (kind = 2 → r.onAt < r.offAt), .hysteresis)])) ∧
  (∀ (w : Mem) (n : Nat),
    let field (k j : Nat) : Nat := readByte w (0x1F00 + 128 * n + 88 + 5 * k + j)
    checksInOrder (firstFailing (pageChecks w n))
      [(∀ k < 8, field k 2 ≠ 0 → field k 0 ≤ 3 ∧ field k 2 ≤ 10 ∧ field k 1 + field k 2 ≤ 20, .fieldFit),
        (∀ k < 8, field k 2 ≠ 0 → (field k 3 ≤ 31 ∨ (0x40 ≤ field k 3 ∧ field k 3 ≤ 0x47) ∨ field k 3 = 0x80) ∧ field k 4 ≤ 5,
          .range)]) ∧
  [Reason.range, .index, .window, .limitOrder, .divisor, .order, .curvePoints, .curveOrder, .travel, .scalePoints, .scaleOrder,
    .hysteresis, .fieldFit].map Reason.code = [1, 2, 3, 4, 5, 6, 8, 9, 10, 11, 12, 13, 14]

/-! ### What every step keeps -/

/-- Every step keeps the memories in canonical form (log entry 20). -/
def Obligations.StepsKeepTheMemoriesCanonical : Prop :=
  ∀ s t : State, MemoriesCanonical s.toPart → step s = .next t → MemoriesCanonical t.toPart

/-- R42 to R47, R52, R53, R55: every step keeps the law of the State Controller. -/
def Obligations.StepsKeepTheControlLaw : Prop :=
  ∀ s t : State, ControlLaw s.toPart → step s = .next t → ControlLaw t.toPart

/-- R141 to R143: every step keeps the law of the chime arbiter; under it the chime sounds only while some lamp that is ON has
an unsatisfied demand or the test tone runs, and it is silent in PARKING, in PARK, in a dip and in a restart. -/
def Obligations.StepsKeepTheChimeLaw : Prop :=
  (∀ s t : State, ChimeLaw s.toPart → step s = .next t → ChimeLaw t.toPart) ∧
  (∀ p : Part, ChimeLaw p → p.chimeSounds = true → someDemand p ∨ p.chime.test.isSome) ∧
  (∀ p : Part, ChimeLaw p → p.ctl.op = .parking ∨ p.ctl.op = .park ∨ p.inDip = true ∨ p.ctl.restart.isSome → p.chimeSounds = false)

/-- R103 to R105: every step keeps every used pointer's position and target within its travel. -/
def Obligations.StepsKeepThePointersWithinTravel : Prop :=
  ∀ s t : State, PointersWithinTravel s.toPart → step s = .next t → PointersWithinTravel t.toPart

/-- R153, R157, R160: every step keeps the laws of the seats: two different identities, the effective activity that the selected
one and the motion state give, and CDT not above DDT. -/
def Obligations.StepsKeepTheSeatLaws : Prop :=
  ∀ s t : State, SeatLaws s.acct → step s = .next t → SeatLaws t.acct

/-- R181, R182: every step keeps the law of the message stack and of the waiting messages. -/
def Obligations.StepsKeepTheStackLaw : Prop :=
  ∀ s t : State, StackLaw s.toPart → step s = .next t → StackLaw t.toPart

/-- R86, R87: every step keeps the filter of every trusted channel within its range; so the value of a channel that is GOOD,
HELD or DIP lies within lo and hi. -/
def Obligations.StepsKeepTheChannelsWithinRange : Prop :=
  (∀ s t : State, ChannelsWithinRange s.toPart → step s = .next t → ChannelsWithinRange t.toPart) ∧
  ∀ (p : Part) (c : Fin 32), ChannelsWithinRange p →
    p.chans[c].quality = .good ∨ p.chans[c].quality = .held ∨ p.chans[c].quality = .dip →
    (chanRec p.working c).lo ≤ p.chans[c].value ∧ p.chans[c].value ≤ (chanRec p.working c).hi

/-- R169 to R171: every step keeps the law of the journal, where every waiting access is one that a block may ask for, which
every step keeps; and the journal never holds more than 63 unread entries. -/
def Obligations.StepsKeepTheJournalLaw : Prop :=
  (∀ s t : State, Memory.wf s.exch = true → WaitingLaw s.toPart → JournalLaw s.toPart → step s = .next t →
    JournalLaw t.toPart ∧ WaitingLaw t.toPart) ∧
  ∀ j : Journal, unreadCount j ≤ 63

/-- R10, R32, R94, R102, R144, R146, R165, R167: after every step the header, the journal control record and every result record
but the panel mirror show the running state as it stands, between equal edition bytes, once the waiting accesses are granted
(log entry 7), where every waiting access is one that a block may ask for, which every step keeps. -/
def Obligations.StepsKeepTheRecordsShown : Prop :=
  ∀ s t : State, Memory.wf s.exch = true → WaitingLaw s.toPart → HeaderShows s.toPart → RecordsShow s.toPart → step s = .next t →
    HeaderShows t.toPart ∧ RecordsShow t.toPart ∧ WaitingLaw t.toPart

/-- R3, R46, R50, Table 1-2: after INIT, and power-on apart, a byte that is neither the part's own nor a request slot's changes
only by a link write, the configuration area only while the access is OPEN, and the working configuration only at the end of a
commit; where every waiting access is one that a block may ask for, which every step keeps. -/
def Obligations.HostBytesChangeOverTheLinkAlone : Prop :=
  ∀ (s t : State) (c : Instr), Memory.wf s.exch = true → WaitingLaw s.toPart → s.ctl.op ≠ .init → c ≠ .powerOn → exec c s = .next t →
    WaitingLaw t.toPart ∧
    (¬ linkCommand c → agreeOutside (fun a => partByte a ∨ slotByte a) s.mem t.mem) ∧
    (s.ctl.access ≠ .opened → ∀ a, configByte a → memRead t.mem a = memRead s.mem a) ∧
    (c ≠ .commitEnd → t.working = s.working)

/-- 3.1, R36, R39 to R41, R50, R56: power-on apart, every step leaves the operating state, or changes it as chapter 3 lays down.
-/
def Obligations.StepsMoveTheOperatingStateLawfully : Prop :=
  ∀ (s t : State) (c : Instr), ControlLaw s.toPart → c ≠ .powerOn → exec c s = .next t →
    t.ctl.op = s.ctl.op ∨ opMayChange s.ctl.op t.ctl.op
end

