-- ==== Sys2Proof/Laws/Memory.lean ====
section
/-! SUPPORT. What the memory operations do: reading after writing, at the same place and elsewhere, and the canonical form,
which every operation keeps. -/

namespace Sys2Proof.Machine

/-! ### Lengths -/

@[simp] theorem leBytes_length (n : Nat) : ∀ x, (leBytes n x).length = n := by
  induction n with
  | zero => intro x; rfl
  | succ n ih => intro x; simp [leBytes, ih]

@[simp] theorem zeros_length (n : Nat) : (zeros n).length = n := by simp [zeros]

@[simp] theorem int32Bytes_length (x : Int) : (int32Bytes x).length = 4 := by simp [int32Bytes]

@[simp] theorem identityBytes_length (i : Identity) : (identityBytes i).length = 16 := by simp [identityBytes]

@[simp] theorem memReadN_length (m : Mem) (n : Nat) : ∀ a, (memReadN m a n).length = n := by
  induction n with
  | zero => intro a; rfl
  | succ n ih => intro a; simp [memReadN, ih]

/-! ### The canonical form -/

/-- The form, read off: the head is below everything after it and lists no unlisted byte. -/
theorem wf_cons {a : Nat} {v : Byte} {m : Mem} :
    Memory.wf ((a, v) :: m) = true ↔ v ≠ unlistedByte ∧ (∀ c ∈ m.head?, a < c.1) ∧ Memory.wf m = true := by
  cases m with
  | nil => simp [Memory.wf]
  | cons c m => obtain ⟨b, w⟩ := c; simp [Memory.wf, and_assoc]

/-- In a canonical memory the head's address lies below every address after it. -/
theorem wf_head_lt {a : Nat} {v : Byte} {m : Mem} (h : Memory.wf ((a, v) :: m) = true) : ∀ c ∈ m, a < c.1 := by
  induction m generalizing a v with
  | nil => simp
  | cons c m ih =>
    obtain ⟨b, w⟩ := c
    obtain ⟨-, h1, h2⟩ := wf_cons.1 h
    have hab : a < b := h1 (b, w) (by simp)
    intro d hd
    rcases List.mem_cons.1 hd with rfl | hd
    · exact hab
    · exact Nat.lt_trans hab (ih h2 d hd)

/-- An address below everything listed reads the unlisted byte. -/
theorem memRead_below {m : Mem} {a : Nat} (h : ∀ c ∈ m, a < c.1) : memRead m a = unlistedByte := by
  cases m with
  | nil => rfl
  | cons c m =>
    obtain ⟨b, w⟩ := c
    have : a < b := h (b, w) (by simp)
    simp [memRead, Nat.ne_of_lt this, this]

/-- The head of a written memory is the written cell, or the head as it was, or comes after it. -/
theorem memWrite_bound {m : Mem} {a b : Nat} {v : Byte} (hb : b < a) (h : ∀ c ∈ m, b < c.1) :
    ∀ c ∈ memWrite m a v, b < c.1 := by
  induction m with
  | nil => intro c hc; unfold memWrite at hc; split at hc <;> simp_all
  | cons d m ih =>
    obtain ⟨k, w⟩ := d
    have hk : b < k := h (k, w) (by simp)
    have hm : ∀ c ∈ m, b < c.1 := fun c hc => h c (by simp [hc])
    intro c hc
    unfold memWrite at hc
    split at hc
    · split at hc
      · exact h c hc
      · rcases List.mem_cons.1 hc with rfl | hc
        · exact hb
        · exact h c hc
    · split at hc
      · split at hc
        · exact hm c hc
        · rcases List.mem_cons.1 hc with rfl | hc
          · exact hb
          · exact hm c hc
      · rcases List.mem_cons.1 hc with rfl | hc
        · exact hk
        · exact ih hm c hc

theorem wf_of_bound {a : Nat} {v : Byte} {m : Mem} (hv : v ≠ unlistedByte) (h : ∀ c ∈ m, a < c.1)
    (hm : Memory.wf m = true) : Memory.wf ((a, v) :: m) = true := by
  refine wf_cons.2 ⟨hv, ?_, hm⟩
  intro c hc
  exact h c (List.mem_of_mem_head? hc)

/-- A byte write keeps the canonical form. -/
theorem memWrite_wf (m : Mem) (a : Nat) (v : Byte) (h : Memory.wf m = true) : Memory.wf (memWrite m a v) = true := by
  induction m with
  | nil =>
    unfold memWrite; split
    · rfl
    · exact wf_of_bound ‹_› (by simp) rfl
  | cons d m ih =>
    obtain ⟨b, w⟩ := d
    obtain ⟨hw, -, hm⟩ := wf_cons.1 h
    have hlt := wf_head_lt h
    unfold memWrite
    split
    · split
      · exact h
      · refine wf_of_bound ‹_› ?_ h
        intro c hc
        rcases List.mem_cons.1 hc with rfl | hc
        · assumption
        · exact Nat.lt_trans ‹a < b› (hlt c hc)
    · split
      · subst a
        split
        · exact hm
        · exact wf_of_bound ‹_› hlt hm
      · exact wf_of_bound hw (memWrite_bound (by omega) hlt) (ih hm)

theorem memWriteN_wf (bs : List Byte) : ∀ (m : Mem) (a : Nat), Memory.wf m = true → Memory.wf (memWriteN m a bs) = true := by
  induction bs with
  | nil => intro m a h; exact h
  | cons b bs ih => intro m a h; exact ih _ _ (memWrite_wf m a b h)

/-- A part of a canonical memory is canonical. -/
theorem filter_wf (f : Host.Cell → Bool) (m : Mem) (h : Memory.wf m = true) : Memory.wf (m.filter f) = true := by
  induction m with
  | nil => rfl
  | cons d m ih =>
    obtain ⟨b, w⟩ := d
    obtain ⟨hw, -, hm⟩ := wf_cons.1 h
    have hlt := wf_head_lt h
    rw [List.filter_cons]
    split
    · exact wf_of_bound hw (fun c hc => hlt c (List.mem_of_mem_filter hc)) (ih hm)
    · exact ih hm

theorem memSlice_wf (m : Mem) (lo hi : Nat) (h : Memory.wf m = true) : Memory.wf (memSlice m lo hi) = true :=
  filter_wf _ m h

/-- Two canonical memories, the first wholly below the second, join to one. -/
theorem append_wf (m n : Mem) (k : Nat) (hm : Memory.wf m = true) (hn : Memory.wf n = true) (h1 : ∀ c ∈ m, c.1 < k)
    (h2 : ∀ c ∈ n, k ≤ c.1) : Memory.wf (m ++ n) = true := by
  induction m with
  | nil => exact hn
  | cons d m ih =>
    obtain ⟨b, w⟩ := d
    obtain ⟨hw, -, hm'⟩ := wf_cons.1 hm
    have hlt := wf_head_lt hm
    refine wf_of_bound hw ?_ (ih hm' fun c hc => h1 c (by simp [hc]))
    intro c hc
    rcases List.mem_append.1 hc with hc | hc
    · exact hlt c hc
    · have : b < k := h1 (b, w) (by simp)
      exact Nat.lt_of_lt_of_le this (h2 c hc)

/-! ### Reading after writing -/

/-- The byte at the written place is the byte written, in a canonical memory. -/
theorem memRead_memWrite_same (m : Mem) (a : Nat) (v : Byte) (h : Memory.wf m = true) : memRead (memWrite m a v) a = v := by
  induction m with
  | nil => unfold memWrite; split <;> simp_all [memRead]
  | cons d m ih =>
    obtain ⟨b, w⟩ := d
    obtain ⟨-, -, hm⟩ := wf_cons.1 h
    have hlt := wf_head_lt h
    unfold memWrite
    split
    · split
      · subst v
        simp [memRead, Nat.ne_of_lt ‹a < b›, ‹a < b›]
      · simp [memRead]
    · split
      · subst a
        split
        · subst v; exact memRead_below hlt
        · simp [memRead]
      · have h1 : ¬ a < b := ‹_›
        have h2 : ¬ a = b := ‹_›
        simp [memRead, h1, h2, ih hm]

/-- Every other byte reads as before. -/
theorem memRead_memWrite_other (m : Mem) (a k : Nat) (v : Byte) (h : Memory.wf m = true) (hk : k ≠ a) :
    memRead (memWrite m a v) k = memRead m k := by
  induction m with
  | nil =>
    unfold memWrite; split
    · rfl
    · simp [memRead, hk]
  | cons d m ih =>
    obtain ⟨b, w⟩ := d
    obtain ⟨-, -, hm⟩ := wf_cons.1 h
    have hlt := wf_head_lt h
    unfold memWrite
    split
    · split
      · rfl
      · have hab : a < b := ‹_›
        by_cases hka : k < a
        · simp [memRead, hk, hka, Nat.ne_of_lt (Nat.lt_trans hka hab), Nat.lt_trans hka hab]
        · simp [memRead, hk, hka]
    · split
      · subst a
        have hb : memRead ((b, w) :: m) k = memRead m k := by
          by_cases hkb : k < b
          · have : memRead m k = unlistedByte := memRead_below fun c hc => Nat.lt_trans hkb (hlt c hc)
            simp [memRead, hk, hkb, this]
          · simp [memRead, hk, hkb]
        split
        · exact hb.symm
        · rw [hb]
          by_cases hkb : k < b
          · have : memRead m k = unlistedByte := memRead_below fun c hc => Nat.lt_trans hkb (hlt c hc)
            simp [memRead, hk, hkb, this]
          · simp [memRead, hk, hkb]
      · simp only [memRead, ih hm]

/-- A record write: the bytes of the record read back. -/
theorem memRead_memWriteN_in (bs : List Byte) : ∀ (m : Mem) (a k : Nat), Memory.wf m = true → a ≤ k → k < a + bs.length →
    memRead (memWriteN m a bs) k = bs.getD (k - a) 0 := by
  induction bs with
  | nil => intro m a k _ h1 h2; simp at h2; omega
  | cons b bs ih =>
    intro m a k h h1 h2
    simp only [memWriteN]
    by_cases hk : k = a
    · subst k
      have hout : ∀ (bs : List Byte) (m : Mem) (c : Nat), Memory.wf m = true → a < c →
          memRead (memWriteN m c bs) a = memRead m a := by
        intro bs
        induction bs with
        | nil => intro m c _ _; rfl
        | cons x xs ihx =>
          intro m c hm hc
          simp only [memWriteN]
          rw [ihx _ _ (memWrite_wf m c x hm) (by omega), memRead_memWrite_other m c a x hm (by omega)]
      rw [hout bs _ _ (memWrite_wf m a b h) (by omega), memRead_memWrite_same m a b h]
      simp
    · rw [ih _ _ _ (memWrite_wf m a b h) (by omega) (by simp at h2; omega)]
      obtain ⟨d, rfl⟩ : ∃ d, k = a + 1 + d := ⟨k - (a + 1), by omega⟩
      have e1 : a + 1 + d - a = d + 1 := by omega
      have e2 : a + 1 + d - (a + 1) = d := by omega
      rw [e1, e2]; simp

/-- A record write: every byte outside the record reads as before. -/
theorem memRead_memWriteN_out (bs : List Byte) : ∀ (m : Mem) (a k : Nat), Memory.wf m = true → (k < a ∨ a + bs.length ≤ k) →
    memRead (memWriteN m a bs) k = memRead m k := by
  induction bs with
  | nil => intro m a k _ _; rfl
  | cons b bs ih =>
    intro m a k h hk
    simp only [memWriteN]
    simp only [List.length_cons] at hk
    rw [ih _ _ _ (memWrite_wf m a b h) (by omega), memRead_memWrite_other m a k b h (by omega)]

/-! ### Canonical memories that read alike -/

/-- Canonical memories that read alike everywhere are equal. -/
theorem mem_ext : ∀ (m n : Mem), Memory.wf m = true → Memory.wf n = true → (∀ a, memRead m a = memRead n a) → m = n
  | [], [], _, _, _ => rfl
  | [], (b, w) :: n, _, hn, h => absurd (by simpa [memRead] using (h b).symm) (wf_cons.1 hn).1
  | (b, w) :: m, [], hm, _, h => absurd (by simpa [memRead] using h b) (wf_cons.1 hm).1
  | (a, v) :: m, (b, w) :: n, hm, hn, h => by
    obtain ⟨hv, -, hm'⟩ := wf_cons.1 hm
    obtain ⟨hw, -, hn'⟩ := wf_cons.1 hn
    have lm := wf_head_lt hm
    have ln := wf_head_lt hn
    have hab : a = b := by
      rcases Nat.lt_trichotomy a b with hlt | he | hlt
      · exact absurd (by simpa [memRead, Nat.ne_of_lt hlt, hlt] using h a) hv
      · exact he
      · exact absurd (by simpa [memRead, Nat.ne_of_lt hlt, hlt] using (h b).symm) hw
    subst hab
    have hvw : v = w := by simpa [memRead] using h a
    subst hvw
    rw [mem_ext m n hm' hn' fun k => ?_]
    by_cases hk : a < k
    · simpa [memRead, Nat.ne_of_gt hk, Nat.not_lt.2 (Nat.le_of_lt hk)] using h k
    · rw [memRead_below fun c hc => Nat.lt_of_le_of_lt (Nat.not_lt.1 hk) (lm c hc),
        memRead_below fun c hc => Nat.lt_of_le_of_lt (Nat.not_lt.1 hk) (ln c hc)]

/-! ### Several runs of bytes in one access -/

theorem memWriteAll_wf (xs : List Piece) : ∀ m, Memory.wf m = true → Memory.wf (memWriteAll m xs) = true := by
  induction xs with
  | nil => intro m h; exact h
  | cons x xs ih => intro m h; exact ih _ (memWriteN_wf _ _ _ h)

theorem memReadN_getD (m : Mem) (n : Nat) : ∀ a k, k < n → (memReadN m a n).getD k 0 = memRead m (a + k) := by
  induction n with
  | zero => intro a k h; omega
  | succ n ih =>
    intro a k h
    cases k with
    | zero => simp [memReadN]
    | succ k => simpa [memReadN, Nat.add_assoc, Nat.add_comm 1 k] using ih (a + 1) k (by omega)

/-- Several runs of bytes: every byte outside them reads as before. -/
theorem memRead_memWriteAll_out (xs : List Piece) : ∀ (m : Mem) (k : Nat), Memory.wf m = true →
    (∀ x ∈ xs, ¬ (x.addr ≤ k ∧ k < x.addr + x.bytes.length)) → memRead (memWriteAll m xs) k = memRead m k := by
  induction xs with
  | nil => intro m k _ _; rfl
  | cons x xs ih =>
    intro m k hm h
    have hx := h x (by simp)
    have hw := memWriteN_wf x.bytes m x.addr hm
    exact (ih _ k hw fun y hy => h y (by simp [hy])).trans (memRead_memWriteN_out _ _ _ _ hm (by omega))

/-! ### Record accesses granted one after another (R7) -/

@[simp] theorem saturatingInc_toNat (b : Byte) : (saturatingInc b).toNat = min 255 (b.toNat + 1) := by
  revert b; decide

@[simp] theorem noticeBytes_length (n : Notice) (m : Mem) : (noticeBytes n m).length = 2 := by simp [noticeBytes]

@[simp] theorem grantAccesses_nil (m : Mem) : grantAccesses m [] = m := rfl

@[simp] theorem grantAccesses_cons (m : Mem) (x : RecordAccess) (xs : List RecordAccess) :
    grantAccesses m (x :: xs) = grantAccesses (x.effect m) xs := rfl

theorem grantAccesses_append (m : Mem) (xs ys : List RecordAccess) :
    grantAccesses m (xs ++ ys) = grantAccesses (grantAccesses m xs) ys := List.foldl_append

@[simp] theorem effect_write (m : Mem) (a : Nat) (bs : List Byte) : (RecordAccess.write a bs).effect m = memWriteN m a bs := rfl

@[simp] theorem effect_notice (m : Mem) (n : Notice) :
    (RecordAccess.notice n).effect m = memWriteN m noticeAddr (noticeBytes n m) := rfl

@[simp] theorem effect_checkFailure (m : Mem) (area : Byte) (slot : Nat) (bytes : List Byte) :
    (RecordAccess.checkFailure area slot bytes).effect m = memWriteAll m (checkFailurePieces area slot bytes m) := rfl

/-- R24: an answer write that takes place writes the slot, and then REPLY. -/
theorem effect_answer (m : Mem) (i : Fin 8) (bs : List Byte) : (RecordAccess.answer i bs).effect m =
    if answerable m i then
      memWriteN (memWriteN m (slotAddr i) bs) noticeAddr (noticeBytes .reply (memWriteN m (slotAddr i) bs))
    else m := by
  cases h : answerable m i <;> simp [RecordAccess.effect, RecordAccess.next, RecordAccess.pieces, memWriteAll, h]

theorem pieces_wf (x : RecordAccess) (m : Mem) (h : Memory.wf m = true) : Memory.wf (memWriteAll m (x.pieces m)) = true :=
  memWriteAll_wf _ _ h

/-- What comes next has nothing that comes next of its own. -/
theorem effect_eq (m : Mem) (x : RecordAccess) :
    x.effect m = grantAccesses (memWriteAll m (x.pieces m)) (x.next m) := by
  cases x with
  | answer i bs => cases h : answerable m i <;> simp [RecordAccess.effect, RecordAccess.next, memWriteAll, RecordAccess.pieces, h]
  | write a bs => rfl
  | notice n => rfl
  | checkFailure area slot bytes => rfl

theorem effect_wf (x : RecordAccess) (m : Mem) (h : Memory.wf m = true) : Memory.wf (x.effect m) = true := by
  unfold RecordAccess.effect
  generalize x.next m = ys
  have : ∀ (ys : List RecordAccess) (n : Mem), Memory.wf n = true →
      Memory.wf (ys.foldl (fun m y => memWriteAll m (y.pieces m)) n) = true := by
    intro ys
    induction ys with
    | nil => intro n h; exact h
    | cons y ys ih => intro n h; exact ih _ (pieces_wf y n h)
  exact this _ _ (pieces_wf x m h)

theorem grantAccesses_wf (xs : List RecordAccess) : ∀ m, Memory.wf m = true → Memory.wf (grantAccesses m xs) = true := by
  induction xs with
  | nil => intro m h; exact h
  | cons x xs ih => intro m h; exact ih _ (effect_wf x m h)

/-! ### Some of them granted (R7) -/

@[simp] theorem grantSome_zero (m : Mem) (w : List RecordAccess) : grantSome 0 m w = (m, w) := rfl

@[simp] theorem grantSome_nil (n : Nat) (m : Mem) : grantSome n m [] = (m, []) := by cases n <;> rfl

theorem grantSome_cons (n : Nat) (m : Mem) (x : RecordAccess) (w : List RecordAccess) :
    grantSome (n + 1) m (x :: w) = grantSome n (memWriteAll m (x.pieces m)) (x.next m ++ w) := rfl

/-- Some are granted, and then some more. -/
theorem grantSome_add (j : Nat) : ∀ (k : Nat) (m : Mem) (w : List RecordAccess),
    grantSome (k + j) m w = grantSome j (grantSome k m w).1 (grantSome k m w).2
  | 0, m, w => by simp
  | k + 1, m, [] => by simp
  | k + 1, m, x :: w => by rw [Nat.add_right_comm, grantSome_cons, grantSome_cons]; exact grantSome_add j k _ _

/-- Some accesses granted, and then the others, are all of them granted. -/
theorem grantSome_rest : ∀ (n : Nat) (m : Mem) (w : List RecordAccess),
    grantAccesses (grantSome n m w).1 (grantSome n m w).2 = grantAccesses m w
  | 0, _, _ => rfl
  | n + 1, m, [] => by simp
  | n + 1, m, x :: w => by
    rw [grantSome_cons, grantSome_rest n, grantAccesses_append, ← effect_eq, grantAccesses_cons]

theorem grantSome_wf : ∀ (n : Nat) (m : Mem) (w : List RecordAccess), Memory.wf m = true →
    Memory.wf (grantSome n m w).1 = true
  | 0, _, _, h => h
  | n + 1, m, [], h => by simpa using h
  | n + 1, m, x :: w, h => by rw [grantSome_cons]; exact grantSome_wf n _ _ (pieces_wf x m h)

/-- REPLY, or nothing, comes next. -/
theorem next_cases (x : RecordAccess) (m : Mem) : x.next m = [] ∨ x.next m = [.notice .reply] := by
  cases x with
  | answer i bs => cases h : answerable m i <;> simp [RecordAccess.next, h]
  | write a bs => exact .inl rfl
  | notice n => exact .inl rfl
  | checkFailure area slot bytes => exact .inl rfl

/-- Enough grants come to the end of a queue, and leave what stands behind it. -/
theorem grantSome_all (w : List RecordAccess) : ∀ m : Mem,
    ∃ k, ∀ ys, grantSome k m (w ++ ys) = (grantAccesses m w, ys) := by
  induction w with
  | nil => intro m; exact ⟨0, fun ys => rfl⟩
  | cons x w ih =>
    intro m
    obtain ⟨k, hk⟩ := ih (x.effect m)
    simp only [effect_eq] at hk
    rcases next_cases x m with hn | hn
    · rw [hn] at hk
      exact ⟨k + 1, fun ys => by
        rw [List.cons_append, grantSome_cons, hn, grantAccesses_cons, effect_eq, hn]; exact hk ys⟩
    · rw [hn] at hk
      exact ⟨k + 2, fun ys => by
        rw [List.cons_append, grantSome_cons, hn, grantAccesses_cons, effect_eq, hn]; exact hk ys⟩

/-- A record access leaves the byte at `k`, whatever memory it finds. -/
def RecordAccess.avoids (k : Nat) : RecordAccess → Prop
  | .write a bs => ¬ (a ≤ k ∧ k < a + bs.length)
  | .notice _ => ¬ (0x08 ≤ k ∧ k < 0x0A)
  | .checkFailure _ _ _ => ¬ (0x08 ≤ k ∧ k < 0x0A) ∧ ¬ (0x1C0 ≤ k ∧ k < 0x1D0)
  | .answer i bs => ¬ (0x08 ≤ k ∧ k < 0x0A) ∧ ¬ (slotAddr i ≤ k ∧ k < slotAddr i + bs.length)

theorem pieces_avoid {k : Nat} {x : RecordAccess} (h : x.avoids k) (m : Mem) :
    ∀ y ∈ x.pieces m, ¬ (y.addr ≤ k ∧ k < y.addr + y.bytes.length) := by
  cases x with
  | write a bs =>
    intro y hy
    obtain rfl := List.mem_singleton.1 hy
    exact h
  | notice n =>
    intro y hy
    obtain rfl := List.mem_singleton.1 hy
    simp only [RecordAccess.avoids] at h
    simp [noticeAddr]; omega
  | checkFailure area slot bytes =>
    obtain ⟨h1, h2⟩ := h
    intro y hy
    simp only [RecordAccess.pieces, checkFailurePieces] at hy
    split at hy
    · obtain rfl := List.mem_singleton.1 hy
      simp only [checkRecordAddr, List.length_singleton]; omega
    · rcases List.mem_cons.1 hy with rfl | hy
      · simp [checkRecordAddr]; omega
      · obtain rfl := List.mem_singleton.1 hy
        simp [noticeAddr]; omega
  | answer i bs =>
    intro y hy
    simp only [RecordAccess.pieces] at hy
    split at hy
    · obtain rfl := List.mem_singleton.1 hy; exact h.2
    · simp at hy

/-- What comes next leaves the bytes that the access itself leaves. -/
theorem next_avoid {k : Nat} {x : RecordAccess} (h : x.avoids k) (m : Mem) : ∀ y ∈ x.next m, y.avoids k := by
  cases x with
  | answer i bs =>
    intro y hy
    simp only [RecordAccess.next] at hy
    split at hy
    · obtain rfl := List.mem_singleton.1 hy; exact h.1
    · simp at hy
  | write a bs => simp [RecordAccess.next]
  | notice n => simp [RecordAccess.next]
  | checkFailure area slot bytes => simp [RecordAccess.next]

/-- A byte that the access leaves reads as before. -/
theorem memRead_effect_out (x : RecordAccess) (k : Nat) (m : Mem) (hm : Memory.wf m = true) (h : x.avoids k) :
    memRead (x.effect m) k = memRead m k := by
  have : ∀ (ys : List RecordAccess) (n : Mem), Memory.wf n = true → (∀ y ∈ ys, y.avoids k) →
      memRead (ys.foldl (fun m y => memWriteAll m (y.pieces m)) n) k = memRead n k := by
    intro ys
    induction ys with
    | nil => intro n _ _; rfl
    | cons y ys ih =>
      intro n hn hy
      exact (ih _ (pieces_wf y n hn) fun z hz => hy z (by simp [hz])).trans
        (memRead_memWriteAll_out _ _ _ hn (pieces_avoid (hy y (by simp)) n))
  exact (this _ _ (pieces_wf x m hm) (next_avoid h m)).trans (memRead_memWriteAll_out _ _ _ hm (pieces_avoid h m))

/-- A byte that every one of them leaves reads as before. -/
theorem memRead_grantAccesses_out (xs : List RecordAccess) (k : Nat) : ∀ m, Memory.wf m = true → (∀ x ∈ xs, x.avoids k) →
    memRead (grantAccesses m xs) k = memRead m k := by
  induction xs with
  | nil => intro m _ _; rfl
  | cons x xs ih =>
    intro m hm h
    exact (ih _ (effect_wf x m hm) fun y hy => h y (by simp [hy])).trans (memRead_effect_out x k m hm (h x (by simp)))

/-! ### The part's accesses -/

/-- The memory with nothing waiting is as the link meets it. -/
theorem mem_of_idle (p : Part) (h : p.arb.waiting = []) : p.mem = p.exch := by simp [Part.mem, h]

theorem mem_wf (p : Part) (h : Memory.wf p.exch = true) : Memory.wf p.mem = true := grantAccesses_wf _ _ h

/-- R7: a record access that is asked for changes the memory once it is granted, after those that wait. -/
theorem request_mem (p : Part) (x : RecordAccess) : (p.request x).mem = x.effect p.mem :=
  grantAccesses_append _ _ _

theorem storeByte_eq (p : Part) (a : Nat) (v : Byte) : p.storeByte a v = { p with exch := memWrite p.exch a v } := rfl

theorem storeBytes_eq (p : Part) (a : Nat) (bs : List Byte) : p.storeBytes a bs = { p with exch := memWriteN p.exch a bs } := rfl

/-- R10: a rewrite writes the body between two equal edition bytes, one above the edition before. -/
theorem rewriteRecord_eq (p : Part) (a : Nat) (body : List Byte) :
    p.rewriteRecord a body = p.store a ((memRead p.mem a + 1) :: (body ++ [memRead p.mem a + 1])) := rfl

/-- R7: what is granted from the front leaves the memory that the rest, once granted, makes of it. -/
theorem grantRecords_mem (p : Part) (n : Nat) : (p.grantRecords n).mem = p.mem := grantSome_rest _ _ _

theorem grantAll_eq (p : Part) : p.grantAll = { p with
    exch := p.mem, arb := { p.arb with last := if p.arb.waiting.isEmpty then p.arb.last else .record, waiting := [] } } := rfl

theorem grantReading_eq (p : Part) :
    p.grantReading = { p with exch := p.mem, arb := { p.arb with last := .record, waiting := [] } } := by
  simp [Part.grantReading, grantAll_eq]

/-- A second reading access finds nothing waiting. -/
theorem grantReading_grantReading (p : Part) : p.grantReading.grantReading = p.grantReading := by
  simp [grantReading_eq, Part.mem]

/-- R7: the grant of a link byte access: the record accesses granted before it, and the link as the side of the last grant. -/
theorem grantLink_eq (p : Part) : p.grantLink = { p with
    exch := (grantSome p.arb.beforeLink p.exch p.arb.waiting).1
    arb := { last := .link, waiting := (grantSome p.arb.beforeLink p.exch p.arb.waiting).2, idx := p.arb.idx + 1 } } := rfl

theorem grantLink_mem (p : Part) : p.grantLink.mem = p.mem := grantSome_rest _ _ _

/-- R7: where the link held the last grant, a waiting record access comes first. -/
theorem beforeLink_pos (r : Arbiter) (h : r.last = .link) : 0 < r.beforeLink := by
  simp [Arbiter.beforeLink, h]

/-! ### Runs of record accesses -/

/-- Accesses one after another wait behind the others, and change nothing else. -/
theorem runAll_eq (xs : List Piece) : ∀ p : Part, xs.foldl (fun q x => q.store x.addr x.bytes) p =
    { p with arb := { p.arb with waiting := p.arb.waiting ++ xs.map fun x => .write x.addr x.bytes } } := by
  induction xs with
  | nil => intro p; simp
  | cons x xs ih => intro p; simp only [List.foldl_cons, ih]; simp [Part.store, Part.request]

/-- The run of a long record leaves the memory that one access over the whole of it would leave. -/
theorem pieces_write (n : Nat) : ∀ (a : Nat) (bs : List Byte) (m : Mem), Memory.wf m = true → bs.length ≤ 32 * n →
    grantAccesses m ((pieces n a bs).map fun x => .write x.addr x.bytes) = memWriteN m a bs := by
  induction n with
  | zero =>
    intro a bs m _ h
    have : bs = [] := List.eq_nil_of_length_eq_zero (by omega)
    subst this; rfl
  | succ n ih =>
    intro a bs m hm h
    simp only [pieces, List.map_append, grantAccesses_append, List.map_cons, List.map_nil]
    rw [ih _ _ _ hm (by simp; omega)]
    have hd := memWriteN_wf (bs.drop 32) m (a + 32) hm
    refine mem_ext _ _ (memWriteN_wf _ _ _ hd) (memWriteN_wf _ _ _ hm) fun k => ?_
    by_cases h1 : a ≤ k ∧ k < a + bs.length
    · rw [memRead_memWriteN_in bs m a k hm h1.1 h1.2]
      simp only [grantAccesses_cons, grantAccesses_nil, effect_write]
      by_cases h2 : k < a + 32
      · rw [memRead_memWriteN_in _ _ _ _ hd h1.1 (by simp; omega)]
        simp [List.getD_eq_getElem?_getD, show k - a < 32 by omega]
      · rw [memRead_memWriteN_out _ _ _ _ hd (by simp; omega),
          memRead_memWriteN_in _ _ _ _ hm (by omega) (by simp; omega)]
        simp [List.getD_eq_getElem?_getD, show 32 + (k - (a + 32)) = k - a by omega]
    · simp only [grantAccesses_cons, grantAccesses_nil, effect_write]
      rw [memRead_memWriteN_out bs m a k hm (by omega), memRead_memWriteN_out _ _ _ _ hd (by simp; omega),
        memRead_memWriteN_out _ _ _ _ hm (by simp; omega)]

/-- R8: a run asks for one access for each piece, behind those that wait. -/
theorem storeRun_eq (p : Part) (a : Nat) (bs : List Byte) : p.storeRun a bs = { p with
    arb := { p.arb with
      waiting := p.arb.waiting ++ (pieces ((bs.length + 31) / 32) a bs).map fun x => .write x.addr x.bytes } } := runAll_eq _ p

/-- R8: a run leaves the memory that one access over the whole record would leave. -/
theorem storeRun_mem (p : Part) (a : Nat) (bs : List Byte) (h : Memory.wf p.exch = true) :
    (p.storeRun a bs).mem = memWriteN p.mem a bs := by
  rw [storeRun_eq]
  exact (grantAccesses_append _ _ _).trans (pieces_write _ _ _ _ (mem_wf p h) (by omega))

/-- R8, R10: a rewrite of a long record leaves the body between two equal edition bytes, one above the edition before. -/
theorem rewriteLongRecord_mem (p : Part) (a : Nat) (body : List Byte) (h : Memory.wf p.exch = true) :
    (p.rewriteLongRecord a body).mem = (p.rewriteRecord a body).mem :=
  (storeRun_mem p a _ h).trans (request_mem p (.write a (editioned p.mem a body))).symm

/-! ### What asking and granting make of the arbiter -/

/-- Record accesses that a block may ask for have been asked for since `p`, behind those that waited, and none has been
granted. -/
def Requested (p q : Part) : Prop :=
  q.exch = p.exch ∧ ∃ new, (∀ x ∈ new, blockAccess x) ∧ q.arb = { p.arb with waiting := p.arb.waiting ++ new }

theorem Requested.refl (p : Part) : Requested p p := ⟨rfl, [], by simp, by simp⟩

theorem Requested.request {p q : Part} {x : RecordAccess} (hx : blockAccess x) (h : Requested p q) :
    Requested p (q.request x) := by
  obtain ⟨h1, new, h2, h3⟩ := h
  refine ⟨h1, new ++ [x], fun y hy => ?_, by simp [Part.request, h3]⟩
  rcases List.mem_append.1 hy with hy | hy
  · exact h2 y hy
  · obtain rfl := List.mem_singleton.1 hy; exact hx

/-- Record accesses that a block may ask for have been asked for since `p`, behind those that waited, and either none has been
granted, or all that waited have and then some of the new ones, whatever may be asked for behind them. -/
def Granted (p q : Part) : Prop :=
  q.arb.idx = p.arb.idx ∧ ∃ new, (∀ x ∈ new, blockAccess x) ∧
    ((q.exch = p.exch ∧ q.arb.waiting = p.arb.waiting ++ new) ∨
      ∃ k, ∀ ys, grantSome k p.mem (new ++ ys) = (q.exch, q.arb.waiting ++ ys))

theorem Granted.refl (p : Part) : Granted p p := ⟨rfl, [], by simp, .inl ⟨rfl, by simp⟩⟩

/-- R7: a record access is asked for behind the others. -/
theorem Granted.request {p q : Part} {x : RecordAccess} (hx : blockAccess x) (h : Granted p q) : Granted p (q.request x) := by
  obtain ⟨h1, new, h2, h3⟩ := h
  refine ⟨h1, new ++ [x], fun y hy => ?_, ?_⟩
  · rcases List.mem_append.1 hy with hy | hy
    · exact h2 y hy
    · obtain rfl := List.mem_singleton.1 hy; exact hx
  · rcases h3 with ⟨h3, h4⟩ | ⟨k, hk⟩
    · exact .inl ⟨h3, by simp [Part.request, h4]⟩
    · exact .inr ⟨k, fun ys => by simpa [Part.request] using hk (x :: ys)⟩

/-- R7: all that wait are granted. -/
theorem Granted.grantAll {p q : Part} (h : Granted p q) : Granted p q.grantAll := by
  obtain ⟨h1, new, h2, h3⟩ := h
  refine ⟨h1, new, h2, .inr ?_⟩
  rcases h3 with ⟨h3, h4⟩ | ⟨k, hk⟩
  · obtain ⟨j, hj⟩ := grantSome_all new p.mem
    exact ⟨j, fun ys => by rw [hj]; simp only [grantAll_eq, Part.mem, h3, h4, grantAccesses_append, List.nil_append]⟩
  · obtain ⟨j, hj⟩ := grantSome_all q.arb.waiting q.exch
    exact ⟨k + j, fun ys => by rw [grantSome_add, hk ys]; simpa [grantAll_eq, Part.mem] using hj ys⟩

/-- R7: the side of the last grant is no part of it. -/
theorem Granted.last {p q : Part} (x : Side) (h : Granted p q) : Granted p { q with arb := { q.arb with last := x } } := h

theorem Granted.grantReading {p q : Part} (h : Granted p q) : Granted p q.grantReading := Granted.last _ h.grantAll

end Sys2Proof.Machine
end

