-- ==== Sys2Proof/Laws/Closed.lean ====
section
/-! SUPPORT. What each shared operation can touch, said once: a property that is closed under the writes an operation's block
makes is kept by the operation. Taking for the property "this field is as it was" gives the operation's frame; taking
"the memory is in canonical form", or "these bytes of the host are as they were", gives that they stay so. -/

set_option linter.unusedTactic false
set_option linter.unreachableTactic false

namespace Sys2Proof.Machine

/-- Closed under record accesses that write the part's own bytes of exchange memory. -/
structure MemClosed (P : Part → Prop) : Prop where
  store : ∀ p a bs, ownRecord a bs.length → P p → P (p.store a bs)
  notice : ∀ p n, P p → P (setNotice n p)
  check : ∀ p area slot bytes, blockAccess (.checkFailure area slot bytes) → P p → P (logCheckFailure area slot bytes p)

/-- Closed under writes to the part's own bytes within a link byte access as well. -/
structure OwnClosed (P : Part → Prop) : Prop where
  own : ∀ p a v, partByte a → P p → P { p with exch := memWrite p.exch a v }

/-- Closed under what the Journal writes. -/
structure JournalClosed (P : Part → Prop) : Prop extends MemClosed P where
  jour : ∀ p x, P p → P { p with jour := x }

/-- Closed under what the Lamp Unit, the chime and the Panel Unit write. -/
structure LampClosed (P : Part → Prop) : Prop extends MemClosed P where
  lamps : ∀ p x, P p → P { p with lamps := x }
  lampU : ∀ p x, P p → P { p with lampU := x }
  chime : ∀ p x, P p → P { p with chime := x }
  panel : ∀ p x, P p → P { p with panel := x }

/-- Closed under what the Pointer Unit writes. -/
structure PtrClosed (P : Part → Prop) : Prop extends MemClosed P where
  ptrs : ∀ p x, P p → P { p with ptrs := x }

/-- Closed under what the Accounting Unit and those it tells write. -/
structure AcctClosed (P : Part → Prop) : Prop extends LampClosed P, JournalClosed P where
  acct : ∀ p x, P p → P { p with acct := x }

/-- Closed under what the Channel Table and its consumers write. -/
structure ChanClosed (P : Part → Prop) : Prop extends AcctClosed P, PtrClosed P where
  chans : ∀ p x, P p → P { p with chans := x }

variable {P : Part → Prop} {p : Part}

/-! ### Record accesses, and the lengths of records -/

theorem partByte_iff {a : Nat} : partByte a ↔ a < 0x0A ∨ (0x0C ≤ a ∧ a < 0x40) ∨ (0x1C0 ≤ a ∧ a < 0x1000) := Iff.rfl

/-- A run of bytes lies within the part's own bytes, clear of the notice word. -/
def ownRun (a n : Nat) : Prop := a + n ≤ 0x08 ∨ (0x0C ≤ a ∧ a + n ≤ 0x40) ∨ (0x1C0 ≤ a ∧ a + n ≤ 0x1000)

theorem store_closed (h : MemClosed P) (bs : List Byte) (a : Nat) {p : Part} (hb : ownRecord a bs.length) (hp : P p) :
    P (p.store a bs) := h.store p a bs hb hp

theorem ownRecord_partByte {a n : Nat} (h : ownRecord a n) : ∀ k, inRecord a n k → partByte k ∧ ¬ noticeByte k := by
  intro k ⟨h1, h2⟩
  simp only [ownRecord] at h
  simp only [partByte_iff, noticeByte, inRecord, noticeAddr]
  omega

theorem storeBytes_closed (h : OwnClosed P) (bs : List Byte) :
    ∀ (a : Nat) {p : Part}, (∀ k, k < bs.length → partByte (a + k)) → P p → P (p.storeBytes a bs) := by
  induction bs with
  | nil => intro a p _ hp; exact hp
  | cons b bs ih =>
    intro a p hb hp
    refine ih (a + 1) (fun k hk => ?_) (h.own p a b (by simpa using hb 0 (by simp)) hp)
    have e : a + 1 + k = a + (k + 1) := by omega
    rw [e]; exact hb (k + 1) (by simp only [List.length_cons]; omega)

/-- The pieces of a long record lie within it, each of 1 to 32 bytes. -/
theorem pieces_within (n : Nat) : ∀ (a : Nat) (bs : List Byte), n = (bs.length + 31) / 32 → ∀ x ∈ pieces n a bs,
    1 ≤ x.bytes.length ∧ x.bytes.length ≤ 32 ∧ a ≤ x.addr ∧ x.addr + x.bytes.length ≤ a + bs.length := by
  induction n with
  | zero => simp [pieces]
  | succ n ih =>
    intro a bs hn x hx
    rcases List.mem_append.1 hx with hx | hx
    · have := ih (a + 32) (bs.drop 32) (by simp; omega) x hx
      simp only [List.length_drop] at this
      omega
    · obtain rfl := List.mem_singleton.1 hx
      simp only [List.length_take]
      omega

theorem storeRun_closed (h : MemClosed P) (a : Nat) (bs : List Byte) (hb : ownRun a bs.length) (hp : P p) :
    P (p.storeRun a bs) := by
  have run : ∀ (xs : List Piece) (q : Part), P q → (∀ x ∈ xs, ownRecord x.addr x.bytes.length) →
      P (xs.foldl (fun q x => q.store x.addr x.bytes) q) := by
    intro xs
    induction xs with
    | nil => intro q hq _; exact hq
    | cons x xs ih => intro q hq hx; exact ih _ (h.store q _ _ (hx x (by simp)) hq) fun y hy => hx y (by simp [hy])
  refine run _ p hp fun x hx => ?_
  have := pieces_within _ a bs rfl x hx
  simp only [ownRun] at hb
  simp only [ownRecord]
  omega

theorem storeByte_closed (h : OwnClosed P) (a : Nat) (v : Byte) (ha : partByte a) (hp : P p) : P (p.storeByte a v) :=
  h.own p a v ha hp

@[simp] theorem chanBody_length (c : Chan) : (chanBody c).length = 14 := by simp [chanBody]
@[simp] theorem ptrBody_length (x : Ptr) : (ptrBody x).length = 14 := by simp [ptrBody]
@[simp] theorem lampBody_length (l : Lamp) : (lampBody l).length = 6 := rfl
@[simp] theorem summaryBody_length (a : Acct) : (summaryBody a).length = 30 := by simp [summaryBody]

@[simp] theorem seatBody_length (a : Acct) (id : SeatId) : (seatBody a id).length = 62 := by
  unfold seatBody; split <;> simp

theorem entryBody_length (sub : Submission) : (entryBody sub).data.length ≤ 23 := by
  cases sub <;> simp [entryBody]

theorem entryBytes_length (seq : Half) (clock : Word) (valid : Bool) (b : EntryBody) (hb : b.data.length ≤ 23) :
    (entryBytes seq clock valid b).length = 32 := by
  simp [entryBytes]; omega

@[simp] theorem placeCells_length (bs : List Byte) : ∀ (n : Nat) (cells : List Byte),
    (placeCells n bs cells).length = cells.length := by
  induction bs with
  | nil => intro n cells; rfl
  | cons b bs ih => intro n cells; simp [placeCells, ih]

@[simp] theorem renderPage_length (page : Nat) (p : Part) : (renderPage page p).length = 80 := by
  unfold renderPage
  generalize hc : (memReadN p.working (pageAddr page) 80).map renderByte = cells
  have hl : cells.length = 80 := by rw [← hc]; simp
  clear hc
  induction pageFields p.working page generalizing cells with
  | nil => exact hl
  | cons f fs ih => exact ih _ (by simp [placeField, hl])

@[simp] theorem baseCells_length (p : Part) : (baseCells p).length = 80 := by
  unfold baseCells
  split
  · split <;> simp
  · simp

@[simp] theorem composeFrame_length (p : Part) : (composeFrame p).cells.length = 80 := by
  simp only [composeFrame]
  split <;> simp [messageCells]

theorem mirrorBody_length (f : Frame) (p : Part) (hf : f.cells.length = 80) : (mirrorBody f p).length = 126 := by
  simp [mirrorBody, hf]

theorem forEach_closed {α : Type} {f : α → Part → Part} (hf : ∀ i p, P p → P (f i p)) :
    ∀ (is : List α) {p : Part}, P p → P (forEach is f p) := by
  intro is
  induction is with
  | nil => intro p hp; exact hp
  | cons i is ih => intro p hp; exact ih (hf i p hp)

theorem onlyIf_closed {f : Part → Part} (hf : ∀ p, P p → P (f p)) (c : Bool) (hp : P p) : P (onlyIf c f p) := by
  unfold onlyIf; split
  · exact hf p hp
  · exact hp

theorem setNotice_closed (h : MemClosed P) (n : Notice) (hp : P p) : P (setNotice n p) := h.notice _ _ hp

theorem emptyCheckRecord_closed (h : OwnClosed P) (hp : P p) : P (emptyCheckRecord p) := storeBytes_closed h _ _ (by simp [partByte_iff, checkRecordAddr]; omega) hp

theorem emptyProtectionRecord_closed (h : OwnClosed P) (hp : P p) : P (emptyProtectionRecord p) := storeBytes_closed h _ _ (by simp [partByte_iff, protectionRecordAddr]; omega) hp

theorem clearNotices_closed (h : OwnClosed P) (high : Bool) (v : Byte) (hp : P p) : P (clearNotices high v p) := by
  unfold clearNotices
  dsimp only
  refine onlyIf_closed (fun _ hq => emptyProtectionRecord_closed h hq) _ (onlyIf_closed (fun _ hq => emptyCheckRecord_closed h hq) _ ?_)
  refine storeByte_closed h _ _ ?_ hp
  cases high <;> simp [partByte_iff, noticeAddr]

theorem protectedWrite_closed (h : OwnClosed P) (cause : ProtCause) (a : Nat) (v : Byte) (hp : P p) : P (protectedWrite cause a v p) := by
  unfold protectedWrite
  split
  · exact storeByte_closed h _ _ (by simp [partByte_iff, protectionRecordAddr]) hp
  · exact storeBytes_closed h _ _ (by simp [partByte_iff, noticeAddr]; omega)
      (storeBytes_closed h _ _ (by simp [partByte_iff, protectionRecordAddr]; omega) hp)

theorem logCheckFailure_closed (h : MemClosed P) (area : Byte) (slot : Nat) (bytes : List Byte) (hb : blockAccess (.checkFailure area slot bytes)) (hp : P p) :
    P (logCheckFailure area slot bytes p) := h.check _ _ _ _ hb hp

theorem writeCommitResult_closed (h : MemClosed P) (table index reason : Nat) (hp : P p) : P (writeCommitResult table index reason p) := setNotice_closed h _ (store_closed h _ _ (by simp [ownRecord]) hp)

theorem writeJournalControl_closed (h : JournalClosed P) (hp : P p) : P (writeJournalControl p) := store_closed h.toMemClosed _ _ (by simp [ownRecord, journalControlAddr]) hp

theorem recordEntry_closed (h : JournalClosed P) (b : EntryBody) (lost : Half) (hb : b.data.length ≤ 23) (hp : P p) : P (recordEntry b lost p) := by
  have hs := store_closed (p := p) h.toMemClosed (entryBytes p.jour.seq p.acct.clock p.acct.timeValid b)
    (journalEntryAddr p.jour.wm) (by
      rw [entryBytes_length _ _ _ _ hb]
      have := p.jour.wm.isLt
      simp only [ownRecord, journalEntryAddr]; omega) hp
  exact writeJournalControl_closed h (h.jour _ _ hs)

theorem writeEntry_closed (h : JournalClosed P) (b : EntryBody) (lost : Half) (hb : b.data.length ≤ 23) (hp : P p) : P (writeEntry b lost p) :=
  setNotice_closed h.toMemClosed _ (recordEntry_closed h b lost hb hp)

theorem loseEntry_closed (h : JournalClosed P) (hp : P p) : P (loseEntry p) := by
  unfold loseEntry
  try dsimp only
  repeat' split
  all_goals with_reducible repeat' (first | assumption | refine setNotice_closed h.toMemClosed _ ?_ | refine writeJournalControl_closed h ?_ | refine h.jour _ _ ?_ | split)

theorem submit_closed (h : JournalClosed P) (sub : Submission) (hp : P p) : P (submit sub p) := by
  unfold submit; split
  · exact writeEntry_closed h _ _ (entryBody_length sub) hp
  · exact loseEntry_closed h hp

theorem writeGap_closed (h : JournalClosed P) (hp : P p) : P (writeGap p) := by
  unfold writeGap; split
  · exact writeEntry_closed h _ _ (by simp [gapBody]) hp
  · exact hp

theorem rewriteChan_closed (h : MemClosed P) (c : Fin 32) (hp : P p) : P (rewriteChan c p) := store_closed h _ _ (by have := c.isLt; simp [editioned, ownRecord, chanResultAddr]; omega) hp

theorem rewritePtr_closed (h : MemClosed P) (i : Fin 6) (hp : P p) : P (rewritePtr i p) := store_closed h _ _ (by have := i.isLt; simp [editioned, ownRecord, ptrResultAddr]; omega) hp

theorem rewriteLamp_closed (h : MemClosed P) (i : Fin 32) (hp : P p) : P (rewriteLamp i p) := store_closed h _ _ (by have := i.isLt; simp [editioned, ownRecord, lampResultAddr]; omega) hp

theorem setChan_closed (h : ChanClosed P) (c : Fin 32) (f : Chan → Chan) (hp : P p) : P (setChan c f p) := h.chans _ _ hp

theorem setPtr_closed (h : PtrClosed P) (i : Fin 6) (f : Ptr → Ptr) (hp : P p) : P (setPtr i f p) := h.ptrs _ _ hp

theorem setLamp_closed (h : LampClosed P) (i : Fin 32) (f : Lamp → Lamp) (hp : P p) : P (setLamp i f p) := h.lamps _ _ hp

theorem updPtr_closed (h : PtrClosed P) (i : Fin 6) (f : Ptr → Ptr) (hp : P p) : P (updPtr i f p) := by
  unfold updPtr
  try dsimp only
  repeat' split
  all_goals with_reducible repeat' (first | assumption | refine rewritePtr_closed h.toMemClosed _ ?_ | refine setPtr_closed h _ _ ?_ | refine onlyIf_closed (fun _ _ => ?_) _ ?_ | split)

theorem updLamp_closed (h : LampClosed P) (i : Fin 32) (f : Lamp → Lamp) (hp : P p) : P (updLamp i f p) := by
  unfold updLamp
  try dsimp only
  repeat' split
  all_goals with_reducible repeat' (first | assumption | refine rewriteLamp_closed h.toMemClosed _ ?_ | refine setLamp_closed h _ _ ?_ | refine onlyIf_closed (fun _ _ => ?_) _ ?_ | split)

theorem setChime_closed (h : LampClosed P) (f : Chime → Chime) (hp : P p) : P (setChime f p) := h.chime _ _ hp

theorem satisfyServed_closed (h : LampClosed P) (hp : P p) : P (satisfyServed p) := by
  unfold satisfyServed
  try dsimp only
  repeat' split
  all_goals with_reducible repeat' (first | assumption | refine setLamp_closed h _ _ ?_ | refine setChime_closed h _ ?_ | refine forEach_closed (fun _ _ _ => ?_) _ ?_ | split)

theorem startTone_closed (h : LampClosed P) (hp : P p) : P (startTone p) := by
  unfold startTone
  try dsimp only
  repeat' split
  all_goals with_reducible repeat' (first | assumption | refine setChime_closed h _ ?_ | split)

theorem chimeIdle_closed (h : LampClosed P) (hp : P p) : P (chimeIdle p) := by
  unfold chimeIdle
  try dsimp only
  repeat' split
  all_goals with_reducible repeat' (first | assumption | refine setChime_closed h _ ?_ | refine startTone_closed h ?_ | split)

theorem chimeDemand_closed (h : LampClosed P) (i : Fin 32) (hp : P p) : P (chimeDemand i p) := by
  unfold chimeDemand
  try dsimp only
  repeat' split
  all_goals with_reducible repeat' (first | assumption | refine satisfyServed_closed h ?_ | refine startTone_closed h ?_ | refine chimeIdle_closed h ?_ | split)

theorem chimeWithdraw_closed (h : LampClosed P) (i : Fin 32) (hp : P p) : P (chimeWithdraw i p) := by
  unfold chimeWithdraw
  try dsimp only
  repeat' split
  all_goals with_reducible repeat' (first | assumption | refine setLamp_closed h _ _ ?_ | refine setChime_closed h _ ?_ | split)

theorem chimeStop_closed (h : LampClosed P) (hp : P p) : P (chimeStop p) := by
  unfold chimeStop
  try dsimp only
  repeat' split
  all_goals with_reducible repeat' (first | assumption | refine setChime_closed h _ ?_ | refine satisfyServed_closed h ?_ | split)

theorem chimeSync_closed (h : LampClosed P) (hp : P p) : P (chimeSync p) := by
  unfold chimeSync
  try dsimp only
  repeat' split
  all_goals with_reducible repeat' (first | assumption | refine setChime_closed h _ ?_ | refine chimeIdle_closed h ?_ | refine chimeStop_closed h ?_ | split)

theorem startTestTone_closed (h : LampClosed P) (hp : P p) : P (startTestTone p) := by
  unfold startTestTone
  try dsimp only
  repeat' split
  all_goals with_reducible repeat' (first | assumption | refine setChime_closed h _ ?_ | split)

theorem stopTestTone_closed (h : LampClosed P) (hp : P p) : P (stopTestTone p) := by
  unfold stopTestTone
  try dsimp only
  repeat' split
  all_goals with_reducible repeat' (first | assumption | refine setChime_closed h _ ?_ | split)

theorem muteTestTone_closed (h : LampClosed P) (hp : P p) : P (muteTestTone p) := by
  unfold muteTestTone
  try dsimp only
  repeat' split
  all_goals with_reducible repeat' (first | assumption | refine setChime_closed h _ ?_ | split)

theorem chimeReset_closed (h : LampClosed P) (hp : P p) : P (chimeReset p) := by
  unfold chimeReset
  try dsimp only
  repeat' split
  all_goals with_reducible repeat' (first | assumption | refine setLamp_closed h _ _ ?_ | refine forEach_closed (fun _ _ _ => ?_) _ ?_ | refine h.chime _ _ ?_ | split)

theorem chimeToneEnd_closed (h : LampClosed P) (hp : P p) : P (chimeToneEnd p) := by
  unfold chimeToneEnd
  try dsimp only
  repeat' split
  all_goals with_reducible repeat' (first | assumption | refine setChime_closed h _ ?_ | refine satisfyServed_closed h ?_ | split)

theorem chimeGapEnd_closed (h : LampClosed P) (hp : P p) : P (chimeGapEnd p) := by
  unfold chimeGapEnd
  try dsimp only
  repeat' split
  all_goals with_reducible repeat' (first | assumption | refine chimeIdle_closed h ?_ | split)

theorem setPanel_closed (h : LampClosed P) (f : Panel → Panel) (hp : P p) : P (setPanel f p) := h.panel _ _ hp

theorem setMsg_closed (h : LampClosed P) (i : Fin 32) (m : MsgState) (hp : P p) : P (setMsg i m p) := by
  unfold setMsg
  try dsimp only
  repeat' split
  all_goals with_reducible repeat' (first | assumption | refine updLamp_closed h _ _ ?_ | split)

theorem syncShown_closed (h : LampClosed P) (hp : P p) : P (syncShown p) := by
  unfold syncShown
  try dsimp only
  repeat' split
  all_goals with_reducible repeat' (first | assumption | refine setMsg_closed h _ _ ?_ | refine forEach_closed (fun _ _ _ => ?_) _ ?_ | split)

theorem pushEntry_closed (h : LampClosed P) (i : Fin 32) (hp : P p) : P (pushEntry i p) := by
  unfold pushEntry
  try dsimp only
  repeat' split
  all_goals with_reducible repeat' (first | assumption | refine setPanel_closed h _ ?_ | split)

theorem admitMessage_closed (h : LampClosed P) (i : Fin 32) (hp : P p) : P (admitMessage i p) := by
  unfold admitMessage
  try dsimp only
  repeat' split
  all_goals with_reducible repeat' (first | assumption | refine setPanel_closed h _ ?_ | refine setMsg_closed h _ _ ?_ | refine syncShown_closed h ?_ | refine pushEntry_closed h _ ?_ | split)

theorem leaveStack_closed (h : LampClosed P) (i : Fin 32) (m : MsgState) (hp : P p) : P (leaveStack i m p) := by
  unfold leaveStack
  try dsimp only
  repeat' split
  all_goals with_reducible repeat' (first | assumption | refine setPanel_closed h _ ?_ | refine setMsg_closed h _ _ ?_ | refine syncShown_closed h ?_ | refine pushEntry_closed h _ ?_ | split)

theorem panelReport_closed (h : LampClosed P) (i : Fin 32) (before after : LampState) (hp : P p) : P (panelReport i before after p) := by
  unfold panelReport
  try dsimp only
  repeat' split
  all_goals with_reducible repeat' (first | assumption | refine setMsg_closed h _ _ ?_ | refine admitMessage_closed h _ ?_ | refine leaveStack_closed h _ _ ?_ | split)

theorem writeMirror_closed (h : LampClosed P) (f : Frame) (hf : f.cells.length = 80) (hp : P p) : P (writeMirror f p) := by
  unfold writeMirror
  refine onlyIf_closed (fun _ hq => storeRun_closed h.toMemClosed _ _ ?_ hq) _ hp
  simp [editioned, mirrorBody_length f p hf, ownRun, mirrorAddr]

theorem forgetFrameIfIdle_closed (h : LampClosed P) (hp : P p) : P (forgetFrameIfIdle p) := by
  unfold forgetFrameIfIdle
  try dsimp only
  repeat' split
  all_goals with_reducible repeat' (first | assumption | refine setPanel_closed h _ ?_ | refine onlyIf_closed (fun _ _ => ?_) _ ?_ | split)

theorem sendFrame_closed (h : LampClosed P) (f : Frame) (hp : P p) : P (sendFrame f p) := by
  unfold sendFrame
  try dsimp only
  repeat' split
  all_goals with_reducible repeat' (first | assumption | refine setPanel_closed h _ ?_ | refine forgetFrameIfIdle_closed h ?_ | split)

theorem countDisplay_closed (h : LampClosed P) (top : Option Entry) (hp : P p) : P (countDisplay top p) := by
  unfold countDisplay
  try dsimp only
  repeat' split
  all_goals with_reducible repeat' (first | assumption | refine setPanel_closed h _ ?_ | refine leaveStack_closed h _ _ ?_ | split)

theorem panelRefresh_closed (h : LampClosed P) (hp : P p) : P (panelRefresh p) := by
  unfold panelRefresh
  split
  · exact setPanel_closed h _ hp
  · exact countDisplay_closed h _ (sendFrame_closed h _ (writeMirror_closed h _ (composeFrame_length p) hp))

theorem displayTimeout_closed (h : LampClosed P) (hp : P p) : P (displayTimeout p) := by
  unfold displayTimeout
  try dsimp only
  repeat' split
  all_goals with_reducible repeat' (first | assumption | refine leaveStack_closed h _ _ ?_ | split)

theorem toStartPage_closed (h : LampClosed P) (hp : P p) : P (toStartPage p) := by
  unfold toStartPage
  try dsimp only
  repeat' split
  all_goals with_reducible repeat' (first | assumption | refine setPanel_closed h _ ?_ | split)

theorem driveLamp_closed (h : LampClosed P) (i : Fin 32) (hp : P p) : P (driveLamp i p) := by
  unfold driveLamp
  try dsimp only
  repeat' split
  all_goals with_reducible repeat' (first | assumption | refine setLamp_closed h _ _ ?_ | split)

theorem composeLamp_closed (h : LampClosed P) (i : Fin 32) (hp : P p) : P (composeLamp i p) := by
  unfold composeLamp
  try dsimp only
  repeat' split
  all_goals with_reducible repeat' (first | assumption | refine updLamp_closed h _ _ ?_ | refine driveLamp_closed h _ ?_ | split)

theorem composeLamps_closed (h : LampClosed P) (hp : P p) : P (composeLamps p) := by
  unfold composeLamps
  try dsimp only
  repeat' split
  all_goals with_reducible repeat' (first | assumption | refine composeLamp_closed h _ ?_ | refine forEach_closed (fun _ _ _ => ?_) _ ?_ | split)

theorem lampEntersOn_closed (h : LampClosed P) (i : Fin 32) (hp : P p) : P (lampEntersOn i p) := by
  unfold lampEntersOn
  try dsimp only
  repeat' split
  all_goals with_reducible repeat' (first | assumption | refine setLamp_closed h _ _ ?_ | refine chimeDemand_closed h _ ?_ | split)

theorem lampChange_closed (h : LampClosed P) (i : Fin 32) (after : LampState) (hp : P p) : P (lampChange i after p) := by
  unfold lampChange
  try dsimp only
  repeat' split
  all_goals with_reducible repeat' (first | assumption | refine updLamp_closed h _ _ ?_ | refine chimeWithdraw_closed h _ ?_ | refine panelReport_closed h _ _ _ ?_ | refine composeLamp_closed h _ ?_ | refine lampEntersOn_closed h _ ?_ | split)

theorem conditionEvent_closed (h : LampClosed P) (i : Fin 32) (truth : Bool) (hp : P p) : P (conditionEvent i truth p) := by
  unfold conditionEvent
  try dsimp only
  repeat' split
  all_goals with_reducible repeat' (first | assumption | refine lampChange_closed h _ _ ?_ | split)

theorem acknowledge_closed (h : LampClosed P) (i : Fin 32) (hp : P p) : P (acknowledge i p) := by
  unfold acknowledge
  try dsimp only
  repeat' split
  all_goals with_reducible repeat' (first | assumption | refine lampChange_closed h _ _ ?_ | split)

theorem onDelayExpiry_closed (h : LampClosed P) (i : Fin 32) (hp : P p) : P (onDelayExpiry i p) := by
  unfold onDelayExpiry
  try dsimp only
  repeat' split
  all_goals with_reducible repeat' (first | assumption | refine lampChange_closed h _ _ ?_ | split)

theorem evalLamp_closed (h : LampClosed P) (i : Fin 32) (hp : P p) : P (evalLamp i p) := by
  unfold evalLamp
  try dsimp only
  repeat' split
  all_goals with_reducible repeat' (first | assumption | refine setLamp_closed h _ _ ?_ | refine updLamp_closed h _ _ ?_ | refine conditionEvent_closed h _ _ ?_ | split)

theorem evalLamps_closed (h : LampClosed P) (hp : P p) : P (evalLamps p) := by
  unfold evalLamps
  try dsimp only
  repeat' split
  all_goals with_reducible repeat' (first | assumption | refine evalLamp_closed h _ ?_ | refine forEach_closed (fun _ _ _ => ?_) _ ?_ | split)

theorem evalLampFaults_closed (h : LampClosed P) (hp : P p) : P (evalLampFaults p) := by
  unfold evalLampFaults
  try dsimp only
  repeat' split
  all_goals with_reducible repeat' (first | assumption | refine evalLamp_closed h _ ?_ | refine forEach_closed (fun _ _ _ => ?_) _ ?_ | split)

theorem tellWarning_closed (h : LampClosed P) (w : Nat) (active : Bool) (hp : P p) : P (tellWarning w active p) := by
  unfold tellWarning
  try dsimp only
  repeat' split
  all_goals with_reducible repeat' (first | assumption | refine evalLamp_closed h _ ?_ | refine forEach_closed (fun _ _ _ => ?_) _ ?_ | refine h.lampU _ _ ?_ | split)

theorem reportWarnings_closed (h : LampClosed P) (hp : P p) : P (reportWarnings p) := by
  unfold reportWarnings
  try dsimp only
  repeat' split
  all_goals with_reducible repeat' (first | assumption | refine evalLamp_closed h _ ?_ | refine forEach_closed (fun _ _ _ => ?_) _ ?_ | refine h.lampU _ _ ?_ | split)

theorem notifyLamp_closed (h : LampClosed P) (c : Fin 32) (x : Result) (i : Fin 32) (hp : P p) : P (notifyLamp c x i p) := by
  unfold notifyLamp
  try dsimp only
  repeat' split
  all_goals with_reducible repeat' (first | assumption | refine setLamp_closed h _ _ ?_ | refine evalLamp_closed h _ ?_ | split)

theorem notifyDimming_closed (h : LampClosed P) (c : Fin 32) (x : Result) (hp : P p) : P (notifyDimming c x p) := by
  unfold notifyDimming
  try dsimp only
  repeat' split
  all_goals with_reducible repeat' (first | assumption | refine driveLamp_closed h _ ?_ | refine forEach_closed (fun _ _ _ => ?_) _ ?_ | refine h.lampU _ _ ?_ | split)

theorem setDiag_closed (h : LampClosed P) (i : Fin 32) (d : Diag) (sense : Sense) (count : Nat) (hp : P p) : P (setDiag i d sense count p) := by
  unfold setDiag
  try dsimp only
  repeat' split
  all_goals with_reducible repeat' (first | assumption | refine setNotice_closed h.toMemClosed _ ?_ | refine updLamp_closed h _ _ ?_ | refine composeLamp_closed h _ ?_ | refine evalLampFaults_closed h ?_ | refine onlyIf_closed (fun _ _ => ?_) _ ?_ | split)

theorem retryShorts_closed (h : LampClosed P) (hp : P p) : P (retryShorts p) := by
  unfold retryShorts
  try dsimp only
  repeat' split
  all_goals with_reducible repeat' (first | assumption | refine setDiag_closed h _ _ _ _ ?_ | refine forEach_closed (fun _ _ _ => ?_) _ ?_ | split)

theorem senseLamp_closed (h : LampClosed P) (low : Bool) (i : Fin 32) (hp : P p) : P (senseLamp low i p) := by
  unfold senseLamp
  try dsimp only
  repeat' split
  all_goals with_reducible repeat' (first | assumption | refine setDiag_closed h _ _ _ _ ?_ | split)

theorem senseCheck_closed (h : LampClosed P) (low : BitVec 32) (hp : P p) : P (senseCheck low p) := by
  unfold senseCheck
  try dsimp only
  repeat' split
  all_goals with_reducible repeat' (first | assumption | refine senseLamp_closed h _ _ ?_ | refine forEach_closed (fun _ _ _ => ?_) _ ?_ | split)

theorem overcurrent_closed (h : LampClosed P) (i : Fin 32) (hp : P p) : P (overcurrent i p) := by
  unfold overcurrent
  try dsimp only
  repeat' split
  all_goals with_reducible repeat' (first | assumption | refine setLamp_closed h _ _ ?_ | refine setDiag_closed h _ _ _ _ ?_ | split)

theorem flashChange_closed (h : LampClosed P) (fast : Bool) (hp : P p) : P (flashChange fast p) := by
  unfold flashChange
  try dsimp only
  repeat' split
  all_goals with_reducible repeat' (first | assumption | refine driveLamp_closed h _ ?_ | refine forEach_closed (fun _ _ _ => ?_) _ ?_ | refine h.lampU _ _ ?_ | split)

theorem lampBoundary_closed (h : LampClosed P) (hp : P p) : P (lampBoundary p) := by
  unfold lampBoundary
  try dsimp only
  repeat' split
  all_goals with_reducible repeat' (first | assumption | refine setLamp_closed h _ _ ?_ | refine forEach_closed (fun _ _ _ => ?_) _ ?_ | split)

theorem resetLamps_closed (h : LampClosed P) (hp : P p) : P (resetLamps p) := by
  unfold resetLamps
  try dsimp only
  repeat' split
  all_goals with_reducible repeat' (first | assumption | refine rewriteLamp_closed h.toMemClosed _ ?_ | refine setLamp_closed h _ _ ?_ | refine chimeReset_closed h ?_ | refine setPanel_closed h _ ?_ | refine driveLamp_closed h _ ?_ | refine forEach_closed (fun _ _ _ => ?_) _ ?_ | split)

theorem lampsOff_closed (h : LampClosed P) (hp : P p) : P (lampsOff p) := by
  unfold lampsOff
  try dsimp only
  repeat' split
  all_goals with_reducible repeat' (first | assumption | refine setLamp_closed h _ _ ?_ | refine forEach_closed (fun _ _ _ => ?_) _ ?_ | split)

theorem setAcct_closed (h : AcctClosed P) (f : Acct → Acct) (hp : P p) : P (setAcct f p) := h.acct _ _ hp

theorem putSeat_closed (h : AcctClosed P) (id : SeatId) (x : Option Seat) (hp : P p) : P (putSeat id x p) := by
  unfold putSeat
  try dsimp only
  repeat' split
  all_goals with_reducible repeat' (first | assumption | refine setAcct_closed h _ ?_ | split)

theorem rewriteSummary_closed (h : MemClosed P) (hp : P p) : P (rewriteSummary p) := store_closed h _ _ (by simp [editioned, ownRecord, summaryAddr]) hp

theorem rewriteSeat_closed (h : MemClosed P) (id : SeatId) (hp : P p) : P (rewriteSeat id p) := storeRun_closed h _ _ (by cases id <;> simp [editioned, ownRun, seatAddr]) hp

theorem rewriteAccounting_closed (h : MemClosed P) (a : Acct) (seats summary : Bool) (hp : P p) : P (rewriteAccounting a seats summary p) := by
  unfold rewriteAccounting
  try dsimp only
  repeat' split
  all_goals with_reducible repeat' (first | assumption | refine setNotice_closed h _ ?_ | refine rewriteSummary_closed h ?_ | refine rewriteSeat_closed h _ ?_ | refine onlyIf_closed (fun _ _ => ?_) _ ?_ | split)

theorem writeClockMirror_closed (h : MemClosed P) (hp : P p) : P (writeClockMirror p) := store_closed h _ _ (by simp [ownRecord, clockMirrorAddr]) hp

theorem changeWarning_closed (h : AcctClosed P) (k : Nat) (active : Bool) (hp : P p) : P (changeWarning k active p) := by
  unfold changeWarning
  try dsimp only
  repeat' split
  all_goals with_reducible repeat' (first | assumption | refine submit_closed h.toJournalClosed _ ?_ | refine tellWarning_closed h.toLampClosed _ _ ?_ | refine setAcct_closed h _ ?_ | refine onlyIf_closed (fun _ _ => ?_) _ ?_ | split)

theorem putWarning_closed (h : AcctClosed P) (k : Nat) (active : Bool) (hp : P p) : P (putWarning k active p) := by
  unfold putWarning
  try dsimp only
  repeat' split
  all_goals with_reducible repeat' (first | assumption | refine changeWarning_closed h _ _ ?_ | split)

theorem evalWarnings_closed (h : AcctClosed P) (hp : P p) : P (evalWarnings p) := by
  unfold evalWarnings
  try dsimp only
  repeat' split
  all_goals with_reducible repeat' (first | assumption | refine putWarning_closed h _ _ ?_ | refine forEach_closed (fun _ _ _ => ?_) _ ?_ | split)

theorem recomputeEffective_closed (h : AcctClosed P) (id : SeatId) (hp : P p) : P (recomputeEffective id p) := by
  unfold recomputeEffective
  try dsimp only
  repeat' split
  all_goals with_reducible repeat' (first | assumption | refine submit_closed h.toJournalClosed _ ?_ | refine putSeat_closed h _ _ ?_ | split)

theorem recomputeBoth_closed (h : AcctClosed P) (hp : P p) : P (recomputeBoth p) := by
  unfold recomputeBoth
  try dsimp only
  repeat' split
  all_goals with_reducible repeat' (first | assumption | refine recomputeEffective_closed h _ ?_ | split)

theorem putMotion_closed (h : AcctClosed P) (moving : Bool) (hp : P p) : P (putMotion moving p) := by
  unfold putMotion
  try dsimp only
  repeat' split
  all_goals with_reducible repeat' (first | assumption | refine setAcct_closed h _ ?_ | refine evalWarnings_closed h ?_ | refine recomputeBoth_closed h ?_ | split)

theorem changeMotion_closed (h : AcctClosed P) (moving : Bool) (hp : P p) : P (changeMotion moving p) := by
  unfold changeMotion
  try dsimp only
  repeat' split
  all_goals with_reducible repeat' (first | assumption | refine rewriteAccounting_closed h.toMemClosed _ _ _ ?_ | refine putMotion_closed h _ ?_ | split)

theorem idleConfirm_closed (h : AcctClosed P) (hp : P p) : P (idleConfirm p) := by
  unfold idleConfirm
  try dsimp only
  repeat' split
  all_goals with_reducible repeat' (first | assumption | refine setAcct_closed h _ ?_ | split)

theorem putSpeedLost_closed (h : AcctClosed P) (active : Bool) (hp : P p) : P (putSpeedLost active p) := by
  unfold putSpeedLost
  try dsimp only
  repeat' split
  all_goals with_reducible repeat' (first | assumption | refine rewriteAccounting_closed h.toMemClosed _ _ _ ?_ | refine putWarning_closed h _ _ ?_ | split)

theorem stopMotion_closed (h : AcctClosed P) (hp : P p) : P (stopMotion p) := by
  unfold stopMotion
  try dsimp only
  repeat' split
  all_goals with_reducible repeat' (first | assumption | refine putWarning_closed h _ _ ?_ | refine idleConfirm_closed h ?_ | refine putMotion_closed h _ ?_ | split)

theorem forceStopped_closed (h : AcctClosed P) (hp : P p) : P (forceStopped p) := by
  unfold forceStopped
  try dsimp only
  repeat' split
  all_goals with_reducible repeat' (first | assumption | refine rewriteAccounting_closed h.toMemClosed _ _ _ ?_ | refine stopMotion_closed h ?_ | split)

theorem notifyMotion_closed (h : AcctClosed P) (c : Fin 32) (x : Result) (reset : Bool) (hp : P p) : P (notifyMotion c x reset p) := by
  unfold notifyMotion
  try dsimp only
  repeat' split
  all_goals with_reducible repeat' (first | assumption | refine setAcct_closed h _ ?_ | refine putSpeedLost_closed h _ ?_ | split)

theorem confirmExpiry_closed (h : AcctClosed P) (hp : P p) : P (confirmExpiry p) := by
  unfold confirmExpiry
  try dsimp only
  repeat' split
  all_goals with_reducible repeat' (first | assumption | refine changeMotion_closed h _ ?_ | refine idleConfirm_closed h ?_ | split)

theorem countSeat_closed (h : AcctClosed P) (id : SeatId) (hp : P p) : P (countSeat id p) := by
  unfold countSeat
  try dsimp only
  repeat' split
  all_goals with_reducible repeat' (first | assumption | refine submit_closed h.toJournalClosed _ ?_ | refine putSeat_closed h _ _ ?_ | split)

theorem computeDerived_closed (h : AcctClosed P) (hp : P p) : P (computeDerived p) := by
  unfold computeDerived
  try dsimp only
  repeat' split
  all_goals with_reducible repeat' (first | assumption | refine setAcct_closed h _ ?_ | split)

theorem tickCount_closed (h : AcctClosed P) (hp : P p) : P (tickCount p) := by
  unfold tickCount
  try dsimp only
  repeat' split
  all_goals with_reducible repeat' (first | assumption | refine setAcct_closed h _ ?_ | refine evalWarnings_closed h ?_ | refine countSeat_closed h _ ?_ | split)

theorem tickRecords_closed (h : MemClosed P) (a : Acct) (hp : P p) : P (tickRecords a p) := by
  unfold tickRecords
  try dsimp only
  repeat' split
  all_goals with_reducible repeat' (first | assumption | refine rewriteAccounting_closed h _ _ _ ?_ | refine writeClockMirror_closed h ?_ | split)

theorem setTime_closed (h : AcctClosed P) (clock : Word) (hp : P p) : P (setTime clock p) := by
  unfold setTime
  try dsimp only
  repeat' split
  all_goals with_reducible repeat' (first | assumption | refine submit_closed h.toJournalClosed _ ?_ | refine setAcct_closed h _ ?_ | refine rewriteAccounting_closed h.toMemClosed _ _ _ ?_ | refine writeClockMirror_closed h.toMemClosed ?_ | split)

theorem applyPhase_closed (h : PtrClosed P) (i : Fin 6) (phase : Nat) (hp : P p) : P (applyPhase i phase p) := by
  unfold applyPhase
  try dsimp only
  repeat' split
  all_goals with_reducible repeat' (first | assumption | refine setPtr_closed h _ _ ?_ | split)

theorem applyPosition_closed (h : PtrClosed P) (i : Fin 6) (hp : P p) : P (applyPosition i p) := by
  unfold applyPosition
  try dsimp only
  repeat' split
  all_goals with_reducible repeat' (first | assumption | refine applyPhase_closed h _ _ ?_ | split)

theorem releaseCoils_closed (h : PtrClosed P) (i : Fin 6) (hp : P p) : P (releaseCoils i p) := by
  unfold releaseCoils
  try dsimp only
  repeat' split
  all_goals with_reducible repeat' (first | assumption | refine setPtr_closed h _ _ ?_ | split)

theorem coilBoundary_closed (h : PtrClosed P) (hp : P p) : P (coilBoundary p) := by
  unfold coilBoundary
  try dsimp only
  repeat' split
  all_goals with_reducible repeat' (first | assumption | refine setPtr_closed h _ _ ?_ | refine forEach_closed (fun _ _ _ => ?_) _ ?_ | split)

theorem enterFollow_closed (h : PtrClosed P) (i : Fin 6) (hp : P p) : P (enterFollow i p) := by
  unfold enterFollow
  try dsimp only
  repeat' split
  all_goals with_reducible repeat' (first | assumption | refine updPtr_closed h _ _ ?_ | refine applyPosition_closed h _ ?_ | split)

theorem notifyPtr_closed (h : PtrClosed P) (c : Fin 32) (res : Result) (i : Fin 6) (hp : P p) : P (notifyPtr c res i p) := by
  unfold notifyPtr
  try dsimp only
  repeat' split
  all_goals with_reducible repeat' (first | assumption | refine updPtr_closed h _ _ ?_ | split)

theorem tickPtr_closed (h : PtrClosed P) (i : Fin 6) (hp : P p) : P (tickPtr i p) := by
  unfold tickPtr
  try dsimp only
  repeat' split
  all_goals with_reducible repeat' (first | assumption | refine updPtr_closed h _ _ ?_ | refine applyPhase_closed h _ _ ?_ | refine applyPosition_closed h _ ?_ | split)

theorem homingBegin_closed (h : PtrClosed P) (i : Fin 6) (hp : P p) : P (homingBegin i p) := by
  unfold homingBegin
  try dsimp only
  repeat' split
  all_goals with_reducible repeat' (first | assumption | refine rewritePtr_closed h.toMemClosed _ ?_ | refine setPtr_closed h _ _ ?_ | refine applyPhase_closed h _ _ ?_ | split)

theorem enterReturn_closed (h : PtrClosed P) (i : Fin 6) (hp : P p) : P (enterReturn i p) := by
  unfold enterReturn
  try dsimp only
  repeat' split
  all_goals with_reducible repeat' (first | assumption | refine updPtr_closed h _ _ ?_ | split)

theorem releasePtr_closed (h : PtrClosed P) (i : Fin 6) (hp : P p) : P (releasePtr i p) := by
  unfold releasePtr
  try dsimp only
  repeat' split
  all_goals with_reducible repeat' (first | assumption | refine updPtr_closed h _ _ ?_ | refine releaseCoils_closed h _ ?_ | split)

theorem freezePtr_closed (h : PtrClosed P) (i : Fin 6) (hp : P p) : P (freezePtr i p) := by
  unfold freezePtr
  try dsimp only
  repeat' split
  all_goals with_reducible repeat' (first | assumption | refine rewritePtr_closed h.toMemClosed _ ?_ | refine setPtr_closed h _ _ ?_ | refine updPtr_closed h _ _ ?_ | split)

theorem thawPtr_closed (h : PtrClosed P) (i : Fin 6) (hp : P p) : P (thawPtr i p) := by
  unfold thawPtr
  try dsimp only
  repeat' split
  all_goals with_reducible repeat' (first | assumption | refine applyPosition_closed h _ ?_ | refine homingBegin_closed h _ ?_ | split)

theorem commitPtr_closed (h : PtrClosed P) (i : Fin 6) (hp : P p) : P (commitPtr i p) := by
  unfold commitPtr
  try dsimp only
  repeat' split
  all_goals with_reducible repeat' (first | assumption | refine updPtr_closed h _ _ ?_ | refine releaseCoils_closed h _ ?_ | split)

theorem restartPtr_closed (h : PtrClosed P) (i : Fin 6) (hp : P p) : P (restartPtr i p) := by
  unfold restartPtr
  try dsimp only
  repeat' split
  all_goals with_reducible repeat' (first | assumption | refine updPtr_closed h _ _ ?_ | refine releaseCoils_closed h _ ?_ | split)

theorem restartEndPtr_closed (h : PtrClosed P) (i : Fin 6) (hp : P p) : P (restartEndPtr i p) := by
  unfold restartEndPtr
  try dsimp only
  repeat' split
  all_goals with_reducible repeat' (first | assumption | refine rewritePtr_closed h.toMemClosed _ ?_ | refine setPtr_closed h _ _ ?_ | refine releaseCoils_closed h _ ?_ | split)

theorem notifyShown_closed (h : ChanClosed P) (c : Fin 32) (hp : P p) : P (notifyShown c p) := by
  unfold notifyShown
  try dsimp only
  repeat' split
  all_goals with_reducible repeat' (first | assumption | refine notifyLamp_closed h.toLampClosed _ _ _ ?_ | refine notifyDimming_closed h.toLampClosed _ _ ?_ | refine notifyPtr_closed h.toPtrClosed _ _ _ ?_ | refine forEach_closed (fun _ _ _ => ?_) _ ?_ | split)

theorem notifyChan_closed (h : ChanClosed P) (c : Fin 32) (reset : Bool) (hp : P p) : P (notifyChan c reset p) := by
  unfold notifyChan
  try dsimp only
  repeat' split
  all_goals with_reducible repeat' (first | assumption | refine notifyMotion_closed h.toAcctClosed _ _ _ ?_ | refine notifyShown_closed h _ ?_ | split)

theorem putChan_closed (h : ChanClosed P) (c : Fin 32) (new : Chan) (hp : P p) : P (putChan c new p) := by
  unfold putChan
  try dsimp only
  repeat' split
  all_goals with_reducible repeat' (first | assumption | refine setNotice_closed h.toMemClosed _ ?_ | refine rewriteChan_closed h.toMemClosed _ ?_ | refine setChan_closed h _ _ ?_ | refine onlyIf_closed (fun _ _ => ?_) _ ?_ | split)

theorem changeChan_closed (h : ChanClosed P) (c : Fin 32) (new : Chan) (hp : P p) : P (changeChan c new p) := by
  unfold changeChan
  try dsimp only
  repeat' split
  all_goals with_reducible repeat' (first | assumption | refine notifyChan_closed h _ _ ?_ | refine putChan_closed h _ _ ?_ | split)

theorem changeChanInTick_closed (h : ChanClosed P) (c : Fin 32) (new : Chan) (hp : P p) : P (changeChanInTick c new p) := by
  unfold changeChanInTick
  try dsimp only
  repeat' split
  all_goals with_reducible repeat' (first | assumption | refine notifyShown_closed h _ ?_ | refine putChan_closed h _ _ ?_ | split)

theorem sampleChan_closed (h : ChanClosed P) (raw : Int) (c : Fin 32) (hp : P p) : P (sampleChan raw c p) := by
  unfold sampleChan
  try dsimp only
  repeat' split
  all_goals with_reducible repeat' (first | assumption | refine changeChan_closed h _ _ ?_ | split)

theorem deliverTo_closed {f : Fin 32 → Part → Part} (hf : ∀ c p, P p → P (f c p)) (kind : SourceKind) (index : Nat) (hp : P p) :
    P (deliverTo kind index f p) := by
  unfold deliverTo; split
  · exact forEach_closed hf _ hp
  · exact hp

theorem deliver_closed (h : ChanClosed P) (kind : SourceKind) (index : Nat) (raw : Int) (hp : P p) : P (deliver kind index raw p) := by
  unfold deliver
  try dsimp only
  repeat' split
  all_goals with_reducible repeat' (first | assumption | refine sampleChan_closed h _ _ ?_ | refine deliverTo_closed (fun _ _ _ => ?_) _ _ ?_ | split)

theorem inboxChan_closed (h : ChanClosed P) (f : InboxFlag) (value : Int) (c : Fin 32) (hp : P p) : P (inboxChan f value c p) := by
  unfold inboxChan
  try dsimp only
  repeat' split
  all_goals with_reducible repeat' (first | assumption | refine changeChan_closed h _ _ ?_ | split)

theorem ageChan_closed (h : ChanClosed P) (t : Nat) (c : Fin 32) (hp : P p) : P (ageChan t c p) := by
  unfold ageChan
  try dsimp only
  repeat' split
  all_goals with_reducible repeat' (first | assumption | refine setChan_closed h _ _ ?_ | refine changeChan_closed h _ _ ?_ | split)

theorem advanceAges_closed (h : ChanClosed P) (t : Nat) (hp : P p) : P (advanceAges t p) := by
  unfold advanceAges
  try dsimp only
  repeat' split
  all_goals with_reducible repeat' (first | assumption | refine ageChan_closed h _ _ ?_ | refine forEach_closed (fun _ _ _ => ?_) _ ?_ | split)

theorem accountChan_closed (h : ChanClosed P) (d : Derived) (c : Fin 32) (hp : P p) : P (accountChan d c p) := by
  unfold accountChan
  try dsimp only
  repeat' split
  all_goals with_reducible repeat' (first | assumption | refine changeChanInTick_closed h _ _ ?_ | split)

theorem deliverDerived_closed (h : ChanClosed P) (hp : P p) : P (deliverDerived p) := by
  unfold deliverDerived
  try dsimp only
  repeat' split
  all_goals with_reducible repeat' (first | assumption | refine deliverTo_closed (fun _ _ _ => ?_) _ _ ?_ | refine accountChan_closed h _ _ ?_ | refine forEach_closed (fun _ _ _ => ?_) _ ?_ | split)

theorem dipChan_closed (h : ChanClosed P) (c : Fin 32) (hp : P p) : P (dipChan c p) := by
  unfold dipChan
  try dsimp only
  repeat' split
  all_goals with_reducible repeat' (first | assumption | refine changeChan_closed h _ _ ?_ | split)

theorem resetChan_closed (h : ChanClosed P) (c : Fin 32) (hp : P p) : P (resetChan c p) := by
  unfold resetChan
  try dsimp only
  repeat' split
  all_goals with_reducible repeat' (first | assumption | refine rewriteChan_closed h.toMemClosed _ ?_ | refine setChan_closed h _ _ ?_ | refine notifyChan_closed h _ _ ?_ | split)

theorem resetChans_closed (h : ChanClosed P) (hp : P p) : P (resetChans p) := by
  unfold resetChans
  try dsimp only
  repeat' split
  all_goals with_reducible repeat' (first | assumption | refine resetChan_closed h _ ?_ | refine forEach_closed (fun _ _ _ => ?_) _ ?_ | split)

theorem tickWork_closed (h : ChanClosed P) (hp : P p) : P (tickWork p) := by
  unfold tickWork
  try dsimp only
  repeat' split
  all_goals with_reducible repeat' (first | assumption | refine tickRecords_closed h.toMemClosed _ ?_ | refine deliverDerived_closed h ?_ | refine computeDerived_closed h.toAcctClosed ?_ | refine tickCount_closed h.toAcctClosed ?_ | split)

theorem notifyTicked_closed (h : ChanClosed P) (x : Vector Chan 32) (hp : P p) : P (notifyTicked x p) := by
  unfold notifyTicked
  try dsimp only
  repeat' split
  all_goals with_reducible repeat' (first | assumption | refine notifyMotion_closed h.toAcctClosed _ _ _ ?_ | refine onlyIf_closed (fun _ _ => ?_) _ ?_ | split)

theorem secondTick_closed (h : ChanClosed P) (hp : P p) : P (secondTick p) := by
  unfold secondTick
  try dsimp only
  repeat' split
  all_goals with_reducible repeat' (first | assumption | refine notifyTicked_closed h _ ?_ | refine tickWork_closed h ?_ | split)

end Sys2Proof.Machine
end

