-- ==== Sys2Proof/Laws/ClosedControl.lean ====
section
/-! SUPPORT. What each operation of the measuring units, the State Controller, the Request Unit and the Link Port can touch,
in the form of Closed.lean. -/

set_option linter.unusedTactic false
set_option linter.unreachableTactic false

namespace Sys2Proof.Machine

/-- Closed under what the measuring units write. -/
structure InputClosed (P : Part → Prop) : Prop extends ChanClosed P where
  conv : ∀ p x, P p → P { p with conv := x }
  free : ∀ p x, P p → P { p with free := x }
  pulse : ∀ p x, P p → P { p with pulse := x }
  sw : ∀ p x, P p → P { p with sw := x }

/-- Closed under grants of record accesses. -/
structure GrantClosed (P : Part → Prop) : Prop where
  grant : ∀ p, P p → P p.grantAll
  reading : ∀ p, P p → P p.grantReading

/-- Closed under the part's record accesses that write request slots as well, and under their grants. -/
structure SlotClosed (P : Part → Prop) : Prop extends MemClosed P, GrantClosed P where
  slot : ∀ p (i : Fin 8) bs, 1 ≤ bs.length → bs.length ≤ 32 → P p → P (p.store (slotAddr i) bs)
  answer : ∀ p i bs, 1 ≤ bs.length → bs.length ≤ 32 → P p → P (p.request (.answer i bs))

/-- Closed under what the State Controller and the Request Unit write. -/
structure ControlClosed (P : Part → Prop) : Prop extends InputClosed P, SlotClosed P where
  ctl : ∀ p x, P p → P { p with ctl := x }
  req : ∀ p x, P p → P { p with req := x }
  ign : ∀ p x, P p → P { p with ign := x }
  homeReqs : ∀ p x, P p → P { p with homeReqs := x }
  working : ∀ p x, P p → P { p with working := x }
  freeIdx : ∀ p x, P p → P { p with freeIdx := x }

/-- Closed under every write of the part and of the host. -/
structure LinkClosed (P : Part → Prop) : Prop extends ControlClosed P where
  anyMem : ∀ p a v, P p → P { p with exch := memWrite p.exch a v }
  link : ∀ p x, P p → P { p with link := x }
  grantLink : ∀ p, P p → P p.grantLink

variable {P : Part → Prop} {p : Part}

theorem ite_closed {c : Prop} [Decidable c] {a b : Part} (ha : P a) (hb : P b) : P (if c then a else b) := by
  split <;> assumption

theorem slotByte_iff {a : Nat} : slotByte a ↔ 0xC0 ≤ a ∧ a < 0x1C0 := Iff.rfl

theorem grantAll_closed (h : GrantClosed P) (hp : P p) : P p.grantAll := h.grant _ hp

theorem grantUnlessLive_closed (h : GrantClosed P) (hp : P p) : P (grantUnlessLive p) :=
  onlyIf_closed (fun _ hq => grantAll_closed h hq) _ hp

theorem LinkClosed.toOwnClosed (h : LinkClosed P) : OwnClosed P := ⟨fun p a v _ hp => h.anyMem p a v hp⟩

theorem writeStateBytes_closed (h : ControlClosed P) (hp : P p) : P (writeStateBytes p) :=
  h.grant _ (store_closed h.toInputClosed.toChanClosed.toAcctClosed.toLampClosed.toMemClosed _ _ (by simp [ownRecord]) hp)

theorem answerTail_length (taken data : List Byte) (hd : data.length ≤ 24) : (answerTail taken data).length ≤ 27 := by
  unfold answerTail; split <;> simp <;> omega

theorem markState_length (st : Byte) (bs : List Byte) : (markState st bs).length ≤ 32 := by
  simp [markState, withCheck]; omega

@[simp] theorem packedList_length (p : Part) : (inputsPage p).length = 36 := by
  simp [inputsPage, List.flatMap, Function.comp_def]

@[simp] theorem pointerEntry_length (p : Part) (i : Fin 6) : (pointerEntry p i).length = 8 := by simp [pointerEntry]

theorem pageBytes_length (page : Byte) (p : Part) : (pageBytes page p).length ≤ 128 := by
  unfold pageBytes
  split
  · simp
  · split
    · simp [allPtrs, List.flatMap, Function.comp_def]
    · simp [List.flatMap, Function.comp_def, lampEntry]

theorem diagWindow_length (page : Byte) (p : Part) : (diagWindow page p).length = 256 := by
  have := pageBytes_length page p
  simp [diagWindow]; omega

theorem cardIn_closed (h : AcctClosed P) (seat flags : Byte) (card : Identity) (cdt ddt : Half) (hp : P p) : P (cardIn seat flags card cdt ddt p).part := by
  unfold cardIn
  try dsimp only
  repeat' split
  all_goals dsimp only [accept, refuse]
  all_goals with_reducible repeat' (first | assumption | refine submit_closed h.toJournalClosed _ ?_ | refine putSeat_closed h _ _ ?_ | refine rewriteAccounting_closed h.toLampClosed.toMemClosed _ _ _ ?_ | refine evalWarnings_closed h ?_ | split)

theorem cardOut_closed (h : AcctClosed P) (seat : Byte) (hp : P p) : P (cardOut seat p).part := by
  unfold cardOut
  try dsimp only
  repeat' split
  all_goals dsimp only [accept, refuse]
  all_goals with_reducible repeat' (first | assumption | refine submit_closed h.toJournalClosed _ ?_ | refine putSeat_closed h _ _ ?_ | refine rewriteAccounting_closed h.toLampClosed.toMemClosed _ _ _ ?_ | refine evalWarnings_closed h ?_ | split)

theorem setActivity_closed (h : AcctClosed P) (seat activity : Byte) (hp : P p) : P (setActivity seat activity p).part := by
  unfold setActivity
  try dsimp only
  repeat' split
  all_goals dsimp only [accept, refuse]
  all_goals with_reducible repeat' (first | assumption | refine putSeat_closed h _ _ ?_ | refine rewriteAccounting_closed h.toLampClosed.toMemClosed _ _ _ ?_ | refine recomputeEffective_closed h _ ?_ | split)

theorem swapSeats_closed (h : AcctClosed P) (hp : P p) : P (swapSeats p).part := by
  unfold swapSeats
  try dsimp only
  repeat' split
  all_goals dsimp only [accept, refuse]
  all_goals with_reducible repeat' (first | assumption | refine submit_closed h.toJournalClosed _ ?_ | refine setAcct_closed h _ ?_ | refine rewriteAccounting_closed h.toLampClosed.toMemClosed _ _ _ ?_ | refine evalWarnings_closed h ?_ | refine recomputeBoth_closed h ?_ | split)

theorem setAccess_closed (h : ControlClosed P) (a : Access) (hp : P p) : P (setAccess a p) := by
  unfold setAccess; split
  · exact hp
  · exact writeStateBytes_closed h (h.ctl _ _ hp)

theorem offerReadMark_closed (h : JournalClosed P) (ho : OwnClosed P) (v : Byte) (hp : P p) : P (offerReadMark v p) := by
  unfold offerReadMark; split
  · split
    · exact hp
    · exact writeGap_closed h (writeJournalControl_closed h (h.jour _ _ hp))
  · exact protectedWrite_closed ho _ _ _ hp

theorem setConv_closed (h : InputClosed P) (f : Conv → Conv) (hp : P p) : P (setConv f p) := h.conv _ _ hp

theorem setPulses_closed (h : InputClosed P) (v : Vector PulseIn 4) (hp : P p) : P (setPulses v p) := h.pulse _ _ hp

theorem setSwitches_closed (h : InputClosed P) (v : Vector Switch 8) (hp : P p) : P (setSwitches v p) := h.sw _ _ hp

theorem setPulse_closed (h : InputClosed P) (i : Fin 4) (f : PulseIn → PulseIn) (hp : P p) : P (setPulse i f p) := h.pulse _ _ hp

theorem setSwitch_closed (h : InputClosed P) (i : Fin 8) (f : Switch → Switch) (hp : P p) : P (setSwitch i f p) := h.sw _ _ hp

theorem setFree_closed (h : InputClosed P) (now : Word) (hp : P p) : P (setFree now p) := by
  unfold setFree; split
  · exact hp
  · exact h.free _ _ hp

theorem switchesAfresh_closed (h : InputClosed P) (hp : P p) : P (switchesAfresh p) := by
  unfold switchesAfresh
  try dsimp only
  repeat' split
  all_goals with_reducible repeat' (first | assumption | refine setSwitches_closed h _ ?_ | split)

theorem unitsStop_closed (h : InputClosed P) (hp : P p) : P (unitsStop p) := by
  unfold unitsStop
  try dsimp only
  repeat' split
  all_goals with_reducible repeat' (first | assumption | refine setConv_closed h _ ?_ | refine setPulses_closed h _ ?_ | refine switchesAfresh_closed h ?_ | split)

theorem unitsStart_closed (h : InputClosed P) (hp : P p) : P (unitsStart p) := by
  unfold unitsStart
  try dsimp only
  repeat' split
  all_goals with_reducible repeat' (first | assumption | refine setConv_closed h _ ?_ | refine setPulses_closed h _ ?_ | refine switchesAfresh_closed h ?_ | split)

theorem measuresReset_closed (h : InputClosed P) (hp : P p) : P (measuresReset p) := by
  unfold measuresReset
  try dsimp only
  repeat' split
  all_goals with_reducible repeat' (first | assumption | refine setConv_closed h _ ?_ | refine setPulses_closed h _ ?_ | split)

theorem switchesReset_closed (h : InputClosed P) (hp : P p) : P (switchesReset p) := by
  unfold switchesReset
  try dsimp only
  repeat' split
  all_goals with_reducible repeat' (first | assumption | refine setSwitches_closed h _ ?_ | split)

theorem conversionSlot_closed (h : InputClosed P) (level : Int) (hp : P p) : P (conversionSlot level p) := by
  unfold conversionSlot
  try dsimp only
  repeat' split
  all_goals with_reducible repeat' (first | assumption | refine setConv_closed h _ ?_ | split)

theorem conversionComplete_closed (h : InputClosed P) (hp : P p) : P (conversionComplete p) := by
  unfold conversionComplete
  try dsimp only
  repeat' split
  all_goals with_reducible repeat' (first | assumption | refine deliver_closed h.toChanClosed _ _ _ ?_ | refine setConv_closed h _ ?_ | split)

theorem pulseEdge_closed (h : InputClosed P) (i : Fin 4) (rising : Bool) (now : Word) (hp : P p) : P (pulseEdge i rising now p) := by
  unfold pulseEdge
  try dsimp only
  repeat' split
  all_goals with_reducible repeat' (first | assumption | refine setPulse_closed h _ _ ?_ | refine setFree_closed h _ ?_ | refine onlyIf_closed (fun _ _ => ?_) _ ?_ | split)

theorem windowEnd_closed (h : InputClosed P) (i : Fin 4) (hp : P p) : P (windowEnd i p) := by
  unfold windowEnd
  try dsimp only
  repeat' split
  all_goals with_reducible repeat' (first | assumption | refine deliver_closed h.toChanClosed _ _ _ ?_ | refine setPulse_closed h _ _ ?_ | split)

theorem switchTo_closed (h : InputClosed P) (i : Fin 8) (state : Bool) (hp : P p) : P (switchTo i state p) := by
  unfold switchTo
  try dsimp only
  repeat' split
  all_goals with_reducible repeat' (first | assumption | refine deliver_closed h.toChanClosed _ _ _ ?_ | refine setSwitch_closed h _ _ ?_ | split)

theorem sampleSwitch_closed (h : InputClosed P) (pins : Pins) (i : Fin 8) (hp : P p) : P (sampleSwitch pins i p) := by
  unfold sampleSwitch
  try dsimp only
  repeat' split
  all_goals with_reducible repeat' (first | assumption | refine setSwitch_closed h _ _ ?_ | refine switchTo_closed h _ _ ?_ | split)

theorem sampleSwitches_closed (h : InputClosed P) (pins : Pins) (hp : P p) : P (sampleSwitches pins p) := by
  unfold sampleSwitches
  try dsimp only
  repeat' split
  all_goals with_reducible repeat' (first | assumption | refine sampleSwitch_closed h _ _ ?_ | refine forEach_closed (fun _ _ _ => ?_) _ ?_ | refine onlyIf_closed (fun _ _ => ?_) _ ?_ | split)

theorem switchChange_closed (h : InputClosed P) (i : Fin 8) (state : Bool) (hp : P p) : P (switchChange i state p) := by
  unfold switchChange
  try dsimp only
  repeat' split
  all_goals with_reducible repeat' (first | assumption | refine switchTo_closed h _ _ ?_ | split)

theorem setReq_closed (h : ControlClosed P) (f : ReqUnit → ReqUnit) (hp : P p) : P (setReq f p) := h.req _ _ hp

theorem answerWrite_closed (h : SlotClosed P) (i : Fin 8) (kind tag status : Byte) (tail : List Byte) (ht : tail.length ≤ 27) (hp : P p) : P (answerWrite i kind tag status tail p) := by
  exact h.answer _ _ _ (by simp [withCheck]) (by simp [withCheck]; omega) hp

theorem answerTaken_closed (h : SlotClosed P) (i : Fin 8) (taken : List Byte) (status : Byte) (data : List Byte) (hd : data.length ≤ 24) (hp : P p) : P (answerTaken i taken status data p) := answerWrite_closed h _ _ _ _ _ (answerTail_length taken data hd) hp

theorem answerAsItStands_closed (h : SlotClosed P) (i : Fin 8) (status : Byte) (hp : P p) : P (answerAsItStands i status p) := answerTaken_closed h _ _ _ _ (by simp) hp

theorem holdSlot_closed (h : ControlClosed P) (i : Fin 8) (taken : List Byte) (hp : P p) : P (holdSlot i taken p) := by
  unfold holdSlot
  try dsimp only
  repeat' split
  all_goals with_reducible repeat' (first | assumption | refine setReq_closed h _ ?_ | split)

theorem finishHold_closed (h : ControlClosed P) (i : Fin 8) (status : Byte) (hp : P p) : P (finishHold i status p) := by
  unfold finishHold; split
  · exact h.req _ _ (answerTaken_closed h.toSlotClosed _ _ _ _ (by simp) hp)
  · exact hp

theorem setCtl_closed (h : ControlClosed P) (f : Control → Control) (hp : P p) : P (setCtl f p) := h.ctl _ _ hp

theorem setIgn_closed (h : ControlClosed P) (x : Ign) (hp : P p) : P (setIgn x p) := h.ign _ _ hp

theorem setHomeReqs_closed (h : ControlClosed P) (l : List HomeReq) (hp : P p) : P (setHomeReqs l p) := h.homeReqs _ _ hp

theorem setWorking_closed (h : ControlClosed P) (w : Mem) (hp : P p) : P (setWorking w p) := h.working _ _ hp

theorem setOp_closed (h : ControlClosed P) (op : OpState) (hp : P p) : P (setOp op p) := by
  unfold setOp
  try dsimp only
  repeat' split
  all_goals with_reducible repeat' (first | assumption | refine setNotice_closed h.toInputClosed.toChanClosed.toAcctClosed.toLampClosed.toMemClosed _ ?_ | refine writeStateBytes_closed h ?_ | refine forgetFrameIfIdle_closed h.toInputClosed.toChanClosed.toAcctClosed.toLampClosed ?_ | refine setReq_closed h _ ?_ | refine setCtl_closed h _ ?_ | split)

theorem setFrozen_closed (h : LampClosed P) (b : Bool) (hp : P p) : P (setFrozen b p) := h.lampU _ _ hp

theorem provingEnd_closed (h : ControlClosed P) (c : Proving) (hp : P p) : P (provingEnd c p) := by
  unfold provingEnd
  try dsimp only
  repeat' split
  all_goals with_reducible repeat' (first | assumption | refine chimeSync_closed h.toInputClosed.toChanClosed.toAcctClosed.toLampClosed ?_ | refine composeLamps_closed h.toInputClosed.toChanClosed.toAcctClosed.toLampClosed ?_ | refine finishHold_closed h _ _ ?_ | refine setCtl_closed h _ ?_ | refine setOp_closed h _ ?_ | split)

theorem provingCheck_closed (h : ControlClosed P) (hp : P p) : P (provingCheck p) := by
  unfold provingCheck
  try dsimp only
  repeat' split
  all_goals with_reducible repeat' (first | assumption | refine provingEnd_closed h _ ?_ | split)

theorem sweepReturned_closed (h : ControlClosed P) (i : Fin 6) (hp : P p) : P (sweepReturned i p) := by
  unfold sweepReturned
  try dsimp only
  repeat' split
  all_goals with_reducible repeat' (first | assumption | refine enterFollow_closed h.toInputClosed.toChanClosed.toPtrClosed _ ?_ | refine setCtl_closed h _ ?_ | refine provingCheck_closed h ?_ | split)

theorem judgeSweep_closed (h : ControlClosed P) (i : Fin 6) (hp : P p) : P (judgeSweep i p) := by
  unfold judgeSweep
  try dsimp only
  repeat' split
  all_goals with_reducible repeat' (first | assumption | refine updPtr_closed h.toInputClosed.toChanClosed.toPtrClosed _ _ ?_ | refine sweepReturned_closed h _ ?_ | split)

theorem enterSweep_closed (h : ControlClosed P) (i : Fin 6) (hp : P p) : P (enterSweep i p) := by
  unfold enterSweep
  try dsimp only
  repeat' split
  all_goals with_reducible repeat' (first | assumption | refine updPtr_closed h.toInputClosed.toChanClosed.toPtrClosed _ _ ?_ | refine applyPosition_closed h.toInputClosed.toChanClosed.toPtrClosed _ ?_ | refine judgeSweep_closed h _ ?_ | split)

theorem provingStart_closed (h : ControlClosed P) (kind : ProvingKind) (hp : P p) : P (provingStart kind p) := by
  unfold provingStart
  try dsimp only
  repeat' split
  all_goals with_reducible repeat' (first | assumption | refine chimeSync_closed h.toInputClosed.toChanClosed.toAcctClosed.toLampClosed ?_ | refine startTestTone_closed h.toInputClosed.toChanClosed.toAcctClosed.toLampClosed ?_ | refine composeLamps_closed h.toInputClosed.toChanClosed.toAcctClosed.toLampClosed ?_ | refine retryShorts_closed h.toInputClosed.toChanClosed.toAcctClosed.toLampClosed ?_ | refine setCtl_closed h _ ?_ | refine enterSweep_closed h _ ?_ | refine forEach_closed (fun _ _ _ => ?_) _ ?_ | split)

theorem provingAbandon_closed (h : ControlClosed P) (hp : P p) : P (provingAbandon p) := by
  unfold provingAbandon
  try dsimp only
  repeat' split
  all_goals with_reducible repeat' (first | assumption | refine stopTestTone_closed h.toInputClosed.toChanClosed.toAcctClosed.toLampClosed ?_ | refine finishHold_closed h _ _ ?_ | refine setCtl_closed h _ ?_ | split)

theorem provingTimerExpiry_closed (h : ControlClosed P) (hp : P p) : P (provingTimerExpiry p) := by
  unfold provingTimerExpiry
  try dsimp only
  repeat' split
  all_goals with_reducible repeat' (first | assumption | refine setCtl_closed h _ ?_ | refine provingCheck_closed h ?_ | split)

theorem startPtr_closed (h : ControlClosed P) (i : Fin 6) (hp : P p) : P (startPtr i p) := by
  unfold startPtr
  try dsimp only
  repeat' split
  all_goals with_reducible repeat' (first | assumption | refine enterFollow_closed h.toInputClosed.toChanClosed.toPtrClosed _ ?_ | refine homingBegin_closed h.toInputClosed.toChanClosed.toPtrClosed _ ?_ | split)

theorem startIfHomed_closed (h : ControlClosed P) (hp : P p) : P (startIfHomed p) := by
  unfold startIfHomed
  try dsimp only
  repeat' split
  all_goals with_reducible repeat' (first | assumption | refine provingStart_closed h _ ?_ | refine onlyIf_closed (fun _ _ => ?_) _ ?_ | split)

theorem enterStarting_closed (h : ControlClosed P) (hp : P p) : P (enterStarting p) := by
  unfold enterStarting
  try dsimp only
  repeat' split
  all_goals with_reducible repeat' (first | assumption | refine chimeSync_closed h.toInputClosed.toChanClosed.toAcctClosed.toLampClosed ?_ | refine toStartPage_closed h.toInputClosed.toChanClosed.toAcctClosed.toLampClosed ?_ | refine composeLamps_closed h.toInputClosed.toChanClosed.toAcctClosed.toLampClosed ?_ | refine setOp_closed h _ ?_ | refine startPtr_closed h _ ?_ | refine startIfHomed_closed h ?_ | refine forEach_closed (fun _ _ _ => ?_) _ ?_ | split)

theorem enterPark_closed (h : ControlClosed P) (hp : P p) : P (enterPark p) := by
  unfold enterPark
  try dsimp only
  repeat' split
  all_goals with_reducible repeat' (first | assumption | refine composeLamps_closed h.toInputClosed.toChanClosed.toAcctClosed.toLampClosed ?_ | refine forceStopped_closed h.toInputClosed.toChanClosed.toAcctClosed ?_ | refine releasePtr_closed h.toInputClosed.toChanClosed.toPtrClosed _ ?_ | refine setOp_closed h _ ?_ | refine forEach_closed (fun _ _ _ => ?_) _ ?_ | split)

theorem parkCheck_closed (h : ControlClosed P) (hp : P p) : P (parkCheck p) := by
  unfold parkCheck
  try dsimp only
  repeat' split
  all_goals with_reducible repeat' (first | assumption | refine enterPark_closed h ?_ | refine onlyIf_closed (fun _ _ => ?_) _ ?_ | split)

theorem enterParking_closed (h : ControlClosed P) (hp : P p) : P (enterParking p) := by
  unfold enterParking
  try dsimp only
  repeat' split
  all_goals with_reducible repeat' (first | assumption | refine chimeSync_closed h.toInputClosed.toChanClosed.toAcctClosed.toLampClosed ?_ | refine stopTestTone_closed h.toInputClosed.toChanClosed.toAcctClosed.toLampClosed ?_ | refine composeLamps_closed h.toInputClosed.toChanClosed.toAcctClosed.toLampClosed ?_ | refine idleConfirm_closed h.toInputClosed.toChanClosed.toAcctClosed ?_ | refine enterReturn_closed h.toInputClosed.toChanClosed.toPtrClosed _ ?_ | refine unitsStop_closed h.toInputClosed ?_ | refine setOp_closed h _ ?_ | refine setFrozen_closed h.toInputClosed.toChanClosed.toAcctClosed.toLampClosed _ ?_ | refine provingAbandon_closed h ?_ | refine parkCheck_closed h ?_ | refine forEach_closed (fun _ _ _ => ?_) _ ?_ | split)

theorem homedRequests_closed (h : ControlClosed P) (i : Fin 6) (hp : P p) : P (homedRequests i p) := by
  unfold homedRequests
  try dsimp only
  repeat' split
  all_goals with_reducible repeat' (first | assumption | refine finishHold_closed h _ _ ?_ | refine setHomeReqs_closed h _ ?_ | refine forEach_closed (fun _ _ _ => ?_) _ ?_ | split)

theorem homingEnd_closed (h : ControlClosed P) (i : Fin 6) (hp : P p) : P (homingEnd i p) := by
  unfold homingEnd
  try dsimp only
  repeat' split
  all_goals with_reducible repeat' (first | assumption | refine updPtr_closed h.toInputClosed.toChanClosed.toPtrClosed _ _ ?_ | refine applyPosition_closed h.toInputClosed.toChanClosed.toPtrClosed _ ?_ | refine startIfHomed_closed h ?_ | refine parkCheck_closed h ?_ | refine homedRequests_closed h _ ?_ | split)

theorem homingEnds_closed (h : ControlClosed P) (i : Fin 6) (hp : P p) : P (homingEnds i p) := by
  unfold homingEnds
  try dsimp only
  repeat' split
  all_goals with_reducible repeat' (first | assumption | refine homingEnd_closed h _ ?_ | refine onlyIf_closed (fun _ _ => ?_) _ ?_ | split)

theorem judgePtr_closed (h : ControlClosed P) (i : Fin 6) (hp : P p) : P (judgePtr i p) := by
  unfold judgePtr
  try dsimp only
  repeat' split
  all_goals with_reducible repeat' (first | assumption | refine judgeSweep_closed h _ ?_ | refine homingEnd_closed h _ ?_ | split)

theorem motionTick_closed (h : ControlClosed P) (hp : P p) : P (motionTick p) := by
  unfold motionTick
  try dsimp only
  repeat' split
  all_goals with_reducible repeat' (first | assumption | refine tickPtr_closed h.toInputClosed.toChanClosed.toPtrClosed _ ?_ | refine parkCheck_closed h ?_ | refine judgePtr_closed h _ ?_ | refine forEach_closed (fun _ _ _ => ?_) _ ?_ | split)

theorem resumeFollow_closed (h : ControlClosed P) (i : Fin 6) (hp : P p) : P (resumeFollow i p) := by
  unfold resumeFollow
  try dsimp only
  repeat' split
  all_goals with_reducible repeat' (first | assumption | refine enterFollow_closed h.toInputClosed.toChanClosed.toPtrClosed _ ?_ | split)

theorem parkingToRun_closed (h : ControlClosed P) (hp : P p) : P (parkingToRun p) := by
  unfold parkingToRun
  try dsimp only
  repeat' split
  all_goals with_reducible repeat' (first | assumption | refine chimeSync_closed h.toInputClosed.toChanClosed.toAcctClosed.toLampClosed ?_ | refine composeLamps_closed h.toInputClosed.toChanClosed.toAcctClosed.toLampClosed ?_ | refine evalLamps_closed h.toInputClosed.toChanClosed.toAcctClosed.toLampClosed ?_ | refine unitsStart_closed h.toInputClosed ?_ | refine setOp_closed h _ ?_ | refine setFrozen_closed h.toInputClosed.toChanClosed.toAcctClosed.toLampClosed _ ?_ | refine resumeFollow_closed h _ ?_ | refine forEach_closed (fun _ _ _ => ?_) _ ?_ | split)

theorem parkExit_closed (h : ControlClosed P) (hp : P p) : P (parkExit p) := by
  unfold parkExit
  try dsimp only
  repeat' split
  all_goals with_reducible repeat' (first | assumption | refine evalLamps_closed h.toInputClosed.toChanClosed.toAcctClosed.toLampClosed ?_ | refine resetChans_closed h.toInputClosed.toChanClosed ?_ | refine unitsStart_closed h.toInputClosed ?_ | refine measuresReset_closed h.toInputClosed ?_ | refine setFrozen_closed h.toInputClosed.toChanClosed.toAcctClosed.toLampClosed _ ?_ | refine enterStarting_closed h ?_ | split)

theorem ignRises_closed (h : ControlClosed P) (hp : P p) : P (ignRises p) := by
  unfold ignRises
  try dsimp only
  repeat' split
  all_goals with_reducible repeat' (first | assumption | refine parkingToRun_closed h ?_ | refine parkExit_closed h ?_ | split)

theorem ignFalls_closed (h : ControlClosed P) (hp : P p) : P (ignFalls p) := by
  unfold ignFalls
  try dsimp only
  repeat' split
  all_goals with_reducible repeat' (first | assumption | refine enterParking_closed h ?_ | split)

theorem ignChange_closed (h : ControlClosed P) (on : Bool) (hp : P p) : P (ignChange on p) := by
  unfold ignChange
  try dsimp only
  repeat' split
  all_goals with_reducible repeat' (first | assumption | refine setIgn_closed h _ ?_ | refine ignRises_closed h ?_ | refine ignFalls_closed h ?_ | split)

theorem sampleIgn_closed (h : ControlClosed P) (pin : Bool) (hp : P p) : P (sampleIgn pin p) := by
  unfold sampleIgn
  try dsimp only
  repeat' split
  all_goals with_reducible repeat' (first | assumption | refine setIgn_closed h _ ?_ | refine ignChange_closed h _ ?_ | split)

theorem discreteSample_closed (h : ControlClosed P) (ign : Bool) (pins : Pins) (now : Word) (hp : P p) : P (discreteSample ign pins now p) := by
  unfold discreteSample
  try dsimp only
  repeat' split
  all_goals with_reducible repeat' (first | assumption | refine setFree_closed h.toInputClosed _ ?_ | refine sampleSwitches_closed h.toInputClosed _ ?_ | refine sampleIgn_closed h _ ?_ | split)

theorem dipStart_closed (h : ControlClosed P) (hp : P p) : P (dipStart p) := by
  unfold dipStart
  try dsimp only
  repeat' split
  all_goals with_reducible repeat' (first | assumption | refine setNotice_closed h.toInputClosed.toChanClosed.toAcctClosed.toLampClosed.toMemClosed _ ?_ | refine chimeSync_closed h.toInputClosed.toChanClosed.toAcctClosed.toLampClosed ?_ | refine muteTestTone_closed h.toInputClosed.toChanClosed.toAcctClosed.toLampClosed ?_ | refine freezePtr_closed h.toInputClosed.toChanClosed.toPtrClosed _ ?_ | refine dipChan_closed h.toInputClosed.toChanClosed _ ?_ | refine setCtl_closed h _ ?_ | refine forEach_closed (fun _ _ _ => ?_) _ ?_ | split)

theorem recovery_closed (h : ControlClosed P) (hp : P p) : P (recovery p) := by
  unfold recovery
  try dsimp only
  repeat' split
  all_goals with_reducible repeat' (first | assumption | refine chimeSync_closed h.toInputClosed.toChanClosed.toAcctClosed.toLampClosed ?_ | refine composeLamps_closed h.toInputClosed.toChanClosed.toAcctClosed.toLampClosed ?_ | refine thawPtr_closed h.toInputClosed.toChanClosed.toPtrClosed _ ?_ | refine setCtl_closed h _ ?_ | refine forEach_closed (fun _ _ _ => ?_) _ ?_ | split)

theorem settleEnd_closed (h : ControlClosed P) (hp : P p) : P (settleEnd p) := by
  unfold settleEnd
  try dsimp only
  repeat' split
  all_goals with_reducible repeat' (first | assumption | refine setNotice_closed h.toInputClosed.toChanClosed.toAcctClosed.toLampClosed.toMemClosed _ ?_ | refine setCtl_closed h _ ?_ | split)

theorem commitOvertaken_closed (h : ControlClosed P) (hp : P p) : P (commitOvertaken p) := by
  unfold commitOvertaken; split
  · exact h.freeIdx _ _ (setCtl_closed h _ hp)
  · exact hp

theorem commitAsked_closed (h : ControlClosed P) (hp : P p) : P (commitAsked p) := by
  unfold commitAsked
  try dsimp only
  repeat' split
  all_goals with_reducible repeat' (first | assumption | refine writeCommitResult_closed h.toInputClosed.toChanClosed.toAcctClosed.toLampClosed.toMemClosed _ _ _ ?_ | refine setCtl_closed h _ ?_ | split)

theorem dropHomeReqs_closed (h : ControlClosed P) (hp : P p) : P (dropHomeReqs p) := by
  unfold dropHomeReqs
  try dsimp only
  repeat' split
  all_goals with_reducible repeat' (first | assumption | refine finishHold_closed h _ _ ?_ | refine setHomeReqs_closed h _ ?_ | refine forEach_closed (fun _ _ _ => ?_) _ ?_ | split)

theorem commitValues_closed (h : ControlClosed P) (hp : P p) : P (commitValues p) := by
  unfold commitValues
  try dsimp only
  repeat' split
  all_goals with_reducible repeat' (first | assumption | refine toStartPage_closed h.toInputClosed.toChanClosed.toAcctClosed.toLampClosed ?_ | refine evalLamps_closed h.toInputClosed.toChanClosed.toAcctClosed.toLampClosed ?_ | refine reportWarnings_closed h.toInputClosed.toChanClosed.toAcctClosed.toLampClosed ?_ | refine resetLamps_closed h.toInputClosed.toChanClosed.toAcctClosed.toLampClosed ?_ | refine idleConfirm_closed h.toInputClosed.toChanClosed.toAcctClosed ?_ | refine putSpeedLost_closed h.toInputClosed.toChanClosed.toAcctClosed _ ?_ | refine commitPtr_closed h.toInputClosed.toChanClosed.toPtrClosed _ ?_ | refine resetChans_closed h.toInputClosed.toChanClosed ?_ | refine switchesAfresh_closed h.toInputClosed ?_ | refine setFrozen_closed h.toInputClosed.toChanClosed.toAcctClosed.toLampClosed _ ?_ | refine dropHomeReqs_closed h ?_ | refine forEach_closed (fun _ _ _ => ?_) _ ?_ | split)

theorem commitState_closed (h : ControlClosed P) (hp : P p) : P (commitState p) := by
  unfold commitState
  try dsimp only
  repeat' split
  all_goals with_reducible repeat' (first | assumption | refine unitsStop_closed h.toInputClosed ?_ | refine setFrozen_closed h.toInputClosed.toChanClosed.toAcctClosed.toLampClosed _ ?_ | refine enterStarting_closed h ?_ | refine enterPark_closed h ?_ | refine forgetFrameIfIdle_closed h.toInputClosed.toChanClosed.toAcctClosed.toLampClosed ?_ | split)

theorem commitSuccess_closed (h : ControlClosed P) (staging : Mem) (hp : P p) : P (commitSuccess staging p) := by
  unfold commitSuccess
  try dsimp only
  repeat' split
  all_goals with_reducible repeat' (first | assumption | refine writeCommitResult_closed h.toInputClosed.toChanClosed.toAcctClosed.toLampClosed.toMemClosed _ _ _ ?_ | refine setAccess_closed h _ ?_ | refine setWorking_closed h _ ?_ | refine provingAbandon_closed h ?_ | refine commitValues_closed h ?_ | refine commitState_closed h ?_ | split)

theorem commitEnd_closed (h : ControlClosed P) (hp : P p) : P (commitEnd p) := by
  unfold commitEnd
  try dsimp only
  repeat' split
  all_goals with_reducible repeat' (first | assumption | refine h.reading _ ?_ | refine writeCommitResult_closed h.toInputClosed.toChanClosed.toAcctClosed.toLampClosed.toMemClosed _ _ _ ?_ | refine setCtl_closed h _ ?_ | refine commitSuccess_closed h _ ?_ | split)

theorem requestsLost_closed (h : ControlClosed P) (hp : P p) : P (requestsLost p) := by
  unfold requestsLost
  try dsimp only
  repeat' split
  all_goals with_reducible repeat' (first | assumption | refine setReq_closed h _ ?_ | refine setHomeReqs_closed h _ ?_ | split)

theorem restartBegin_closed (h : ControlClosed P) (cause : Cause) (hp : P p) : P (restartBegin cause p) := by
  unfold restartBegin
  try dsimp only
  repeat' split
  all_goals with_reducible repeat' (first | assumption | refine grantAll_closed h.toGrantClosed ?_ | refine chimeStop_closed h.toInputClosed.toChanClosed.toAcctClosed.toLampClosed ?_ | refine stopTestTone_closed h.toInputClosed.toChanClosed.toAcctClosed.toLampClosed ?_ | refine forgetFrameIfIdle_closed h.toInputClosed.toChanClosed.toAcctClosed.toLampClosed ?_ | refine lampsOff_closed h.toInputClosed.toChanClosed.toAcctClosed.toLampClosed ?_ | refine idleConfirm_closed h.toInputClosed.toChanClosed.toAcctClosed ?_ | refine restartPtr_closed h.toInputClosed.toChanClosed.toPtrClosed _ ?_ | refine setAccess_closed h _ ?_ | refine unitsStop_closed h.toInputClosed ?_ | refine setCtl_closed h _ ?_ | refine setIgn_closed h _ ?_ | refine requestsLost_closed h ?_ | refine forEach_closed (fun _ _ _ => ?_) _ ?_ | split)

theorem restartCause_closed (h : ControlClosed P) (cause : Cause) (hp : P p) : P (restartCause cause p) := by
  unfold restartCause
  try dsimp only
  repeat' split
  all_goals with_reducible repeat' (first | assumption | refine setCtl_closed h _ ?_ | refine restartBegin_closed h _ ?_ | split)

theorem restartAnswer_closed (h : ControlClosed P) (i : Fin 8) (hp : P p) : P (restartAnswer i p) := by
  unfold restartAnswer
  try dsimp only
  repeat' split
  all_goals with_reducible repeat' (first | assumption | refine answerAsItStands_closed h.toSlotClosed _ _ ?_ | split)

theorem seenFromSlots_closed (h : ControlClosed P) (hp : P p) : P (seenFromSlots p) := by
  unfold seenFromSlots
  try dsimp only
  repeat' split
  all_goals with_reducible repeat' (first | assumption | refine setReq_closed h _ ?_ | split)

theorem takeSamples_closed (h : ControlClosed P) (strap ign : Bool) (now : Word) (hp : P p) : P (takeSamples strap ign now p) := setCtl_closed h _ (setIgn_closed h _ (h.free _ _ hp))

theorem generatorsAfresh_closed (h : LampClosed P) (hp : P p) : P (generatorsAfresh p) := h.lampU _ _ hp

theorem restartValues_closed (h : ControlClosed P) (cause : Cause) (hp : P p) : P (restartValues cause p) := by
  unfold restartValues
  try dsimp only
  repeat' split
  all_goals with_reducible repeat' (first | assumption | refine stopMotion_closed h.toInputClosed.toChanClosed.toAcctClosed ?_ | refine submit_closed h.toInputClosed.toChanClosed.toAcctClosed.toJournalClosed _ ?_ | refine toStartPage_closed h.toInputClosed.toChanClosed.toAcctClosed.toLampClosed ?_ | refine evalLamps_closed h.toInputClosed.toChanClosed.toAcctClosed.toLampClosed ?_ | refine reportWarnings_closed h.toInputClosed.toChanClosed.toAcctClosed.toLampClosed ?_ | refine resetLamps_closed h.toInputClosed.toChanClosed.toAcctClosed.toLampClosed ?_ | refine rewriteAccounting_closed h.toInputClosed.toChanClosed.toAcctClosed.toLampClosed.toMemClosed _ _ _ ?_ | refine evalWarnings_closed h.toInputClosed.toChanClosed.toAcctClosed ?_ | refine forceStopped_closed h.toInputClosed.toChanClosed.toAcctClosed ?_ | refine restartEndPtr_closed h.toInputClosed.toChanClosed.toPtrClosed _ ?_ | refine resetChans_closed h.toInputClosed.toChanClosed ?_ | refine measuresReset_closed h.toInputClosed ?_ | refine switchesReset_closed h.toInputClosed ?_ | refine setCtl_closed h _ ?_ | refine setFrozen_closed h.toInputClosed.toChanClosed.toAcctClosed.toLampClosed _ ?_ | refine seenFromSlots_closed h ?_ | refine generatorsAfresh_closed h.toInputClosed.toChanClosed.toAcctClosed.toLampClosed ?_ | refine forEach_closed (fun _ _ _ => ?_) _ ?_ | split)

theorem restartState_closed (h : ControlClosed P) (hp : P p) : P (restartState p) := by
  unfold restartState
  try dsimp only
  repeat' split
  all_goals with_reducible repeat' (first | assumption | refine composeLamps_closed h.toInputClosed.toChanClosed.toAcctClosed.toLampClosed ?_ | refine unitsStart_closed h.toInputClosed ?_ | refine setOp_closed h _ ?_ | refine setFrozen_closed h.toInputClosed.toChanClosed.toAcctClosed.toLampClosed _ ?_ | refine enterStarting_closed h ?_ | split)

theorem restartAnswers_closed (h : ControlClosed P) (hp : P p) : P (restartAnswers p) := by
  unfold restartAnswers
  try dsimp only
  repeat' split
  all_goals with_reducible repeat' (first | assumption | refine setReq_closed h _ ?_ | refine restartAnswer_closed h _ ?_ | refine forEach_closed (fun _ _ _ => ?_) _ ?_ | split)

theorem restartEnd_closed (h : ControlClosed P) (strap ign belowDip : Bool) (now : Word) (hp : P p) : P (restartEnd strap ign belowDip now p) := by
  unfold restartEnd
  try dsimp only
  repeat' split
  all_goals with_reducible repeat' (first | assumption | refine grantAll_closed h.toGrantClosed ?_ | refine dipStart_closed h ?_ | refine takeSamples_closed h _ _ _ ?_ | refine restartValues_closed h _ ?_ | refine restartState_closed h ?_ | refine restartAnswers_closed h ?_ | refine onlyIf_closed (fun _ _ => ?_) _ ?_ | split)

theorem initWork_closed (h : ControlClosed P) (hp : P p) : P (initWork p) := by
  unfold initWork
  exact setCtl_closed h _ (grantAll_closed h.toGrantClosed
    (recordEntry_closed h.toInputClosed.toChanClosed.toAcctClosed.toJournalClosed _ _ (by simp [entryBody])
      (store_closed h.toInputClosed.toChanClosed.toAcctClosed.toLampClosed.toMemClosed _ _ (by simp [ownRecord]) hp)))

theorem setLampRequest_closed (h : LampClosed P) (lamp value : Byte) (hp : P p) : P (setLampRequest lamp value p).part := by
  unfold setLampRequest
  try dsimp only
  repeat' split
  all_goals dsimp only [accept, refuse]
  all_goals with_reducible repeat' (first | assumption | refine setLamp_closed h _ _ ?_ | refine evalLamp_closed h _ ?_ | split)

theorem ackLamp_closed (h : LampClosed P) (which : Byte) (hp : P p) : P (ackLamp which p).part := by
  unfold ackLamp
  try dsimp only
  repeat' split
  all_goals dsimp only [accept, refuse]
  all_goals with_reducible repeat' (first | assumption | refine acknowledge_closed h _ ?_ | refine forEach_closed (fun _ _ _ => ?_) _ ?_ | split)

theorem showPage_closed (h : LampClosed P) (page : Byte) (hp : P p) : P (showPage page p).part := by
  unfold showPage
  try dsimp only
  repeat' split
  all_goals dsimp only [accept, refuse]
  all_goals with_reducible repeat' (first | assumption | refine setPanel_closed h _ ?_ | split)

theorem snapshot_closed (h : MemClosed P) (page : Byte) (hp : P p) : P (snapshot page p).part := by
  unfold snapshot; split
  · exact storeRun_closed h _ _ (by rw [diagWindow_length]; simp [ownRun, diagAddr]) hp
  · exact hp

theorem answerReply_closed (h : SlotClosed P) (i : Fin 8) (taken : List Byte) (r : Reply) (hd : r.data.length ≤ 24)
    (hp : P r.part) : P (answerReply i taken r) := answerTaken_closed h _ _ _ _ hd hp

theorem prove_closed (h : ControlClosed P) (i : Fin 8) (taken : List Byte) (hp : P p) : P (prove i taken p) := by
  unfold prove
  refine ite_closed (answerTaken_closed h.toSlotClosed _ _ _ _ (by simp) hp) ?_
  refine ite_closed (answerTaken_closed h.toSlotClosed _ _ _ _ (by simp) hp) ?_
  refine ite_closed (answerTaken_closed h.toSlotClosed _ _ _ _ (by simp) hp) ?_
  exact provingStart_closed h _ (holdSlot_closed h _ _ hp)

theorem homePointer_closed (h : ControlClosed P) (i : Fin 8) (taken : List Byte) (which : Byte) (hp : P p) : P (homePointer i taken which p) := by
  unfold homePointer
  dsimp only
  refine ite_closed (answerTaken_closed h.toSlotClosed _ _ _ _ (by simp) hp) ?_
  refine ite_closed (answerTaken_closed h.toSlotClosed _ _ _ _ (by simp) hp) ?_
  refine ite_closed (answerTaken_closed h.toSlotClosed _ _ _ _ (by simp) hp) ?_
  refine ite_closed (answerTaken_closed h.toSlotClosed _ _ _ _ (by simp) hp) ?_
  refine ite_closed (answerTaken_closed h.toSlotClosed _ _ _ _ (by simp) hp) ?_
  exact forEach_closed (fun _ _ hq => homingBegin_closed h.toInputClosed.toChanClosed.toPtrClosed _ hq) _
    (setHomeReqs_closed h _ (holdSlot_closed h _ _ hp))

theorem restartRequest_closed (h : ControlClosed P) (i : Fin 8) (taken : List Byte) (hp : P p) : P (restartRequest i taken p) := by
  unfold restartRequest
  try dsimp only
  repeat' split
  all_goals with_reducible repeat' (first | assumption | refine setReq_closed h _ ?_ | refine holdSlot_closed h _ _ ?_ | split)

theorem failedSlot_closed (h : ControlClosed P) (i : Fin 8) (bs : List Byte) (hb : bs.length = 32) (hp : P p) :
    P (failedSlot i bs p) := by
  unfold failedSlot
  have hq := logCheckFailure_closed h.toInputClosed.toChanClosed.toAcctClosed.toLampClosed.toMemClosed 2 i bs (.inr ⟨rfl, i.isLt, hb⟩) hp
  dsimp only
  split
  · exact h.req _ _ hq
  · exact answerTaken_closed h.toSlotClosed _ _ _ _ (by simp) hq

/-! The answer data of the short kinds fits the answer (R24). -/

theorem setActivity_data (a b : Byte) (p : Part) : (setActivity a b p).data.length ≤ 24 := by
  unfold setActivity; repeat' split
  all_goals simp [accept, refuse]

theorem cardIn_data (a b : Byte) (c : Identity) (d e : Half) (p : Part) : (cardIn a b c d e p).data.length ≤ 24 := by
  unfold cardIn; repeat' split
  all_goals simp [accept, refuse]

theorem cardOut_data (a : Byte) (p : Part) : (cardOut a p).data.length ≤ 24 := by
  unfold cardOut; repeat' split
  all_goals simp [refuse]

theorem swapSeats_data (p : Part) : (swapSeats p).data.length ≤ 24 := by
  unfold swapSeats; repeat' split
  all_goals simp [accept, refuse]

theorem ackLamp_data (a : Byte) (p : Part) : (ackLamp a p).data.length ≤ 24 := by
  unfold ackLamp; dsimp only; repeat' split
  all_goals simp [accept, refuse]

theorem setLampRequest_data (a b : Byte) (p : Part) : (setLampRequest a b p).data.length ≤ 24 := by
  unfold setLampRequest; dsimp only; repeat' split
  all_goals simp [accept, refuse]

theorem showPage_data (a : Byte) (p : Part) : (showPage a p).data.length ≤ 24 := by
  unfold showPage; repeat' split
  all_goals simp [accept, refuse]

theorem snapshot_data (a : Byte) (p : Part) : (snapshot a p).data.length ≤ 24 := by
  unfold snapshot; repeat' split
  all_goals simp [accept, refuse]

theorem serve_closed (h : ControlClosed P) (i : Fin 8) (t : List Byte) (hp : P p) : P (serve i t p) := by
  have a (r : Reply) (hd : r.data.length ≤ 24) (hr : P r.part) : P (answerReply i t r) :=
    answerReply_closed h.toSlotClosed i t r hd hr
  unfold serve
  refine ite_closed (a _ (setActivity_data _ _ _) (setActivity_closed h.toInputClosed.toChanClosed.toAcctClosed _ _ hp)) ?_
  refine ite_closed (a _ (cardIn_data _ _ _ _ _ _) (cardIn_closed h.toInputClosed.toChanClosed.toAcctClosed _ _ _ _ _ hp)) ?_
  refine ite_closed (a _ (cardOut_data _ _) (cardOut_closed h.toInputClosed.toChanClosed.toAcctClosed _ hp)) ?_
  refine ite_closed (a _ (swapSeats_data _) (swapSeats_closed h.toInputClosed.toChanClosed.toAcctClosed hp)) ?_
  refine ite_closed (a _ (by simp [accept]) (setTime_closed h.toInputClosed.toChanClosed.toAcctClosed _ hp)) ?_
  refine ite_closed (a _ (ackLamp_data _ _) (ackLamp_closed h.toInputClosed.toChanClosed.toAcctClosed.toLampClosed _ hp)) ?_
  refine ite_closed (a _ (setLampRequest_data _ _ _) (setLampRequest_closed h.toInputClosed.toChanClosed.toAcctClosed.toLampClosed _ _ hp)) ?_
  refine ite_closed (prove_closed h _ _ hp) ?_
  refine ite_closed (homePointer_closed h _ _ _ hp) ?_
  refine ite_closed (a _ (showPage_data _ _) (showPage_closed h.toInputClosed.toChanClosed.toAcctClosed.toLampClosed _ hp)) ?_
  refine ite_closed (a _ (snapshot_data _ _) (snapshot_closed h.toInputClosed.toChanClosed.toAcctClosed.toLampClosed.toMemClosed _ hp)) ?_
  refine ite_closed (restartRequest_closed h _ _ hp) ?_
  exact answerTaken_closed h.toSlotClosed _ _ _ _ (by simp) hp

theorem markTaken_closed (h : SlotClosed P) (i : Fin 8) (bs : List Byte) (hp : P p) : P (markTaken i bs p) :=
  grantAll_closed h.toGrantClosed (h.slot _ _ _ (by simp [markState, withCheck]) (markState_length _ _) hp)

theorem intakeSlot_closed (h : ControlClosed P) (i : Fin 8) (hp : P p) : P (intakeSlot i p) := by
  unfold intakeSlot
  have hr := h.reading _ hp
  refine ite_closed hp (ite_closed hr (ite_closed (failedSlot_closed h _ _ (by simp [slotBytes]) hr) (serve_closed h _ _ (onlyIf_closed (fun _ hq => ?_) _ hr))))
  exact markTaken_closed h.toSlotClosed _ _ hq

theorem intakeInbox_closed (h : ControlClosed P) (i : Fin 16) (hp : P p) : P (intakeInbox i p) := by
  have hb : blockAccess (.checkFailure 1 i (memReadN p.grantReading.mem (inboxAddr i) 8)) := .inl ⟨rfl, i.isLt, by simp⟩
  unfold intakeInbox
  try dsimp only
  repeat' split
  all_goals with_reducible repeat' (first | assumption | refine h.reading _ ?_ | refine logCheckFailure_closed h.toInputClosed.toChanClosed.toAcctClosed.toLampClosed.toMemClosed _ _ _ hb ?_ | refine deliverTo_closed (fun _ _ _ => ?_) _ _ ?_ | refine inboxChan_closed h.toInputClosed.toChanClosed _ _ _ ?_ | refine setReq_closed h _ ?_ | split)

theorem askScan_closed (h : ControlClosed P) (periodic : Bool) (time : Nat) (hp : P p) : P (askScan periodic time p) := by
  unfold askScan
  try dsimp only
  repeat' split
  all_goals with_reducible repeat' (first | assumption | refine setReq_closed h _ ?_ | split)

theorem countScan_closed (h : ControlClosed P) (hp : P p) : P (countScan p) := store_closed h.toInputClosed.toChanClosed.toAcctClosed.toLampClosed.toMemClosed _ _ (by simp [ownRecord, scanCountAddr]) hp

theorem liftHalt_closed (h : ControlClosed P) (hp : P p) : P (liftHalt p) := by
  unfold liftHalt
  try dsimp only
  repeat' split
  all_goals with_reducible repeat' (first | assumption | refine setReq_closed h _ ?_ | split)

theorem handRestarts_closed (h : ControlClosed P) (hp : P p) : P (handRestarts p) := by
  unfold handRestarts
  try dsimp only
  repeat' split
  all_goals with_reducible repeat' (first | assumption | refine restartCause_closed h _ ?_ | split)

theorem runScan_closed (h : ControlClosed P) (sc : PendingScan) (hp : P p) : P (runScan sc p) := by
  unfold runScan
  try dsimp only
  repeat' split
  all_goals with_reducible repeat' (first | assumption | refine advanceAges_closed h.toInputClosed.toChanClosed _ ?_ | refine setReq_closed h _ ?_ | refine intakeSlot_closed h _ ?_ | refine intakeInbox_closed h _ ?_ | refine countScan_closed h ?_ | refine liftHalt_closed h ?_ | refine handRestarts_closed h ?_ | refine forEach_closed (fun _ _ _ => ?_) _ ?_ | refine onlyIf_closed (fun _ _ => ?_) _ ?_ | split)

theorem scanTimerExpiry_closed (h : ControlClosed P) (hp : P p) : P (scanTimerExpiry p) := by
  unfold scanTimerExpiry
  try dsimp only
  repeat' split
  all_goals with_reducible repeat' (first | assumption | refine askScan_closed h _ _ ?_ | split)

theorem exchangeScan_closed (h : ControlClosed P) (hp : P p) : P (exchangeScan p) := by
  unfold exchangeScan
  try dsimp only
  repeat' split
  all_goals with_reducible repeat' (first | assumption | refine runScan_closed h _ ?_ | split)

theorem shortRow_closed (h : SlotClosed P) (i : Fin 8) (kind : Byte) (params : List Byte) {act : Part → Reply}
    (hd : ∀ p, (act p).data.length ≤ 24) (ha : ∀ p, P p → P (act p).part) (hp : P p) :
    P (shortRow i kind params act p) := by
  unfold shortRow; split
  · exact answerReply_closed h _ _ _ (hd _) (ha _ (h.reading _ hp))
  · exact hp

theorem longRow_closed (h : SlotClosed P) (i : Fin 8) (kind : Byte) (params : List Byte) {act : List Byte → Part → Part}
    (ha : ∀ t p, P p → P (act t p)) (hp : P p) : P (longRow i kind params act p) := by
  unfold longRow; split
  · exact ha _ _ (onlyIf_closed (fun _ hq => markTaken_closed h _ _ hq) _ (h.reading _ hp))
  · exact hp

theorem setLink_closed (h : LinkClosed P) (l : LinkState) (hp : P p) : P (setLink l p) := h.link _ _ hp

theorem setSdo_closed (h : LinkClosed P) (b : Option Byte) (hp : P p) : P (setSdo b p) := h.link _ _ hp

theorem selAssert_closed (h : LinkClosed P) (hp : P p) : P (selAssert p) := by
  unfold selAssert
  try dsimp only
  repeat' split
  all_goals with_reducible repeat' (first | assumption | refine setLink_closed h _ ?_ | refine setSdo_closed h _ ?_ | split)

theorem commandByte_closed (h : LinkClosed P) (after : LinkState) (hp : P p) : P (commandByte after p) := by
  unfold commandByte
  try dsimp only
  repeat' split
  all_goals with_reducible repeat' (first | assumption | refine setLink_closed h _ ?_ | split)

theorem addressHigh_closed (h : LinkClosed P) (b : Byte) (hp : P p) : P (addressHigh b p) := by
  unfold addressHigh
  try dsimp only
  repeat' split
  all_goals with_reducible repeat' (first | assumption | refine setLink_closed h _ ?_ | split)

theorem addressLow_closed (h : LinkClosed P) (b : Byte) (hp : P p) : P (addressLow b p) := by
  unfold addressLow
  try dsimp only
  repeat' split
  all_goals with_reducible repeat' (first | assumption | refine setLink_closed h _ ?_ | split)

theorem selRelease_closed (h : LinkClosed P) (hp : P p) : P (selRelease p) := by
  unfold selRelease
  try dsimp only
  repeat' split
  all_goals with_reducible repeat' (first | assumption | refine setLink_closed h _ ?_ | refine setSdo_closed h _ ?_ | split)

theorem arbitrate_closed (h : LinkClosed P) (a : Nat) (hp : P p) : P (arbitrate a p) :=
  onlyIf_closed (fun _ hq => h.grantLink _ hq) _ hp

theorem dataRead_closed (h : LinkClosed P) (hp : P p) : P (dataRead p) := by
  unfold dataRead
  split
  · exact setLink_closed h _ (setSdo_closed h _ (arbitrate_closed h _ hp))
  · exact hp

theorem keyWrite_closed (h : LinkClosed P) (v : Byte) (hp : P p) : P (keyWrite v p) := by
  unfold keyWrite
  try dsimp only
  repeat' split
  all_goals with_reducible repeat' (first | assumption | refine setNotice_closed h.toControlClosed.toInputClosed.toChanClosed.toAcctClosed.toLampClosed.toMemClosed _ ?_ | refine setAccess_closed h.toControlClosed _ ?_ | refine commitAsked_closed h.toControlClosed ?_ | split)

theorem writeElsewhere_closed (h : LinkClosed P) (hp : P p) : P (writeElsewhere p) := by
  unfold writeElsewhere
  try dsimp only
  repeat' split
  all_goals with_reducible repeat' (first | assumption | refine setAccess_closed h.toControlClosed _ ?_ | split)

theorem configWrite_closed (h : LinkClosed P) (a : Nat) (v : Byte) (hp : P p) : P (configWrite a v p) := by
  unfold configWrite; split
  · exact h.anyMem _ _ _ (commitOvertaken_closed h.toControlClosed hp)
  · exact protectedWrite_closed h.toOwnClosed _ _ _ hp

theorem linkWrite_closed (h : LinkClosed P) (a : Nat) (v : Byte) (hp : P p) : P (linkWrite a v p) := by
  unfold linkWrite
  split
  · exact keyWrite_closed h _ hp
  · exact writeElsewhere_closed h (h.anyMem _ _ _ hp)
  · exact writeElsewhere_closed h (protectedWrite_closed h.toOwnClosed _ _ _ hp)
  · exact writeElsewhere_closed h hp
  · exact writeElsewhere_closed h (configWrite_closed h _ _ hp)
  · exact writeElsewhere_closed h (clearNotices_closed h.toOwnClosed _ _ hp)
  · exact writeElsewhere_closed h (clearNotices_closed h.toOwnClosed _ _ hp)
  · exact writeElsewhere_closed h
      (offerReadMark_closed h.toControlClosed.toInputClosed.toChanClosed.toAcctClosed.toJournalClosed h.toOwnClosed _ hp)
  · exact writeElsewhere_closed h (askScan_closed h.toControlClosed _ _ hp)

theorem servedWrite_closed (h : LinkClosed P) (a : Nat) (v : Byte) (hp : P p) : P (servedWrite a v p) := by
  unfold servedWrite; split
  · exact linkWrite_closed h _ _ (arbitrate_closed h _ hp)
  · exact hp

theorem dataWrite_closed (h : LinkClosed P) (v : Byte) (hp : P p) : P (dataWrite v p) := by
  unfold dataWrite
  try dsimp only
  repeat' split
  all_goals with_reducible repeat' (first | assumption | refine setLink_closed h _ ?_ | refine servedWrite_closed h _ _ ?_ | split)

theorem registerWrite_closed (h : LinkClosed P) (a : Nat) (v : Byte) (hp : P p) : P (registerWrite a v p) := by
  unfold registerWrite
  try dsimp only
  repeat' split
  all_goals with_reducible repeat' (first | assumption | refine servedWrite_closed h _ _ ?_ | refine dataWrite_closed h _ ?_ | split)

theorem runTimers_closed (h : ControlClosed P) (hp : P p) : P (runTimers p) := by
  have h1 := h.free p (p.free + 1) hp
  have h2 := h.ctl _ { p.ctl with
    settle := runDown p.ctl.settle
    proving := p.ctl.proving.map fun c => { c with timer := runDown c.timer } } h1
  have h3 := h.lamps _ (p.lamps.map fun l => { l with onDelay := runDown l.onDelay }) h2
  have h4 := h.chime _ { p.chime with phase := p.chime.phase.runDown, test := runDown p.chime.test } h3
  exact h.acct _ { p.acct with confirm := p.acct.confirm.map Confirm.runDown } h4

theorem passMicrosecond_closed (h : ControlClosed P) (hp : P p) : P (passMicrosecond p) :=
  grantAll_closed h.toGrantClosed (runTimers_closed h hp)

theorem idleStep_closed (h : ControlClosed P) (hp : P p) : P (idleStep p) := by
  unfold idleStep
  try dsimp only
  repeat' split
  all_goals with_reducible repeat' (first | assumption | refine passMicrosecond_closed h ?_ | split)

/-! ### The waiting accesses are those that a block may ask for -/

theorem request_keeps_WaitingLaw {x : RecordAccess} (hx : blockAccess x) (hp : WaitingLaw p) : WaitingLaw (p.request x) := by
  intro y hy
  rcases List.mem_append.1 hy with h | h
  · exact hp y h
  · obtain rfl := List.mem_singleton.1 h
    exact hx

/-- Granting leaves what waited, and the notice that follows a written answer. -/
theorem grantSome_keeps_blockAccess : ∀ (n : Nat) (m : Mem) (w : List RecordAccess), (∀ x ∈ w, blockAccess x) →
    ∀ x ∈ (grantSome n m w).2, blockAccess x
  | 0, _, _, h => h
  | _ + 1, _, [], h => h
  | n + 1, m, x :: w, h => by
    refine grantSome_keeps_blockAccess n _ _ fun y hy => ?_
    rcases List.mem_append.1 hy with hy | hy
    · cases x with
      | answer =>
        simp only [RecordAccess.next] at hy
        split at hy
        · obtain rfl := List.mem_singleton.1 hy
          trivial
        · cases hy
      | write | notice | checkFailure => cases hy
    · exact h y (List.mem_cons_of_mem _ hy)

/-- R7: no write of the part or of the host makes another kind of access wait. -/
theorem waitingLaw_linkClosed : LinkClosed WaitingLaw where
  store p a bs h hp := request_keeps_WaitingLaw (.inl h) hp
  notice p n hp := request_keeps_WaitingLaw trivial hp
  check p area slot bytes h hp := request_keeps_WaitingLaw h hp
  slot p i bs h1 h2 hp := request_keeps_WaitingLaw (.inr ⟨i, by simp [slotAddr], h1, h2⟩) hp
  answer p i bs h1 h2 hp := request_keeps_WaitingLaw ⟨h1, h2⟩ hp
  grant p hp := fun x h => by simp [Part.grantAll] at h
  reading p hp := fun x h => by simp [Part.grantReading, Part.grantAll] at h
  grantLink p hp := grantSome_keeps_blockAccess _ _ _ hp
  anyMem p a v hp := hp
  jour p x hp := hp
  lamps p x hp := hp
  lampU p x hp := hp
  chime p x hp := hp
  panel p x hp := hp
  ptrs p x hp := hp
  acct p x hp := hp
  chans p x hp := hp
  conv p x hp := hp
  free p x hp := hp
  pulse p x hp := hp
  sw p x hp := hp
  ctl p x hp := hp
  req p x hp := hp
  ign p x hp := hp
  homeReqs p x hp := hp
  working p x hp := hp
  freeIdx p x hp := hp
  link p x hp := hp

end Sys2Proof.Machine
end

