-- ==== Sys2Proof/Laws/PerInstr.lean ====
section
/-! SUPPORT. The family "Unspelt", one lemma for each command: no word spells it, because the table of operations and events
gives no row any bits. -/

namespace Sys2Proof.Laws.Unspelt

/-- No word decodes to the command. -/
def Statement (i : Instr) : Prop := ∀ n w, decodeTableWord n w ≠ some i

theorem all (i : Instr) : Statement i := fun _ _ h => nomatch h

theorem powerOn : Statement .powerOn := all _
theorem initEnd (strap ign belowDip : Bool) (now : Word) : Statement (.initEnd strap ign belowDip now) := all _
theorem selAssert : Statement .selAssert := all _
theorem readCommand : Statement .readCommand := all _
theorem writeCommand : Statement .writeCommand := all _
theorem ignore (b : Byte) : Statement (.ignore b) := all _
theorem addressHigh (b : Byte) : Statement (.addressHigh b) := all _
theorem addressLow (b : Byte) : Statement (.addressLow b) := all _
theorem dataRead : Statement .dataRead := all _
theorem dataWrite (v : Byte) : Statement (.dataWrite v) := all _
theorem selRelease : Statement .selRelease := all _
theorem keyArm : Statement .keyArm := all _
theorem keyCommit : Statement .keyCommit := all _
theorem keyOther (v : Byte) : Statement (.keyOther v) := all _
theorem prompt (v : Byte) : Statement (.prompt v) := all _
theorem noticeClear (high : Bool) (v : Byte) : Statement (.noticeClear high v) := all _
theorem noticeMaskWrite (high : Bool) (v : Byte) : Statement (.noticeMaskWrite high v) := all _
theorem readMarkWrite (v : Byte) : Statement (.readMarkWrite v) := all _
theorem scanTimerExpiry : Statement .scanTimerExpiry := all _
theorem exchangeScan : Statement .exchangeScan := all _
theorem setActivity (slot : Fin 8) (seat activity : Byte) : Statement (.setActivity slot seat activity) := all _
theorem cardIn (slot : Fin 8) (seat flags : Byte) (identity : Identity) (cdt ddt : Half) : Statement (.cardIn slot seat flags identity cdt ddt) := all _
theorem cardOut (slot : Fin 8) (seat : Byte) : Statement (.cardOut slot seat) := all _
theorem swapSeats (slot : Fin 8) : Statement (.swapSeats slot) := all _
theorem setTime (slot : Fin 8) (clock : Word) : Statement (.setTime slot clock) := all _
theorem ackLamp (slot : Fin 8) (which : Byte) : Statement (.ackLamp slot which) := all _
theorem setLamp (slot : Fin 8) (lamp value : Byte) : Statement (.setLamp slot lamp value) := all _
theorem prove (slot : Fin 8) : Statement (.prove slot) := all _
theorem homePointer (slot : Fin 8) (which : Byte) : Statement (.homePointer slot which) := all _
theorem showPage (slot : Fin 8) (page : Byte) : Statement (.showPage slot page) := all _
theorem snapshot (slot : Fin 8) (page : Byte) : Statement (.snapshot slot page) := all _
theorem restart (slot : Fin 8) : Statement (.restart slot) := all _
theorem resetAssert : Statement .resetAssert := all _
theorem resetRelease : Statement .resetRelease := all _
theorem supplyBelowReset : Statement .supplyBelowReset := all _
theorem supplyAboveReset : Statement .supplyAboveReset := all _
theorem restartEnd (strap ign belowDip : Bool) (now : Word) : Statement (.restartEnd strap ign belowDip now) := all _
theorem ignRise (now : Word) : Statement (.ignRise now) := all _
theorem ignFall : Statement .ignFall := all _
theorem parkEntry : Statement .parkEntry := all _
theorem commitEnd : Statement .commitEnd := all _
theorem dipStart : Statement .dipStart := all _
theorem recovery : Statement .recovery := all _
theorem settleTimerExpiry : Statement .settleTimerExpiry := all _
theorem provingTimerExpiry : Statement .provingTimerExpiry := all _
theorem testToneEnd : Statement .testToneEnd := all _
theorem conversionSlot (level : Int) : Statement (.conversionSlot level) := all _
theorem conversionComplete : Statement .conversionComplete := all _
theorem pulseEdge (input : Fin 4) (rising : Bool) (now : Word) : Statement (.pulseEdge input rising now) := all _
theorem windowEnd (input : Fin 4) : Statement (.windowEnd input) := all _
theorem discreteSample (ign : Bool) (pins : Pins) (now : Word) : Statement (.discreteSample ign pins now) := all _
theorem switchChange (input : Fin 8) (state : Bool) : Statement (.switchChange input state) := all _
theorem motionTick : Statement .motionTick := all _
theorem homingEnd (ptr : Fin 6) : Statement (.homingEnd ptr) := all _
theorem coilPeriodBoundary : Statement .coilPeriodBoundary := all _
theorem onDelayExpiry (lamp : Fin 32) : Statement (.onDelayExpiry lamp) := all _
theorem flashPhaseChange (fast : Bool) : Statement (.flashPhaseChange fast) := all _
theorem lampPeriodBoundary : Statement .lampPeriodBoundary := all _
theorem senseCheck (low : BitVec 32) : Statement (.senseCheck low) := all _
theorem overcurrent (lamp : Fin 32) : Statement (.overcurrent lamp) := all _
theorem chimeToneEnd : Statement .chimeToneEnd := all _
theorem chimeGapEnd : Statement .chimeGapEnd := all _
theorem secondTick : Statement .secondTick := all _
theorem confirmTimerExpiry : Statement .confirmTimerExpiry := all _
theorem journalSubmission (sub : Submission) : Statement (.journalSubmission sub) := all _
theorem panelRefresh : Statement .panelRefresh := all _
theorem messageDisplayTimeout : Statement .messageDisplayTimeout := all _

end Sys2Proof.Laws.Unspelt
end

