-- ==== Sys2Proof/Laws/State.lean ====
section
/-! SUPPORT. Each update of the state, field by field: what the updated field holds, and that every other field is as it
was. -/

namespace Sys2Proof.Machine

variable (p : Part)

/-! ### One of a fixed number of like things -/

@[simp] theorem updAt_self {α : Type} {n : Nat} (i : Fin n) (f : α → α) (v : Vector α n) : (updAt i f v)[i] = f v[i] := by
  simp [updAt]

theorem updAt_other {α : Type} {n : Nat} (i j : Fin n) (f : α → α) (v : Vector α n) (h : i ≠ j) :
    (updAt i f v)[j] = v[j] := by
  have : i.val ≠ j.val := fun e => h (Fin.ext e)
  simp [updAt, this]

/-- R8: a rewrite of a long record asks for record accesses, behind those that wait, and changes nothing else. -/
theorem rewriteLongRecord_only (a : Nat) (b : List Byte) :
    p.rewriteLongRecord a b = { p with arb := (p.rewriteLongRecord a b).arb } := by
  rw [Part.rewriteLongRecord, storeRun_eq]

theorem onlyIf_true (f : Part → Part) : onlyIf true f p = f p := rfl
theorem onlyIf_false (f : Part → Part) : onlyIf false f p = p := rfl

/-! ### Part.request -/

@[simp] theorem Part.request_mem (x : RecordAccess) : (p.request x).mem = x.effect p.mem :=
  Machine.request_mem p x
@[simp] theorem Part.request_exch (x : RecordAccess) : (p.request x).exch = p.exch := rfl
@[simp] theorem Part.request_arb (x : RecordAccess) :
    (p.request x).arb = { p.arb with waiting := p.arb.waiting ++ [x] } := rfl
@[simp] theorem Part.request_working (x : RecordAccess) : (p.request x).working = p.working := rfl
@[simp] theorem Part.request_link (x : RecordAccess) : (p.request x).link = p.link := rfl
@[simp] theorem Part.request_req (x : RecordAccess) : (p.request x).req = p.req := rfl
@[simp] theorem Part.request_ctl (x : RecordAccess) : (p.request x).ctl = p.ctl := rfl
@[simp] theorem Part.request_conv (x : RecordAccess) : (p.request x).conv = p.conv := rfl
@[simp] theorem Part.request_free (x : RecordAccess) : (p.request x).free = p.free := rfl
@[simp] theorem Part.request_pulse (x : RecordAccess) : (p.request x).pulse = p.pulse := rfl
@[simp] theorem Part.request_sw (x : RecordAccess) : (p.request x).sw = p.sw := rfl
@[simp] theorem Part.request_ign (x : RecordAccess) : (p.request x).ign = p.ign := rfl
@[simp] theorem Part.request_chans (x : RecordAccess) : (p.request x).chans = p.chans := rfl
@[simp] theorem Part.request_ptrs (x : RecordAccess) : (p.request x).ptrs = p.ptrs := rfl
@[simp] theorem Part.request_homeReqs (x : RecordAccess) : (p.request x).homeReqs = p.homeReqs := rfl
@[simp] theorem Part.request_lamps (x : RecordAccess) : (p.request x).lamps = p.lamps := rfl
@[simp] theorem Part.request_lampU (x : RecordAccess) : (p.request x).lampU = p.lampU := rfl
@[simp] theorem Part.request_chime (x : RecordAccess) : (p.request x).chime = p.chime := rfl
@[simp] theorem Part.request_acct (x : RecordAccess) : (p.request x).acct = p.acct := rfl
@[simp] theorem Part.request_jour (x : RecordAccess) : (p.request x).jour = p.jour := rfl
@[simp] theorem Part.request_panel (x : RecordAccess) : (p.request x).panel = p.panel := rfl
@[simp] theorem Part.request_freeIdx (x : RecordAccess) : (p.request x).freeIdx = p.freeIdx := rfl

/-! ### Part.store -/

@[simp] theorem Part.store_mem (a : Nat) (bs : List Byte) : (p.store a bs).mem = memWriteN p.mem a bs := Machine.request_mem p _
@[simp] theorem Part.store_exch (a : Nat) (bs : List Byte) : (p.store a bs).exch = p.exch := rfl
@[simp] theorem Part.store_arb (a : Nat) (bs : List Byte) :
    (p.store a bs).arb = { p.arb with waiting := p.arb.waiting ++ [.write a bs] } := rfl
@[simp] theorem Part.store_working (a : Nat) (bs : List Byte) : (p.store a bs).working = p.working := rfl
@[simp] theorem Part.store_link (a : Nat) (bs : List Byte) : (p.store a bs).link = p.link := rfl
@[simp] theorem Part.store_req (a : Nat) (bs : List Byte) : (p.store a bs).req = p.req := rfl
@[simp] theorem Part.store_ctl (a : Nat) (bs : List Byte) : (p.store a bs).ctl = p.ctl := rfl
@[simp] theorem Part.store_conv (a : Nat) (bs : List Byte) : (p.store a bs).conv = p.conv := rfl
@[simp] theorem Part.store_free (a : Nat) (bs : List Byte) : (p.store a bs).free = p.free := rfl
@[simp] theorem Part.store_pulse (a : Nat) (bs : List Byte) : (p.store a bs).pulse = p.pulse := rfl
@[simp] theorem Part.store_sw (a : Nat) (bs : List Byte) : (p.store a bs).sw = p.sw := rfl
@[simp] theorem Part.store_ign (a : Nat) (bs : List Byte) : (p.store a bs).ign = p.ign := rfl
@[simp] theorem Part.store_chans (a : Nat) (bs : List Byte) : (p.store a bs).chans = p.chans := rfl
@[simp] theorem Part.store_ptrs (a : Nat) (bs : List Byte) : (p.store a bs).ptrs = p.ptrs := rfl
@[simp] theorem Part.store_homeReqs (a : Nat) (bs : List Byte) : (p.store a bs).homeReqs = p.homeReqs := rfl
@[simp] theorem Part.store_lamps (a : Nat) (bs : List Byte) : (p.store a bs).lamps = p.lamps := rfl
@[simp] theorem Part.store_lampU (a : Nat) (bs : List Byte) : (p.store a bs).lampU = p.lampU := rfl
@[simp] theorem Part.store_chime (a : Nat) (bs : List Byte) : (p.store a bs).chime = p.chime := rfl
@[simp] theorem Part.store_acct (a : Nat) (bs : List Byte) : (p.store a bs).acct = p.acct := rfl
@[simp] theorem Part.store_jour (a : Nat) (bs : List Byte) : (p.store a bs).jour = p.jour := rfl
@[simp] theorem Part.store_panel (a : Nat) (bs : List Byte) : (p.store a bs).panel = p.panel := rfl
@[simp] theorem Part.store_freeIdx (a : Nat) (bs : List Byte) : (p.store a bs).freeIdx = p.freeIdx := rfl

/-! ### Part.grantRecords -/

@[simp] theorem Part.grantRecords_mem (n : Nat) : (p.grantRecords n).mem = p.mem := Machine.grantRecords_mem p n
@[simp] theorem Part.grantRecords_waiting (n : Nat) :
    (p.grantRecords n).arb.waiting = (grantSome n p.exch p.arb.waiting).2 := rfl
@[simp] theorem Part.grantRecords_idx (n : Nat) : (p.grantRecords n).arb.idx = p.arb.idx := rfl
@[simp] theorem Part.grantRecords_exch (n : Nat) :
    (p.grantRecords n).exch = (grantSome n p.exch p.arb.waiting).1 := rfl
@[simp] theorem Part.grantRecords_working (n : Nat) : (p.grantRecords n).working = p.working := rfl
@[simp] theorem Part.grantRecords_link (n : Nat) : (p.grantRecords n).link = p.link := rfl
@[simp] theorem Part.grantRecords_req (n : Nat) : (p.grantRecords n).req = p.req := rfl
@[simp] theorem Part.grantRecords_ctl (n : Nat) : (p.grantRecords n).ctl = p.ctl := rfl
@[simp] theorem Part.grantRecords_conv (n : Nat) : (p.grantRecords n).conv = p.conv := rfl
@[simp] theorem Part.grantRecords_free (n : Nat) : (p.grantRecords n).free = p.free := rfl
@[simp] theorem Part.grantRecords_pulse (n : Nat) : (p.grantRecords n).pulse = p.pulse := rfl
@[simp] theorem Part.grantRecords_sw (n : Nat) : (p.grantRecords n).sw = p.sw := rfl
@[simp] theorem Part.grantRecords_ign (n : Nat) : (p.grantRecords n).ign = p.ign := rfl
@[simp] theorem Part.grantRecords_chans (n : Nat) : (p.grantRecords n).chans = p.chans := rfl
@[simp] theorem Part.grantRecords_ptrs (n : Nat) : (p.grantRecords n).ptrs = p.ptrs := rfl
@[simp] theorem Part.grantRecords_homeReqs (n : Nat) : (p.grantRecords n).homeReqs = p.homeReqs := rfl
@[simp] theorem Part.grantRecords_lamps (n : Nat) : (p.grantRecords n).lamps = p.lamps := rfl
@[simp] theorem Part.grantRecords_lampU (n : Nat) : (p.grantRecords n).lampU = p.lampU := rfl
@[simp] theorem Part.grantRecords_chime (n : Nat) : (p.grantRecords n).chime = p.chime := rfl
@[simp] theorem Part.grantRecords_acct (n : Nat) : (p.grantRecords n).acct = p.acct := rfl
@[simp] theorem Part.grantRecords_jour (n : Nat) : (p.grantRecords n).jour = p.jour := rfl
@[simp] theorem Part.grantRecords_panel (n : Nat) : (p.grantRecords n).panel = p.panel := rfl
@[simp] theorem Part.grantRecords_freeIdx (n : Nat) : (p.grantRecords n).freeIdx = p.freeIdx := rfl

/-! ### Part.grantAll -/

@[simp] theorem Part.grantAll_mem : p.grantAll.mem = p.mem := rfl
@[simp] theorem Part.grantAll_exch : p.grantAll.exch = p.mem := by rw [grantAll_eq]
@[simp] theorem Part.grantAll_arb : p.grantAll.arb =
    { p.arb with last := if p.arb.waiting.isEmpty then p.arb.last else .record, waiting := [] } := by rw [grantAll_eq]
@[simp] theorem Part.grantAll_working : (p.grantAll).working = p.working := rfl
@[simp] theorem Part.grantAll_link : (p.grantAll).link = p.link := rfl
@[simp] theorem Part.grantAll_req : (p.grantAll).req = p.req := rfl
@[simp] theorem Part.grantAll_ctl : (p.grantAll).ctl = p.ctl := rfl
@[simp] theorem Part.grantAll_conv : (p.grantAll).conv = p.conv := rfl
@[simp] theorem Part.grantAll_free : (p.grantAll).free = p.free := rfl
@[simp] theorem Part.grantAll_pulse : (p.grantAll).pulse = p.pulse := rfl
@[simp] theorem Part.grantAll_sw : (p.grantAll).sw = p.sw := rfl
@[simp] theorem Part.grantAll_ign : (p.grantAll).ign = p.ign := rfl
@[simp] theorem Part.grantAll_chans : (p.grantAll).chans = p.chans := rfl
@[simp] theorem Part.grantAll_ptrs : (p.grantAll).ptrs = p.ptrs := rfl
@[simp] theorem Part.grantAll_homeReqs : (p.grantAll).homeReqs = p.homeReqs := rfl
@[simp] theorem Part.grantAll_lamps : (p.grantAll).lamps = p.lamps := rfl
@[simp] theorem Part.grantAll_lampU : (p.grantAll).lampU = p.lampU := rfl
@[simp] theorem Part.grantAll_chime : (p.grantAll).chime = p.chime := rfl
@[simp] theorem Part.grantAll_acct : (p.grantAll).acct = p.acct := rfl
@[simp] theorem Part.grantAll_jour : (p.grantAll).jour = p.jour := rfl
@[simp] theorem Part.grantAll_panel : (p.grantAll).panel = p.panel := rfl
@[simp] theorem Part.grantAll_freeIdx : (p.grantAll).freeIdx = p.freeIdx := rfl

/-! ### Part.grantReading -/

@[simp] theorem Part.grantReading_mem : p.grantReading.mem = p.mem := by simp [grantReading_eq, Part.mem]
@[simp] theorem Part.grantReading_exch : p.grantReading.exch = p.mem := by rw [grantReading_eq]
@[simp] theorem Part.grantReading_arb :
    p.grantReading.arb = { p.arb with last := .record, waiting := [] } := by rw [grantReading_eq]
@[simp] theorem Part.grantReading_working : (p.grantReading).working = p.working := rfl
@[simp] theorem Part.grantReading_link : (p.grantReading).link = p.link := rfl
@[simp] theorem Part.grantReading_req : (p.grantReading).req = p.req := rfl
@[simp] theorem Part.grantReading_ctl : (p.grantReading).ctl = p.ctl := rfl
@[simp] theorem Part.grantReading_conv : (p.grantReading).conv = p.conv := rfl
@[simp] theorem Part.grantReading_free : (p.grantReading).free = p.free := rfl
@[simp] theorem Part.grantReading_pulse : (p.grantReading).pulse = p.pulse := rfl
@[simp] theorem Part.grantReading_sw : (p.grantReading).sw = p.sw := rfl
@[simp] theorem Part.grantReading_ign : (p.grantReading).ign = p.ign := rfl
@[simp] theorem Part.grantReading_chans : (p.grantReading).chans = p.chans := rfl
@[simp] theorem Part.grantReading_ptrs : (p.grantReading).ptrs = p.ptrs := rfl
@[simp] theorem Part.grantReading_homeReqs : (p.grantReading).homeReqs = p.homeReqs := rfl
@[simp] theorem Part.grantReading_lamps : (p.grantReading).lamps = p.lamps := rfl
@[simp] theorem Part.grantReading_lampU : (p.grantReading).lampU = p.lampU := rfl
@[simp] theorem Part.grantReading_chime : (p.grantReading).chime = p.chime := rfl
@[simp] theorem Part.grantReading_acct : (p.grantReading).acct = p.acct := rfl
@[simp] theorem Part.grantReading_jour : (p.grantReading).jour = p.jour := rfl
@[simp] theorem Part.grantReading_panel : (p.grantReading).panel = p.panel := rfl
@[simp] theorem Part.grantReading_freeIdx : (p.grantReading).freeIdx = p.freeIdx := rfl

/-! ### Part.grantLink -/

@[simp] theorem Part.grantLink_mem : p.grantLink.mem = p.mem := Machine.grantLink_mem p
@[simp] theorem Part.grantLink_exch :
    p.grantLink.exch = (grantSome p.arb.beforeLink p.exch p.arb.waiting).1 := rfl
@[simp] theorem Part.grantLink_arb : p.grantLink.arb =
    { last := .link, waiting := (grantSome p.arb.beforeLink p.exch p.arb.waiting).2, idx := p.arb.idx + 1 } := rfl
@[simp] theorem Part.grantLink_working : (p.grantLink).working = p.working := rfl
@[simp] theorem Part.grantLink_link : (p.grantLink).link = p.link := rfl
@[simp] theorem Part.grantLink_req : (p.grantLink).req = p.req := rfl
@[simp] theorem Part.grantLink_ctl : (p.grantLink).ctl = p.ctl := rfl
@[simp] theorem Part.grantLink_conv : (p.grantLink).conv = p.conv := rfl
@[simp] theorem Part.grantLink_free : (p.grantLink).free = p.free := rfl
@[simp] theorem Part.grantLink_pulse : (p.grantLink).pulse = p.pulse := rfl
@[simp] theorem Part.grantLink_sw : (p.grantLink).sw = p.sw := rfl
@[simp] theorem Part.grantLink_ign : (p.grantLink).ign = p.ign := rfl
@[simp] theorem Part.grantLink_chans : (p.grantLink).chans = p.chans := rfl
@[simp] theorem Part.grantLink_ptrs : (p.grantLink).ptrs = p.ptrs := rfl
@[simp] theorem Part.grantLink_homeReqs : (p.grantLink).homeReqs = p.homeReqs := rfl
@[simp] theorem Part.grantLink_lamps : (p.grantLink).lamps = p.lamps := rfl
@[simp] theorem Part.grantLink_lampU : (p.grantLink).lampU = p.lampU := rfl
@[simp] theorem Part.grantLink_chime : (p.grantLink).chime = p.chime := rfl
@[simp] theorem Part.grantLink_acct : (p.grantLink).acct = p.acct := rfl
@[simp] theorem Part.grantLink_jour : (p.grantLink).jour = p.jour := rfl
@[simp] theorem Part.grantLink_panel : (p.grantLink).panel = p.panel := rfl
@[simp] theorem Part.grantLink_freeIdx : (p.grantLink).freeIdx = p.freeIdx := rfl

/-! ### Part.storeByte -/

@[simp] theorem Part.storeByte_exch (a : Nat) (v : Byte) : (p.storeByte a v).exch = memWrite p.exch a v := rfl
@[simp] theorem Part.storeByte_arb (a : Nat) (v : Byte) : (p.storeByte a v).arb = p.arb := rfl
@[simp] theorem Part.storeByte_working (a : Nat) (v : Byte) : (p.storeByte a v).working = p.working := rfl
@[simp] theorem Part.storeByte_link (a : Nat) (v : Byte) : (p.storeByte a v).link = p.link := rfl
@[simp] theorem Part.storeByte_req (a : Nat) (v : Byte) : (p.storeByte a v).req = p.req := rfl
@[simp] theorem Part.storeByte_ctl (a : Nat) (v : Byte) : (p.storeByte a v).ctl = p.ctl := rfl
@[simp] theorem Part.storeByte_conv (a : Nat) (v : Byte) : (p.storeByte a v).conv = p.conv := rfl
@[simp] theorem Part.storeByte_free (a : Nat) (v : Byte) : (p.storeByte a v).free = p.free := rfl
@[simp] theorem Part.storeByte_pulse (a : Nat) (v : Byte) : (p.storeByte a v).pulse = p.pulse := rfl
@[simp] theorem Part.storeByte_sw (a : Nat) (v : Byte) : (p.storeByte a v).sw = p.sw := rfl
@[simp] theorem Part.storeByte_ign (a : Nat) (v : Byte) : (p.storeByte a v).ign = p.ign := rfl
@[simp] theorem Part.storeByte_chans (a : Nat) (v : Byte) : (p.storeByte a v).chans = p.chans := rfl
@[simp] theorem Part.storeByte_ptrs (a : Nat) (v : Byte) : (p.storeByte a v).ptrs = p.ptrs := rfl
@[simp] theorem Part.storeByte_homeReqs (a : Nat) (v : Byte) : (p.storeByte a v).homeReqs = p.homeReqs := rfl
@[simp] theorem Part.storeByte_lamps (a : Nat) (v : Byte) : (p.storeByte a v).lamps = p.lamps := rfl
@[simp] theorem Part.storeByte_lampU (a : Nat) (v : Byte) : (p.storeByte a v).lampU = p.lampU := rfl
@[simp] theorem Part.storeByte_chime (a : Nat) (v : Byte) : (p.storeByte a v).chime = p.chime := rfl
@[simp] theorem Part.storeByte_acct (a : Nat) (v : Byte) : (p.storeByte a v).acct = p.acct := rfl
@[simp] theorem Part.storeByte_jour (a : Nat) (v : Byte) : (p.storeByte a v).jour = p.jour := rfl
@[simp] theorem Part.storeByte_panel (a : Nat) (v : Byte) : (p.storeByte a v).panel = p.panel := rfl
@[simp] theorem Part.storeByte_freeIdx (a : Nat) (v : Byte) : (p.storeByte a v).freeIdx = p.freeIdx := rfl

/-! ### Part.storeBytes -/

@[simp] theorem Part.storeBytes_exch (a : Nat) (bs : List Byte) : (p.storeBytes a bs).exch = memWriteN p.exch a bs := rfl
@[simp] theorem Part.storeBytes_arb (a : Nat) (bs : List Byte) : (p.storeBytes a bs).arb = p.arb := rfl
@[simp] theorem Part.storeBytes_working (a : Nat) (bs : List Byte) : (p.storeBytes a bs).working = p.working := rfl
@[simp] theorem Part.storeBytes_link (a : Nat) (bs : List Byte) : (p.storeBytes a bs).link = p.link := rfl
@[simp] theorem Part.storeBytes_req (a : Nat) (bs : List Byte) : (p.storeBytes a bs).req = p.req := rfl
@[simp] theorem Part.storeBytes_ctl (a : Nat) (bs : List Byte) : (p.storeBytes a bs).ctl = p.ctl := rfl
@[simp] theorem Part.storeBytes_conv (a : Nat) (bs : List Byte) : (p.storeBytes a bs).conv = p.conv := rfl
@[simp] theorem Part.storeBytes_free (a : Nat) (bs : List Byte) : (p.storeBytes a bs).free = p.free := rfl
@[simp] theorem Part.storeBytes_pulse (a : Nat) (bs : List Byte) : (p.storeBytes a bs).pulse = p.pulse := rfl
@[simp] theorem Part.storeBytes_sw (a : Nat) (bs : List Byte) : (p.storeBytes a bs).sw = p.sw := rfl
@[simp] theorem Part.storeBytes_ign (a : Nat) (bs : List Byte) : (p.storeBytes a bs).ign = p.ign := rfl
@[simp] theorem Part.storeBytes_chans (a : Nat) (bs : List Byte) : (p.storeBytes a bs).chans = p.chans := rfl
@[simp] theorem Part.storeBytes_ptrs (a : Nat) (bs : List Byte) : (p.storeBytes a bs).ptrs = p.ptrs := rfl
@[simp] theorem Part.storeBytes_homeReqs (a : Nat) (bs : List Byte) : (p.storeBytes a bs).homeReqs = p.homeReqs := rfl
@[simp] theorem Part.storeBytes_lamps (a : Nat) (bs : List Byte) : (p.storeBytes a bs).lamps = p.lamps := rfl
@[simp] theorem Part.storeBytes_lampU (a : Nat) (bs : List Byte) : (p.storeBytes a bs).lampU = p.lampU := rfl
@[simp] theorem Part.storeBytes_chime (a : Nat) (bs : List Byte) : (p.storeBytes a bs).chime = p.chime := rfl
@[simp] theorem Part.storeBytes_acct (a : Nat) (bs : List Byte) : (p.storeBytes a bs).acct = p.acct := rfl
@[simp] theorem Part.storeBytes_jour (a : Nat) (bs : List Byte) : (p.storeBytes a bs).jour = p.jour := rfl
@[simp] theorem Part.storeBytes_panel (a : Nat) (bs : List Byte) : (p.storeBytes a bs).panel = p.panel := rfl
@[simp] theorem Part.storeBytes_freeIdx (a : Nat) (bs : List Byte) : (p.storeBytes a bs).freeIdx = p.freeIdx := rfl

/-! ### Part.rewriteRecord -/

@[simp] theorem Part.rewriteRecord_mem (a : Nat) (b : List Byte) :
    (p.rewriteRecord a b).mem = memWriteN p.mem a (editioned p.mem a b) := Machine.request_mem p _
@[simp] theorem Part.rewriteRecord_exch (a : Nat) (b : List Byte) : (p.rewriteRecord a b).exch = p.exch := rfl
@[simp] theorem Part.rewriteRecord_arb (a : Nat) (b : List Byte) :
    (p.rewriteRecord a b).arb = (p.store a (editioned p.mem a b)).arb := rfl
@[simp] theorem Part.rewriteRecord_working (a : Nat) (b : List Byte) : (p.rewriteRecord a b).working = p.working := rfl
@[simp] theorem Part.rewriteRecord_link (a : Nat) (b : List Byte) : (p.rewriteRecord a b).link = p.link := rfl
@[simp] theorem Part.rewriteRecord_req (a : Nat) (b : List Byte) : (p.rewriteRecord a b).req = p.req := rfl
@[simp] theorem Part.rewriteRecord_ctl (a : Nat) (b : List Byte) : (p.rewriteRecord a b).ctl = p.ctl := rfl
@[simp] theorem Part.rewriteRecord_conv (a : Nat) (b : List Byte) : (p.rewriteRecord a b).conv = p.conv := rfl
@[simp] theorem Part.rewriteRecord_free (a : Nat) (b : List Byte) : (p.rewriteRecord a b).free = p.free := rfl
@[simp] theorem Part.rewriteRecord_pulse (a : Nat) (b : List Byte) : (p.rewriteRecord a b).pulse = p.pulse := rfl
@[simp] theorem Part.rewriteRecord_sw (a : Nat) (b : List Byte) : (p.rewriteRecord a b).sw = p.sw := rfl
@[simp] theorem Part.rewriteRecord_ign (a : Nat) (b : List Byte) : (p.rewriteRecord a b).ign = p.ign := rfl
@[simp] theorem Part.rewriteRecord_chans (a : Nat) (b : List Byte) : (p.rewriteRecord a b).chans = p.chans := rfl
@[simp] theorem Part.rewriteRecord_ptrs (a : Nat) (b : List Byte) : (p.rewriteRecord a b).ptrs = p.ptrs := rfl
@[simp] theorem Part.rewriteRecord_homeReqs (a : Nat) (b : List Byte) :
    (p.rewriteRecord a b).homeReqs = p.homeReqs := rfl
@[simp] theorem Part.rewriteRecord_lamps (a : Nat) (b : List Byte) : (p.rewriteRecord a b).lamps = p.lamps := rfl
@[simp] theorem Part.rewriteRecord_lampU (a : Nat) (b : List Byte) : (p.rewriteRecord a b).lampU = p.lampU := rfl
@[simp] theorem Part.rewriteRecord_chime (a : Nat) (b : List Byte) : (p.rewriteRecord a b).chime = p.chime := rfl
@[simp] theorem Part.rewriteRecord_acct (a : Nat) (b : List Byte) : (p.rewriteRecord a b).acct = p.acct := rfl
@[simp] theorem Part.rewriteRecord_jour (a : Nat) (b : List Byte) : (p.rewriteRecord a b).jour = p.jour := rfl
@[simp] theorem Part.rewriteRecord_panel (a : Nat) (b : List Byte) : (p.rewriteRecord a b).panel = p.panel := rfl
@[simp] theorem Part.rewriteRecord_freeIdx (a : Nat) (b : List Byte) : (p.rewriteRecord a b).freeIdx = p.freeIdx := rfl

/-! ### Part.storeRun -/

@[simp] theorem Part.storeRun_exch (a : Nat) (bs : List Byte) : (p.storeRun a bs).exch = p.exch := by rw [storeRun_eq]
@[simp] theorem Part.storeRun_working (a : Nat) (bs : List Byte) :
    (p.storeRun a bs).working = p.working := by rw [storeRun_eq]
@[simp] theorem Part.storeRun_link (a : Nat) (bs : List Byte) : (p.storeRun a bs).link = p.link := by rw [storeRun_eq]
@[simp] theorem Part.storeRun_req (a : Nat) (bs : List Byte) : (p.storeRun a bs).req = p.req := by rw [storeRun_eq]
@[simp] theorem Part.storeRun_ctl (a : Nat) (bs : List Byte) : (p.storeRun a bs).ctl = p.ctl := by rw [storeRun_eq]
@[simp] theorem Part.storeRun_conv (a : Nat) (bs : List Byte) : (p.storeRun a bs).conv = p.conv := by rw [storeRun_eq]
@[simp] theorem Part.storeRun_free (a : Nat) (bs : List Byte) : (p.storeRun a bs).free = p.free := by rw [storeRun_eq]
@[simp] theorem Part.storeRun_pulse (a : Nat) (bs : List Byte) :
    (p.storeRun a bs).pulse = p.pulse := by rw [storeRun_eq]
@[simp] theorem Part.storeRun_sw (a : Nat) (bs : List Byte) : (p.storeRun a bs).sw = p.sw := by rw [storeRun_eq]
@[simp] theorem Part.storeRun_ign (a : Nat) (bs : List Byte) : (p.storeRun a bs).ign = p.ign := by rw [storeRun_eq]
@[simp] theorem Part.storeRun_chans (a : Nat) (bs : List Byte) :
    (p.storeRun a bs).chans = p.chans := by rw [storeRun_eq]
@[simp] theorem Part.storeRun_ptrs (a : Nat) (bs : List Byte) : (p.storeRun a bs).ptrs = p.ptrs := by rw [storeRun_eq]
@[simp] theorem Part.storeRun_homeReqs (a : Nat) (bs : List Byte) :
    (p.storeRun a bs).homeReqs = p.homeReqs := by rw [storeRun_eq]
@[simp] theorem Part.storeRun_lamps (a : Nat) (bs : List Byte) :
    (p.storeRun a bs).lamps = p.lamps := by rw [storeRun_eq]
@[simp] theorem Part.storeRun_lampU (a : Nat) (bs : List Byte) :
    (p.storeRun a bs).lampU = p.lampU := by rw [storeRun_eq]
@[simp] theorem Part.storeRun_chime (a : Nat) (bs : List Byte) :
    (p.storeRun a bs).chime = p.chime := by rw [storeRun_eq]
@[simp] theorem Part.storeRun_acct (a : Nat) (bs : List Byte) : (p.storeRun a bs).acct = p.acct := by rw [storeRun_eq]
@[simp] theorem Part.storeRun_jour (a : Nat) (bs : List Byte) : (p.storeRun a bs).jour = p.jour := by rw [storeRun_eq]
@[simp] theorem Part.storeRun_panel (a : Nat) (bs : List Byte) :
    (p.storeRun a bs).panel = p.panel := by rw [storeRun_eq]
@[simp] theorem Part.storeRun_freeIdx (a : Nat) (bs : List Byte) :
    (p.storeRun a bs).freeIdx = p.freeIdx := by rw [storeRun_eq]

/-! ### Part.rewriteLongRecord -/

@[simp] theorem Part.rewriteLongRecord_exch (a : Nat) (b : List Byte) :
    (p.rewriteLongRecord a b).exch = p.exch := by
  rw [rewriteLongRecord_only]
@[simp] theorem Part.rewriteLongRecord_arb (a : Nat) (b : List Byte) :
    (p.rewriteLongRecord a b).arb = (p.storeRun a (editioned p.mem a b)).arb := rfl
@[simp] theorem Part.rewriteLongRecord_working (a : Nat) (b : List Byte) :
    (p.rewriteLongRecord a b).working = p.working := by
  rw [rewriteLongRecord_only]
@[simp] theorem Part.rewriteLongRecord_link (a : Nat) (b : List Byte) :
    (p.rewriteLongRecord a b).link = p.link := by
  rw [rewriteLongRecord_only]
@[simp] theorem Part.rewriteLongRecord_req (a : Nat) (b : List Byte) :
    (p.rewriteLongRecord a b).req = p.req := by
  rw [rewriteLongRecord_only]
@[simp] theorem Part.rewriteLongRecord_ctl (a : Nat) (b : List Byte) :
    (p.rewriteLongRecord a b).ctl = p.ctl := by
  rw [rewriteLongRecord_only]
@[simp] theorem Part.rewriteLongRecord_conv (a : Nat) (b : List Byte) :
    (p.rewriteLongRecord a b).conv = p.conv := by
  rw [rewriteLongRecord_only]
@[simp] theorem Part.rewriteLongRecord_free (a : Nat) (b : List Byte) :
    (p.rewriteLongRecord a b).free = p.free := by
  rw [rewriteLongRecord_only]
@[simp] theorem Part.rewriteLongRecord_pulse (a : Nat) (b : List Byte) :
    (p.rewriteLongRecord a b).pulse = p.pulse := by
  rw [rewriteLongRecord_only]
@[simp] theorem Part.rewriteLongRecord_sw (a : Nat) (b : List Byte) :
    (p.rewriteLongRecord a b).sw = p.sw := by
  rw [rewriteLongRecord_only]
@[simp] theorem Part.rewriteLongRecord_ign (a : Nat) (b : List Byte) :
    (p.rewriteLongRecord a b).ign = p.ign := by
  rw [rewriteLongRecord_only]
@[simp] theorem Part.rewriteLongRecord_chans (a : Nat) (b : List Byte) :
    (p.rewriteLongRecord a b).chans = p.chans := by
  rw [rewriteLongRecord_only]
@[simp] theorem Part.rewriteLongRecord_ptrs (a : Nat) (b : List Byte) :
    (p.rewriteLongRecord a b).ptrs = p.ptrs := by
  rw [rewriteLongRecord_only]
@[simp] theorem Part.rewriteLongRecord_homeReqs (a : Nat) (b : List Byte) :
    (p.rewriteLongRecord a b).homeReqs = p.homeReqs := by
  rw [rewriteLongRecord_only]
@[simp] theorem Part.rewriteLongRecord_lamps (a : Nat) (b : List Byte) :
    (p.rewriteLongRecord a b).lamps = p.lamps := by
  rw [rewriteLongRecord_only]
@[simp] theorem Part.rewriteLongRecord_lampU (a : Nat) (b : List Byte) :
    (p.rewriteLongRecord a b).lampU = p.lampU := by
  rw [rewriteLongRecord_only]
@[simp] theorem Part.rewriteLongRecord_chime (a : Nat) (b : List Byte) :
    (p.rewriteLongRecord a b).chime = p.chime := by
  rw [rewriteLongRecord_only]
@[simp] theorem Part.rewriteLongRecord_acct (a : Nat) (b : List Byte) :
    (p.rewriteLongRecord a b).acct = p.acct := by
  rw [rewriteLongRecord_only]
@[simp] theorem Part.rewriteLongRecord_jour (a : Nat) (b : List Byte) :
    (p.rewriteLongRecord a b).jour = p.jour := by
  rw [rewriteLongRecord_only]
@[simp] theorem Part.rewriteLongRecord_panel (a : Nat) (b : List Byte) :
    (p.rewriteLongRecord a b).panel = p.panel := by
  rw [rewriteLongRecord_only]
@[simp] theorem Part.rewriteLongRecord_freeIdx (a : Nat) (b : List Byte) :
    (p.rewriteLongRecord a b).freeIdx = p.freeIdx := by
  rw [rewriteLongRecord_only]

/-! ### setChan -/

@[simp] theorem setChan_mem (i : Fin 32) (f : Chan → Chan) : (setChan i f p).mem = p.mem := rfl
@[simp] theorem setChan_exch (i : Fin 32) (f : Chan → Chan) : (setChan i f p).exch = p.exch := rfl
@[simp] theorem setChan_arb (i : Fin 32) (f : Chan → Chan) : (setChan i f p).arb = p.arb := rfl
@[simp] theorem setChan_working (i : Fin 32) (f : Chan → Chan) : (setChan i f p).working = p.working := rfl
@[simp] theorem setChan_link (i : Fin 32) (f : Chan → Chan) : (setChan i f p).link = p.link := rfl
@[simp] theorem setChan_req (i : Fin 32) (f : Chan → Chan) : (setChan i f p).req = p.req := rfl
@[simp] theorem setChan_ctl (i : Fin 32) (f : Chan → Chan) : (setChan i f p).ctl = p.ctl := rfl
@[simp] theorem setChan_conv (i : Fin 32) (f : Chan → Chan) : (setChan i f p).conv = p.conv := rfl
@[simp] theorem setChan_free (i : Fin 32) (f : Chan → Chan) : (setChan i f p).free = p.free := rfl
@[simp] theorem setChan_pulse (i : Fin 32) (f : Chan → Chan) : (setChan i f p).pulse = p.pulse := rfl
@[simp] theorem setChan_sw (i : Fin 32) (f : Chan → Chan) : (setChan i f p).sw = p.sw := rfl
@[simp] theorem setChan_ign (i : Fin 32) (f : Chan → Chan) : (setChan i f p).ign = p.ign := rfl
@[simp] theorem setChan_chans (i : Fin 32) (f : Chan → Chan) : (setChan i f p).chans = updAt i f p.chans := rfl
@[simp] theorem setChan_ptrs (i : Fin 32) (f : Chan → Chan) : (setChan i f p).ptrs = p.ptrs := rfl
@[simp] theorem setChan_homeReqs (i : Fin 32) (f : Chan → Chan) : (setChan i f p).homeReqs = p.homeReqs := rfl
@[simp] theorem setChan_lamps (i : Fin 32) (f : Chan → Chan) : (setChan i f p).lamps = p.lamps := rfl
@[simp] theorem setChan_lampU (i : Fin 32) (f : Chan → Chan) : (setChan i f p).lampU = p.lampU := rfl
@[simp] theorem setChan_chime (i : Fin 32) (f : Chan → Chan) : (setChan i f p).chime = p.chime := rfl
@[simp] theorem setChan_acct (i : Fin 32) (f : Chan → Chan) : (setChan i f p).acct = p.acct := rfl
@[simp] theorem setChan_jour (i : Fin 32) (f : Chan → Chan) : (setChan i f p).jour = p.jour := rfl
@[simp] theorem setChan_panel (i : Fin 32) (f : Chan → Chan) : (setChan i f p).panel = p.panel := rfl
@[simp] theorem setChan_freeIdx (i : Fin 32) (f : Chan → Chan) : (setChan i f p).freeIdx = p.freeIdx := rfl

/-! ### setPtr -/

@[simp] theorem setPtr_mem (i : Fin 6) (f : Ptr → Ptr) : (setPtr i f p).mem = p.mem := rfl
@[simp] theorem setPtr_exch (i : Fin 6) (f : Ptr → Ptr) : (setPtr i f p).exch = p.exch := rfl
@[simp] theorem setPtr_arb (i : Fin 6) (f : Ptr → Ptr) : (setPtr i f p).arb = p.arb := rfl
@[simp] theorem setPtr_working (i : Fin 6) (f : Ptr → Ptr) : (setPtr i f p).working = p.working := rfl
@[simp] theorem setPtr_link (i : Fin 6) (f : Ptr → Ptr) : (setPtr i f p).link = p.link := rfl
@[simp] theorem setPtr_req (i : Fin 6) (f : Ptr → Ptr) : (setPtr i f p).req = p.req := rfl
@[simp] theorem setPtr_ctl (i : Fin 6) (f : Ptr → Ptr) : (setPtr i f p).ctl = p.ctl := rfl
@[simp] theorem setPtr_conv (i : Fin 6) (f : Ptr → Ptr) : (setPtr i f p).conv = p.conv := rfl
@[simp] theorem setPtr_free (i : Fin 6) (f : Ptr → Ptr) : (setPtr i f p).free = p.free := rfl
@[simp] theorem setPtr_pulse (i : Fin 6) (f : Ptr → Ptr) : (setPtr i f p).pulse = p.pulse := rfl
@[simp] theorem setPtr_sw (i : Fin 6) (f : Ptr → Ptr) : (setPtr i f p).sw = p.sw := rfl
@[simp] theorem setPtr_ign (i : Fin 6) (f : Ptr → Ptr) : (setPtr i f p).ign = p.ign := rfl
@[simp] theorem setPtr_chans (i : Fin 6) (f : Ptr → Ptr) : (setPtr i f p).chans = p.chans := rfl
@[simp] theorem setPtr_ptrs (i : Fin 6) (f : Ptr → Ptr) : (setPtr i f p).ptrs = updAt i f p.ptrs := rfl
@[simp] theorem setPtr_homeReqs (i : Fin 6) (f : Ptr → Ptr) : (setPtr i f p).homeReqs = p.homeReqs := rfl
@[simp] theorem setPtr_lamps (i : Fin 6) (f : Ptr → Ptr) : (setPtr i f p).lamps = p.lamps := rfl
@[simp] theorem setPtr_lampU (i : Fin 6) (f : Ptr → Ptr) : (setPtr i f p).lampU = p.lampU := rfl
@[simp] theorem setPtr_chime (i : Fin 6) (f : Ptr → Ptr) : (setPtr i f p).chime = p.chime := rfl
@[simp] theorem setPtr_acct (i : Fin 6) (f : Ptr → Ptr) : (setPtr i f p).acct = p.acct := rfl
@[simp] theorem setPtr_jour (i : Fin 6) (f : Ptr → Ptr) : (setPtr i f p).jour = p.jour := rfl
@[simp] theorem setPtr_panel (i : Fin 6) (f : Ptr → Ptr) : (setPtr i f p).panel = p.panel := rfl
@[simp] theorem setPtr_freeIdx (i : Fin 6) (f : Ptr → Ptr) : (setPtr i f p).freeIdx = p.freeIdx := rfl

/-! ### setLamp -/

@[simp] theorem setLamp_mem (i : Fin 32) (f : Lamp → Lamp) : (setLamp i f p).mem = p.mem := rfl
@[simp] theorem setLamp_exch (i : Fin 32) (f : Lamp → Lamp) : (setLamp i f p).exch = p.exch := rfl
@[simp] theorem setLamp_arb (i : Fin 32) (f : Lamp → Lamp) : (setLamp i f p).arb = p.arb := rfl
@[simp] theorem setLamp_working (i : Fin 32) (f : Lamp → Lamp) : (setLamp i f p).working = p.working := rfl
@[simp] theorem setLamp_link (i : Fin 32) (f : Lamp → Lamp) : (setLamp i f p).link = p.link := rfl
@[simp] theorem setLamp_req (i : Fin 32) (f : Lamp → Lamp) : (setLamp i f p).req = p.req := rfl
@[simp] theorem setLamp_ctl (i : Fin 32) (f : Lamp → Lamp) : (setLamp i f p).ctl = p.ctl := rfl
@[simp] theorem setLamp_conv (i : Fin 32) (f : Lamp → Lamp) : (setLamp i f p).conv = p.conv := rfl
@[simp] theorem setLamp_free (i : Fin 32) (f : Lamp → Lamp) : (setLamp i f p).free = p.free := rfl
@[simp] theorem setLamp_pulse (i : Fin 32) (f : Lamp → Lamp) : (setLamp i f p).pulse = p.pulse := rfl
@[simp] theorem setLamp_sw (i : Fin 32) (f : Lamp → Lamp) : (setLamp i f p).sw = p.sw := rfl
@[simp] theorem setLamp_ign (i : Fin 32) (f : Lamp → Lamp) : (setLamp i f p).ign = p.ign := rfl
@[simp] theorem setLamp_chans (i : Fin 32) (f : Lamp → Lamp) : (setLamp i f p).chans = p.chans := rfl
@[simp] theorem setLamp_ptrs (i : Fin 32) (f : Lamp → Lamp) : (setLamp i f p).ptrs = p.ptrs := rfl
@[simp] theorem setLamp_homeReqs (i : Fin 32) (f : Lamp → Lamp) : (setLamp i f p).homeReqs = p.homeReqs := rfl
@[simp] theorem setLamp_lamps (i : Fin 32) (f : Lamp → Lamp) : (setLamp i f p).lamps = updAt i f p.lamps := rfl
@[simp] theorem setLamp_lampU (i : Fin 32) (f : Lamp → Lamp) : (setLamp i f p).lampU = p.lampU := rfl
@[simp] theorem setLamp_chime (i : Fin 32) (f : Lamp → Lamp) : (setLamp i f p).chime = p.chime := rfl
@[simp] theorem setLamp_acct (i : Fin 32) (f : Lamp → Lamp) : (setLamp i f p).acct = p.acct := rfl
@[simp] theorem setLamp_jour (i : Fin 32) (f : Lamp → Lamp) : (setLamp i f p).jour = p.jour := rfl
@[simp] theorem setLamp_panel (i : Fin 32) (f : Lamp → Lamp) : (setLamp i f p).panel = p.panel := rfl
@[simp] theorem setLamp_freeIdx (i : Fin 32) (f : Lamp → Lamp) : (setLamp i f p).freeIdx = p.freeIdx := rfl

/-! ### setPulse -/

@[simp] theorem setPulse_mem (i : Fin 4) (f : PulseIn → PulseIn) : (setPulse i f p).mem = p.mem := rfl
@[simp] theorem setPulse_exch (i : Fin 4) (f : PulseIn → PulseIn) : (setPulse i f p).exch = p.exch := rfl
@[simp] theorem setPulse_arb (i : Fin 4) (f : PulseIn → PulseIn) : (setPulse i f p).arb = p.arb := rfl
@[simp] theorem setPulse_working (i : Fin 4) (f : PulseIn → PulseIn) : (setPulse i f p).working = p.working := rfl
@[simp] theorem setPulse_link (i : Fin 4) (f : PulseIn → PulseIn) : (setPulse i f p).link = p.link := rfl
@[simp] theorem setPulse_req (i : Fin 4) (f : PulseIn → PulseIn) : (setPulse i f p).req = p.req := rfl
@[simp] theorem setPulse_ctl (i : Fin 4) (f : PulseIn → PulseIn) : (setPulse i f p).ctl = p.ctl := rfl
@[simp] theorem setPulse_conv (i : Fin 4) (f : PulseIn → PulseIn) : (setPulse i f p).conv = p.conv := rfl
@[simp] theorem setPulse_free (i : Fin 4) (f : PulseIn → PulseIn) : (setPulse i f p).free = p.free := rfl
@[simp] theorem setPulse_pulse (i : Fin 4) (f : PulseIn → PulseIn) : (setPulse i f p).pulse = updAt i f p.pulse := rfl
@[simp] theorem setPulse_sw (i : Fin 4) (f : PulseIn → PulseIn) : (setPulse i f p).sw = p.sw := rfl
@[simp] theorem setPulse_ign (i : Fin 4) (f : PulseIn → PulseIn) : (setPulse i f p).ign = p.ign := rfl
@[simp] theorem setPulse_chans (i : Fin 4) (f : PulseIn → PulseIn) : (setPulse i f p).chans = p.chans := rfl
@[simp] theorem setPulse_ptrs (i : Fin 4) (f : PulseIn → PulseIn) : (setPulse i f p).ptrs = p.ptrs := rfl
@[simp] theorem setPulse_homeReqs (i : Fin 4) (f : PulseIn → PulseIn) : (setPulse i f p).homeReqs = p.homeReqs := rfl
@[simp] theorem setPulse_lamps (i : Fin 4) (f : PulseIn → PulseIn) : (setPulse i f p).lamps = p.lamps := rfl
@[simp] theorem setPulse_lampU (i : Fin 4) (f : PulseIn → PulseIn) : (setPulse i f p).lampU = p.lampU := rfl
@[simp] theorem setPulse_chime (i : Fin 4) (f : PulseIn → PulseIn) : (setPulse i f p).chime = p.chime := rfl
@[simp] theorem setPulse_acct (i : Fin 4) (f : PulseIn → PulseIn) : (setPulse i f p).acct = p.acct := rfl
@[simp] theorem setPulse_jour (i : Fin 4) (f : PulseIn → PulseIn) : (setPulse i f p).jour = p.jour := rfl
@[simp] theorem setPulse_panel (i : Fin 4) (f : PulseIn → PulseIn) : (setPulse i f p).panel = p.panel := rfl
@[simp] theorem setPulse_freeIdx (i : Fin 4) (f : PulseIn → PulseIn) : (setPulse i f p).freeIdx = p.freeIdx := rfl

/-! ### setSwitch -/

@[simp] theorem setSwitch_mem (i : Fin 8) (f : Switch → Switch) : (setSwitch i f p).mem = p.mem := rfl
@[simp] theorem setSwitch_exch (i : Fin 8) (f : Switch → Switch) : (setSwitch i f p).exch = p.exch := rfl
@[simp] theorem setSwitch_arb (i : Fin 8) (f : Switch → Switch) : (setSwitch i f p).arb = p.arb := rfl
@[simp] theorem setSwitch_working (i : Fin 8) (f : Switch → Switch) : (setSwitch i f p).working = p.working := rfl
@[simp] theorem setSwitch_link (i : Fin 8) (f : Switch → Switch) : (setSwitch i f p).link = p.link := rfl
@[simp] theorem setSwitch_req (i : Fin 8) (f : Switch → Switch) : (setSwitch i f p).req = p.req := rfl
@[simp] theorem setSwitch_ctl (i : Fin 8) (f : Switch → Switch) : (setSwitch i f p).ctl = p.ctl := rfl
@[simp] theorem setSwitch_conv (i : Fin 8) (f : Switch → Switch) : (setSwitch i f p).conv = p.conv := rfl
@[simp] theorem setSwitch_free (i : Fin 8) (f : Switch → Switch) : (setSwitch i f p).free = p.free := rfl
@[simp] theorem setSwitch_pulse (i : Fin 8) (f : Switch → Switch) : (setSwitch i f p).pulse = p.pulse := rfl
@[simp] theorem setSwitch_sw (i : Fin 8) (f : Switch → Switch) : (setSwitch i f p).sw = updAt i f p.sw := rfl
@[simp] theorem setSwitch_ign (i : Fin 8) (f : Switch → Switch) : (setSwitch i f p).ign = p.ign := rfl
@[simp] theorem setSwitch_chans (i : Fin 8) (f : Switch → Switch) : (setSwitch i f p).chans = p.chans := rfl
@[simp] theorem setSwitch_ptrs (i : Fin 8) (f : Switch → Switch) : (setSwitch i f p).ptrs = p.ptrs := rfl
@[simp] theorem setSwitch_homeReqs (i : Fin 8) (f : Switch → Switch) : (setSwitch i f p).homeReqs = p.homeReqs := rfl
@[simp] theorem setSwitch_lamps (i : Fin 8) (f : Switch → Switch) : (setSwitch i f p).lamps = p.lamps := rfl
@[simp] theorem setSwitch_lampU (i : Fin 8) (f : Switch → Switch) : (setSwitch i f p).lampU = p.lampU := rfl
@[simp] theorem setSwitch_chime (i : Fin 8) (f : Switch → Switch) : (setSwitch i f p).chime = p.chime := rfl
@[simp] theorem setSwitch_acct (i : Fin 8) (f : Switch → Switch) : (setSwitch i f p).acct = p.acct := rfl
@[simp] theorem setSwitch_jour (i : Fin 8) (f : Switch → Switch) : (setSwitch i f p).jour = p.jour := rfl
@[simp] theorem setSwitch_panel (i : Fin 8) (f : Switch → Switch) : (setSwitch i f p).panel = p.panel := rfl
@[simp] theorem setSwitch_freeIdx (i : Fin 8) (f : Switch → Switch) : (setSwitch i f p).freeIdx = p.freeIdx := rfl

/-! ### setChime -/

@[simp] theorem setChime_mem (f : Chime → Chime) : (setChime f p).mem = p.mem := rfl
@[simp] theorem setChime_exch (f : Chime → Chime) : (setChime f p).exch = p.exch := rfl
@[simp] theorem setChime_arb (f : Chime → Chime) : (setChime f p).arb = p.arb := rfl
@[simp] theorem setChime_working (f : Chime → Chime) : (setChime f p).working = p.working := rfl
@[simp] theorem setChime_link (f : Chime → Chime) : (setChime f p).link = p.link := rfl
@[simp] theorem setChime_req (f : Chime → Chime) : (setChime f p).req = p.req := rfl
@[simp] theorem setChime_ctl (f : Chime → Chime) : (setChime f p).ctl = p.ctl := rfl
@[simp] theorem setChime_conv (f : Chime → Chime) : (setChime f p).conv = p.conv := rfl
@[simp] theorem setChime_free (f : Chime → Chime) : (setChime f p).free = p.free := rfl
@[simp] theorem setChime_pulse (f : Chime → Chime) : (setChime f p).pulse = p.pulse := rfl
@[simp] theorem setChime_sw (f : Chime → Chime) : (setChime f p).sw = p.sw := rfl
@[simp] theorem setChime_ign (f : Chime → Chime) : (setChime f p).ign = p.ign := rfl
@[simp] theorem setChime_chans (f : Chime → Chime) : (setChime f p).chans = p.chans := rfl
@[simp] theorem setChime_ptrs (f : Chime → Chime) : (setChime f p).ptrs = p.ptrs := rfl
@[simp] theorem setChime_homeReqs (f : Chime → Chime) : (setChime f p).homeReqs = p.homeReqs := rfl
@[simp] theorem setChime_lamps (f : Chime → Chime) : (setChime f p).lamps = p.lamps := rfl
@[simp] theorem setChime_lampU (f : Chime → Chime) : (setChime f p).lampU = p.lampU := rfl
@[simp] theorem setChime_chime (f : Chime → Chime) : (setChime f p).chime = f p.chime := rfl
@[simp] theorem setChime_acct (f : Chime → Chime) : (setChime f p).acct = p.acct := rfl
@[simp] theorem setChime_jour (f : Chime → Chime) : (setChime f p).jour = p.jour := rfl
@[simp] theorem setChime_panel (f : Chime → Chime) : (setChime f p).panel = p.panel := rfl
@[simp] theorem setChime_freeIdx (f : Chime → Chime) : (setChime f p).freeIdx = p.freeIdx := rfl

/-! ### setPanel -/

@[simp] theorem setPanel_mem (f : Panel → Panel) : (setPanel f p).mem = p.mem := rfl
@[simp] theorem setPanel_exch (f : Panel → Panel) : (setPanel f p).exch = p.exch := rfl
@[simp] theorem setPanel_arb (f : Panel → Panel) : (setPanel f p).arb = p.arb := rfl
@[simp] theorem setPanel_working (f : Panel → Panel) : (setPanel f p).working = p.working := rfl
@[simp] theorem setPanel_link (f : Panel → Panel) : (setPanel f p).link = p.link := rfl
@[simp] theorem setPanel_req (f : Panel → Panel) : (setPanel f p).req = p.req := rfl
@[simp] theorem setPanel_ctl (f : Panel → Panel) : (setPanel f p).ctl = p.ctl := rfl
@[simp] theorem setPanel_conv (f : Panel → Panel) : (setPanel f p).conv = p.conv := rfl
@[simp] theorem setPanel_free (f : Panel → Panel) : (setPanel f p).free = p.free := rfl
@[simp] theorem setPanel_pulse (f : Panel → Panel) : (setPanel f p).pulse = p.pulse := rfl
@[simp] theorem setPanel_sw (f : Panel → Panel) : (setPanel f p).sw = p.sw := rfl
@[simp] theorem setPanel_ign (f : Panel → Panel) : (setPanel f p).ign = p.ign := rfl
@[simp] theorem setPanel_chans (f : Panel → Panel) : (setPanel f p).chans = p.chans := rfl
@[simp] theorem setPanel_ptrs (f : Panel → Panel) : (setPanel f p).ptrs = p.ptrs := rfl
@[simp] theorem setPanel_homeReqs (f : Panel → Panel) : (setPanel f p).homeReqs = p.homeReqs := rfl
@[simp] theorem setPanel_lamps (f : Panel → Panel) : (setPanel f p).lamps = p.lamps := rfl
@[simp] theorem setPanel_lampU (f : Panel → Panel) : (setPanel f p).lampU = p.lampU := rfl
@[simp] theorem setPanel_chime (f : Panel → Panel) : (setPanel f p).chime = p.chime := rfl
@[simp] theorem setPanel_acct (f : Panel → Panel) : (setPanel f p).acct = p.acct := rfl
@[simp] theorem setPanel_jour (f : Panel → Panel) : (setPanel f p).jour = p.jour := rfl
@[simp] theorem setPanel_panel (f : Panel → Panel) : (setPanel f p).panel = f p.panel := rfl
@[simp] theorem setPanel_freeIdx (f : Panel → Panel) : (setPanel f p).freeIdx = p.freeIdx := rfl

/-! ### setAcct -/

@[simp] theorem setAcct_mem (f : Acct → Acct) : (setAcct f p).mem = p.mem := rfl
@[simp] theorem setAcct_exch (f : Acct → Acct) : (setAcct f p).exch = p.exch := rfl
@[simp] theorem setAcct_arb (f : Acct → Acct) : (setAcct f p).arb = p.arb := rfl
@[simp] theorem setAcct_working (f : Acct → Acct) : (setAcct f p).working = p.working := rfl
@[simp] theorem setAcct_link (f : Acct → Acct) : (setAcct f p).link = p.link := rfl
@[simp] theorem setAcct_req (f : Acct → Acct) : (setAcct f p).req = p.req := rfl
@[simp] theorem setAcct_ctl (f : Acct → Acct) : (setAcct f p).ctl = p.ctl := rfl
@[simp] theorem setAcct_conv (f : Acct → Acct) : (setAcct f p).conv = p.conv := rfl
@[simp] theorem setAcct_free (f : Acct → Acct) : (setAcct f p).free = p.free := rfl
@[simp] theorem setAcct_pulse (f : Acct → Acct) : (setAcct f p).pulse = p.pulse := rfl
@[simp] theorem setAcct_sw (f : Acct → Acct) : (setAcct f p).sw = p.sw := rfl
@[simp] theorem setAcct_ign (f : Acct → Acct) : (setAcct f p).ign = p.ign := rfl
@[simp] theorem setAcct_chans (f : Acct → Acct) : (setAcct f p).chans = p.chans := rfl
@[simp] theorem setAcct_ptrs (f : Acct → Acct) : (setAcct f p).ptrs = p.ptrs := rfl
@[simp] theorem setAcct_homeReqs (f : Acct → Acct) : (setAcct f p).homeReqs = p.homeReqs := rfl
@[simp] theorem setAcct_lamps (f : Acct → Acct) : (setAcct f p).lamps = p.lamps := rfl
@[simp] theorem setAcct_lampU (f : Acct → Acct) : (setAcct f p).lampU = p.lampU := rfl
@[simp] theorem setAcct_chime (f : Acct → Acct) : (setAcct f p).chime = p.chime := rfl
@[simp] theorem setAcct_acct (f : Acct → Acct) : (setAcct f p).acct = f p.acct := rfl
@[simp] theorem setAcct_jour (f : Acct → Acct) : (setAcct f p).jour = p.jour := rfl
@[simp] theorem setAcct_panel (f : Acct → Acct) : (setAcct f p).panel = p.panel := rfl
@[simp] theorem setAcct_freeIdx (f : Acct → Acct) : (setAcct f p).freeIdx = p.freeIdx := rfl

/-! ### setReq -/

@[simp] theorem setReq_mem (f : ReqUnit → ReqUnit) : (setReq f p).mem = p.mem := rfl
@[simp] theorem setReq_exch (f : ReqUnit → ReqUnit) : (setReq f p).exch = p.exch := rfl
@[simp] theorem setReq_arb (f : ReqUnit → ReqUnit) : (setReq f p).arb = p.arb := rfl
@[simp] theorem setReq_working (f : ReqUnit → ReqUnit) : (setReq f p).working = p.working := rfl
@[simp] theorem setReq_link (f : ReqUnit → ReqUnit) : (setReq f p).link = p.link := rfl
@[simp] theorem setReq_req (f : ReqUnit → ReqUnit) : (setReq f p).req = f p.req := rfl
@[simp] theorem setReq_ctl (f : ReqUnit → ReqUnit) : (setReq f p).ctl = p.ctl := rfl
@[simp] theorem setReq_conv (f : ReqUnit → ReqUnit) : (setReq f p).conv = p.conv := rfl
@[simp] theorem setReq_free (f : ReqUnit → ReqUnit) : (setReq f p).free = p.free := rfl
@[simp] theorem setReq_pulse (f : ReqUnit → ReqUnit) : (setReq f p).pulse = p.pulse := rfl
@[simp] theorem setReq_sw (f : ReqUnit → ReqUnit) : (setReq f p).sw = p.sw := rfl
@[simp] theorem setReq_ign (f : ReqUnit → ReqUnit) : (setReq f p).ign = p.ign := rfl
@[simp] theorem setReq_chans (f : ReqUnit → ReqUnit) : (setReq f p).chans = p.chans := rfl
@[simp] theorem setReq_ptrs (f : ReqUnit → ReqUnit) : (setReq f p).ptrs = p.ptrs := rfl
@[simp] theorem setReq_homeReqs (f : ReqUnit → ReqUnit) : (setReq f p).homeReqs = p.homeReqs := rfl
@[simp] theorem setReq_lamps (f : ReqUnit → ReqUnit) : (setReq f p).lamps = p.lamps := rfl
@[simp] theorem setReq_lampU (f : ReqUnit → ReqUnit) : (setReq f p).lampU = p.lampU := rfl
@[simp] theorem setReq_chime (f : ReqUnit → ReqUnit) : (setReq f p).chime = p.chime := rfl
@[simp] theorem setReq_acct (f : ReqUnit → ReqUnit) : (setReq f p).acct = p.acct := rfl
@[simp] theorem setReq_jour (f : ReqUnit → ReqUnit) : (setReq f p).jour = p.jour := rfl
@[simp] theorem setReq_panel (f : ReqUnit → ReqUnit) : (setReq f p).panel = p.panel := rfl
@[simp] theorem setReq_freeIdx (f : ReqUnit → ReqUnit) : (setReq f p).freeIdx = p.freeIdx := rfl

/-! ### setCtl -/

@[simp] theorem setCtl_mem (f : Control → Control) : (setCtl f p).mem = p.mem := rfl
@[simp] theorem setCtl_exch (f : Control → Control) : (setCtl f p).exch = p.exch := rfl
@[simp] theorem setCtl_arb (f : Control → Control) : (setCtl f p).arb = p.arb := rfl
@[simp] theorem setCtl_working (f : Control → Control) : (setCtl f p).working = p.working := rfl
@[simp] theorem setCtl_link (f : Control → Control) : (setCtl f p).link = p.link := rfl
@[simp] theorem setCtl_req (f : Control → Control) : (setCtl f p).req = p.req := rfl
@[simp] theorem setCtl_ctl (f : Control → Control) : (setCtl f p).ctl = f p.ctl := rfl
@[simp] theorem setCtl_conv (f : Control → Control) : (setCtl f p).conv = p.conv := rfl
@[simp] theorem setCtl_free (f : Control → Control) : (setCtl f p).free = p.free := rfl
@[simp] theorem setCtl_pulse (f : Control → Control) : (setCtl f p).pulse = p.pulse := rfl
@[simp] theorem setCtl_sw (f : Control → Control) : (setCtl f p).sw = p.sw := rfl
@[simp] theorem setCtl_ign (f : Control → Control) : (setCtl f p).ign = p.ign := rfl
@[simp] theorem setCtl_chans (f : Control → Control) : (setCtl f p).chans = p.chans := rfl
@[simp] theorem setCtl_ptrs (f : Control → Control) : (setCtl f p).ptrs = p.ptrs := rfl
@[simp] theorem setCtl_homeReqs (f : Control → Control) : (setCtl f p).homeReqs = p.homeReqs := rfl
@[simp] theorem setCtl_lamps (f : Control → Control) : (setCtl f p).lamps = p.lamps := rfl
@[simp] theorem setCtl_lampU (f : Control → Control) : (setCtl f p).lampU = p.lampU := rfl
@[simp] theorem setCtl_chime (f : Control → Control) : (setCtl f p).chime = p.chime := rfl
@[simp] theorem setCtl_acct (f : Control → Control) : (setCtl f p).acct = p.acct := rfl
@[simp] theorem setCtl_jour (f : Control → Control) : (setCtl f p).jour = p.jour := rfl
@[simp] theorem setCtl_panel (f : Control → Control) : (setCtl f p).panel = p.panel := rfl
@[simp] theorem setCtl_freeIdx (f : Control → Control) : (setCtl f p).freeIdx = p.freeIdx := rfl

/-! ### setConv -/

@[simp] theorem setConv_mem (f : Conv → Conv) : (setConv f p).mem = p.mem := rfl
@[simp] theorem setConv_exch (f : Conv → Conv) : (setConv f p).exch = p.exch := rfl
@[simp] theorem setConv_arb (f : Conv → Conv) : (setConv f p).arb = p.arb := rfl
@[simp] theorem setConv_working (f : Conv → Conv) : (setConv f p).working = p.working := rfl
@[simp] theorem setConv_link (f : Conv → Conv) : (setConv f p).link = p.link := rfl
@[simp] theorem setConv_req (f : Conv → Conv) : (setConv f p).req = p.req := rfl
@[simp] theorem setConv_ctl (f : Conv → Conv) : (setConv f p).ctl = p.ctl := rfl
@[simp] theorem setConv_conv (f : Conv → Conv) : (setConv f p).conv = f p.conv := rfl
@[simp] theorem setConv_free (f : Conv → Conv) : (setConv f p).free = p.free := rfl
@[simp] theorem setConv_pulse (f : Conv → Conv) : (setConv f p).pulse = p.pulse := rfl
@[simp] theorem setConv_sw (f : Conv → Conv) : (setConv f p).sw = p.sw := rfl
@[simp] theorem setConv_ign (f : Conv → Conv) : (setConv f p).ign = p.ign := rfl
@[simp] theorem setConv_chans (f : Conv → Conv) : (setConv f p).chans = p.chans := rfl
@[simp] theorem setConv_ptrs (f : Conv → Conv) : (setConv f p).ptrs = p.ptrs := rfl
@[simp] theorem setConv_homeReqs (f : Conv → Conv) : (setConv f p).homeReqs = p.homeReqs := rfl
@[simp] theorem setConv_lamps (f : Conv → Conv) : (setConv f p).lamps = p.lamps := rfl
@[simp] theorem setConv_lampU (f : Conv → Conv) : (setConv f p).lampU = p.lampU := rfl
@[simp] theorem setConv_chime (f : Conv → Conv) : (setConv f p).chime = p.chime := rfl
@[simp] theorem setConv_acct (f : Conv → Conv) : (setConv f p).acct = p.acct := rfl
@[simp] theorem setConv_jour (f : Conv → Conv) : (setConv f p).jour = p.jour := rfl
@[simp] theorem setConv_panel (f : Conv → Conv) : (setConv f p).panel = p.panel := rfl
@[simp] theorem setConv_freeIdx (f : Conv → Conv) : (setConv f p).freeIdx = p.freeIdx := rfl

/-! ### setPulses -/

@[simp] theorem setPulses_mem (v : Vector PulseIn 4) : (setPulses v p).mem = p.mem := rfl
@[simp] theorem setPulses_exch (v : Vector PulseIn 4) : (setPulses v p).exch = p.exch := rfl
@[simp] theorem setPulses_arb (v : Vector PulseIn 4) : (setPulses v p).arb = p.arb := rfl
@[simp] theorem setPulses_working (v : Vector PulseIn 4) : (setPulses v p).working = p.working := rfl
@[simp] theorem setPulses_link (v : Vector PulseIn 4) : (setPulses v p).link = p.link := rfl
@[simp] theorem setPulses_req (v : Vector PulseIn 4) : (setPulses v p).req = p.req := rfl
@[simp] theorem setPulses_ctl (v : Vector PulseIn 4) : (setPulses v p).ctl = p.ctl := rfl
@[simp] theorem setPulses_conv (v : Vector PulseIn 4) : (setPulses v p).conv = p.conv := rfl
@[simp] theorem setPulses_free (v : Vector PulseIn 4) : (setPulses v p).free = p.free := rfl
@[simp] theorem setPulses_pulse (v : Vector PulseIn 4) : (setPulses v p).pulse = v := rfl
@[simp] theorem setPulses_sw (v : Vector PulseIn 4) : (setPulses v p).sw = p.sw := rfl
@[simp] theorem setPulses_ign (v : Vector PulseIn 4) : (setPulses v p).ign = p.ign := rfl
@[simp] theorem setPulses_chans (v : Vector PulseIn 4) : (setPulses v p).chans = p.chans := rfl
@[simp] theorem setPulses_ptrs (v : Vector PulseIn 4) : (setPulses v p).ptrs = p.ptrs := rfl
@[simp] theorem setPulses_homeReqs (v : Vector PulseIn 4) : (setPulses v p).homeReqs = p.homeReqs := rfl
@[simp] theorem setPulses_lamps (v : Vector PulseIn 4) : (setPulses v p).lamps = p.lamps := rfl
@[simp] theorem setPulses_lampU (v : Vector PulseIn 4) : (setPulses v p).lampU = p.lampU := rfl
@[simp] theorem setPulses_chime (v : Vector PulseIn 4) : (setPulses v p).chime = p.chime := rfl
@[simp] theorem setPulses_acct (v : Vector PulseIn 4) : (setPulses v p).acct = p.acct := rfl
@[simp] theorem setPulses_jour (v : Vector PulseIn 4) : (setPulses v p).jour = p.jour := rfl
@[simp] theorem setPulses_panel (v : Vector PulseIn 4) : (setPulses v p).panel = p.panel := rfl
@[simp] theorem setPulses_freeIdx (v : Vector PulseIn 4) : (setPulses v p).freeIdx = p.freeIdx := rfl

/-! ### setSwitches -/

@[simp] theorem setSwitches_mem (v : Vector Switch 8) : (setSwitches v p).mem = p.mem := rfl
@[simp] theorem setSwitches_exch (v : Vector Switch 8) : (setSwitches v p).exch = p.exch := rfl
@[simp] theorem setSwitches_arb (v : Vector Switch 8) : (setSwitches v p).arb = p.arb := rfl
@[simp] theorem setSwitches_working (v : Vector Switch 8) : (setSwitches v p).working = p.working := rfl
@[simp] theorem setSwitches_link (v : Vector Switch 8) : (setSwitches v p).link = p.link := rfl
@[simp] theorem setSwitches_req (v : Vector Switch 8) : (setSwitches v p).req = p.req := rfl
@[simp] theorem setSwitches_ctl (v : Vector Switch 8) : (setSwitches v p).ctl = p.ctl := rfl
@[simp] theorem setSwitches_conv (v : Vector Switch 8) : (setSwitches v p).conv = p.conv := rfl
@[simp] theorem setSwitches_free (v : Vector Switch 8) : (setSwitches v p).free = p.free := rfl
@[simp] theorem setSwitches_pulse (v : Vector Switch 8) : (setSwitches v p).pulse = p.pulse := rfl
@[simp] theorem setSwitches_sw (v : Vector Switch 8) : (setSwitches v p).sw = v := rfl
@[simp] theorem setSwitches_ign (v : Vector Switch 8) : (setSwitches v p).ign = p.ign := rfl
@[simp] theorem setSwitches_chans (v : Vector Switch 8) : (setSwitches v p).chans = p.chans := rfl
@[simp] theorem setSwitches_ptrs (v : Vector Switch 8) : (setSwitches v p).ptrs = p.ptrs := rfl
@[simp] theorem setSwitches_homeReqs (v : Vector Switch 8) : (setSwitches v p).homeReqs = p.homeReqs := rfl
@[simp] theorem setSwitches_lamps (v : Vector Switch 8) : (setSwitches v p).lamps = p.lamps := rfl
@[simp] theorem setSwitches_lampU (v : Vector Switch 8) : (setSwitches v p).lampU = p.lampU := rfl
@[simp] theorem setSwitches_chime (v : Vector Switch 8) : (setSwitches v p).chime = p.chime := rfl
@[simp] theorem setSwitches_acct (v : Vector Switch 8) : (setSwitches v p).acct = p.acct := rfl
@[simp] theorem setSwitches_jour (v : Vector Switch 8) : (setSwitches v p).jour = p.jour := rfl
@[simp] theorem setSwitches_panel (v : Vector Switch 8) : (setSwitches v p).panel = p.panel := rfl
@[simp] theorem setSwitches_freeIdx (v : Vector Switch 8) : (setSwitches v p).freeIdx = p.freeIdx := rfl

/-! ### setIgn -/

@[simp] theorem setIgn_mem (x : Ign) : (setIgn x p).mem = p.mem := rfl
@[simp] theorem setIgn_exch (x : Ign) : (setIgn x p).exch = p.exch := rfl
@[simp] theorem setIgn_arb (x : Ign) : (setIgn x p).arb = p.arb := rfl
@[simp] theorem setIgn_working (x : Ign) : (setIgn x p).working = p.working := rfl
@[simp] theorem setIgn_link (x : Ign) : (setIgn x p).link = p.link := rfl
@[simp] theorem setIgn_req (x : Ign) : (setIgn x p).req = p.req := rfl
@[simp] theorem setIgn_ctl (x : Ign) : (setIgn x p).ctl = p.ctl := rfl
@[simp] theorem setIgn_conv (x : Ign) : (setIgn x p).conv = p.conv := rfl
@[simp] theorem setIgn_free (x : Ign) : (setIgn x p).free = p.free := rfl
@[simp] theorem setIgn_pulse (x : Ign) : (setIgn x p).pulse = p.pulse := rfl
@[simp] theorem setIgn_sw (x : Ign) : (setIgn x p).sw = p.sw := rfl
@[simp] theorem setIgn_ign (x : Ign) : (setIgn x p).ign = x := rfl
@[simp] theorem setIgn_chans (x : Ign) : (setIgn x p).chans = p.chans := rfl
@[simp] theorem setIgn_ptrs (x : Ign) : (setIgn x p).ptrs = p.ptrs := rfl
@[simp] theorem setIgn_homeReqs (x : Ign) : (setIgn x p).homeReqs = p.homeReqs := rfl
@[simp] theorem setIgn_lamps (x : Ign) : (setIgn x p).lamps = p.lamps := rfl
@[simp] theorem setIgn_lampU (x : Ign) : (setIgn x p).lampU = p.lampU := rfl
@[simp] theorem setIgn_chime (x : Ign) : (setIgn x p).chime = p.chime := rfl
@[simp] theorem setIgn_acct (x : Ign) : (setIgn x p).acct = p.acct := rfl
@[simp] theorem setIgn_jour (x : Ign) : (setIgn x p).jour = p.jour := rfl
@[simp] theorem setIgn_panel (x : Ign) : (setIgn x p).panel = p.panel := rfl
@[simp] theorem setIgn_freeIdx (x : Ign) : (setIgn x p).freeIdx = p.freeIdx := rfl

/-! ### setHomeReqs -/

@[simp] theorem setHomeReqs_mem (l : List HomeReq) : (setHomeReqs l p).mem = p.mem := rfl
@[simp] theorem setHomeReqs_exch (l : List HomeReq) : (setHomeReqs l p).exch = p.exch := rfl
@[simp] theorem setHomeReqs_arb (l : List HomeReq) : (setHomeReqs l p).arb = p.arb := rfl
@[simp] theorem setHomeReqs_working (l : List HomeReq) : (setHomeReqs l p).working = p.working := rfl
@[simp] theorem setHomeReqs_link (l : List HomeReq) : (setHomeReqs l p).link = p.link := rfl
@[simp] theorem setHomeReqs_req (l : List HomeReq) : (setHomeReqs l p).req = p.req := rfl
@[simp] theorem setHomeReqs_ctl (l : List HomeReq) : (setHomeReqs l p).ctl = p.ctl := rfl
@[simp] theorem setHomeReqs_conv (l : List HomeReq) : (setHomeReqs l p).conv = p.conv := rfl
@[simp] theorem setHomeReqs_free (l : List HomeReq) : (setHomeReqs l p).free = p.free := rfl
@[simp] theorem setHomeReqs_pulse (l : List HomeReq) : (setHomeReqs l p).pulse = p.pulse := rfl
@[simp] theorem setHomeReqs_sw (l : List HomeReq) : (setHomeReqs l p).sw = p.sw := rfl
@[simp] theorem setHomeReqs_ign (l : List HomeReq) : (setHomeReqs l p).ign = p.ign := rfl
@[simp] theorem setHomeReqs_chans (l : List HomeReq) : (setHomeReqs l p).chans = p.chans := rfl
@[simp] theorem setHomeReqs_ptrs (l : List HomeReq) : (setHomeReqs l p).ptrs = p.ptrs := rfl
@[simp] theorem setHomeReqs_homeReqs (l : List HomeReq) : (setHomeReqs l p).homeReqs = l := rfl
@[simp] theorem setHomeReqs_lamps (l : List HomeReq) : (setHomeReqs l p).lamps = p.lamps := rfl
@[simp] theorem setHomeReqs_lampU (l : List HomeReq) : (setHomeReqs l p).lampU = p.lampU := rfl
@[simp] theorem setHomeReqs_chime (l : List HomeReq) : (setHomeReqs l p).chime = p.chime := rfl
@[simp] theorem setHomeReqs_acct (l : List HomeReq) : (setHomeReqs l p).acct = p.acct := rfl
@[simp] theorem setHomeReqs_jour (l : List HomeReq) : (setHomeReqs l p).jour = p.jour := rfl
@[simp] theorem setHomeReqs_panel (l : List HomeReq) : (setHomeReqs l p).panel = p.panel := rfl
@[simp] theorem setHomeReqs_freeIdx (l : List HomeReq) : (setHomeReqs l p).freeIdx = p.freeIdx := rfl

/-! ### setWorking -/

@[simp] theorem setWorking_mem (w : Mem) : (setWorking w p).mem = p.mem := rfl
@[simp] theorem setWorking_exch (w : Mem) : (setWorking w p).exch = p.exch := rfl
@[simp] theorem setWorking_arb (w : Mem) : (setWorking w p).arb = p.arb := rfl
@[simp] theorem setWorking_working (w : Mem) : (setWorking w p).working = w := rfl
@[simp] theorem setWorking_link (w : Mem) : (setWorking w p).link = p.link := rfl
@[simp] theorem setWorking_req (w : Mem) : (setWorking w p).req = p.req := rfl
@[simp] theorem setWorking_ctl (w : Mem) : (setWorking w p).ctl = p.ctl := rfl
@[simp] theorem setWorking_conv (w : Mem) : (setWorking w p).conv = p.conv := rfl
@[simp] theorem setWorking_free (w : Mem) : (setWorking w p).free = p.free := rfl
@[simp] theorem setWorking_pulse (w : Mem) : (setWorking w p).pulse = p.pulse := rfl
@[simp] theorem setWorking_sw (w : Mem) : (setWorking w p).sw = p.sw := rfl
@[simp] theorem setWorking_ign (w : Mem) : (setWorking w p).ign = p.ign := rfl
@[simp] theorem setWorking_chans (w : Mem) : (setWorking w p).chans = p.chans := rfl
@[simp] theorem setWorking_ptrs (w : Mem) : (setWorking w p).ptrs = p.ptrs := rfl
@[simp] theorem setWorking_homeReqs (w : Mem) : (setWorking w p).homeReqs = p.homeReqs := rfl
@[simp] theorem setWorking_lamps (w : Mem) : (setWorking w p).lamps = p.lamps := rfl
@[simp] theorem setWorking_lampU (w : Mem) : (setWorking w p).lampU = p.lampU := rfl
@[simp] theorem setWorking_chime (w : Mem) : (setWorking w p).chime = p.chime := rfl
@[simp] theorem setWorking_acct (w : Mem) : (setWorking w p).acct = p.acct := rfl
@[simp] theorem setWorking_jour (w : Mem) : (setWorking w p).jour = p.jour := rfl
@[simp] theorem setWorking_panel (w : Mem) : (setWorking w p).panel = p.panel := rfl
@[simp] theorem setWorking_freeIdx (w : Mem) : (setWorking w p).freeIdx = p.freeIdx := rfl

/-! ### setFrozen -/

@[simp] theorem setFrozen_mem (b : Bool) : (setFrozen b p).mem = p.mem := rfl
@[simp] theorem setFrozen_exch (b : Bool) : (setFrozen b p).exch = p.exch := rfl
@[simp] theorem setFrozen_arb (b : Bool) : (setFrozen b p).arb = p.arb := rfl
@[simp] theorem setFrozen_working (b : Bool) : (setFrozen b p).working = p.working := rfl
@[simp] theorem setFrozen_link (b : Bool) : (setFrozen b p).link = p.link := rfl
@[simp] theorem setFrozen_req (b : Bool) : (setFrozen b p).req = p.req := rfl
@[simp] theorem setFrozen_ctl (b : Bool) : (setFrozen b p).ctl = p.ctl := rfl
@[simp] theorem setFrozen_conv (b : Bool) : (setFrozen b p).conv = p.conv := rfl
@[simp] theorem setFrozen_free (b : Bool) : (setFrozen b p).free = p.free := rfl
@[simp] theorem setFrozen_pulse (b : Bool) : (setFrozen b p).pulse = p.pulse := rfl
@[simp] theorem setFrozen_sw (b : Bool) : (setFrozen b p).sw = p.sw := rfl
@[simp] theorem setFrozen_ign (b : Bool) : (setFrozen b p).ign = p.ign := rfl
@[simp] theorem setFrozen_chans (b : Bool) : (setFrozen b p).chans = p.chans := rfl
@[simp] theorem setFrozen_ptrs (b : Bool) : (setFrozen b p).ptrs = p.ptrs := rfl
@[simp] theorem setFrozen_homeReqs (b : Bool) : (setFrozen b p).homeReqs = p.homeReqs := rfl
@[simp] theorem setFrozen_lamps (b : Bool) : (setFrozen b p).lamps = p.lamps := rfl
@[simp] theorem setFrozen_lampU (b : Bool) : (setFrozen b p).lampU = { p.lampU with frozen := b } := rfl
@[simp] theorem setFrozen_chime (b : Bool) : (setFrozen b p).chime = p.chime := rfl
@[simp] theorem setFrozen_acct (b : Bool) : (setFrozen b p).acct = p.acct := rfl
@[simp] theorem setFrozen_jour (b : Bool) : (setFrozen b p).jour = p.jour := rfl
@[simp] theorem setFrozen_panel (b : Bool) : (setFrozen b p).panel = p.panel := rfl
@[simp] theorem setFrozen_freeIdx (b : Bool) : (setFrozen b p).freeIdx = p.freeIdx := rfl

/-! ### setLink -/

@[simp] theorem setLink_mem (l : LinkState) : (setLink l p).mem = p.mem := rfl
@[simp] theorem setLink_exch (l : LinkState) : (setLink l p).exch = p.exch := rfl
@[simp] theorem setLink_arb (l : LinkState) : (setLink l p).arb = p.arb := rfl
@[simp] theorem setLink_working (l : LinkState) : (setLink l p).working = p.working := rfl
@[simp] theorem setLink_link (l : LinkState) : (setLink l p).link = { p.link with state := l } := rfl
@[simp] theorem setLink_req (l : LinkState) : (setLink l p).req = p.req := rfl
@[simp] theorem setLink_ctl (l : LinkState) : (setLink l p).ctl = p.ctl := rfl
@[simp] theorem setLink_conv (l : LinkState) : (setLink l p).conv = p.conv := rfl
@[simp] theorem setLink_free (l : LinkState) : (setLink l p).free = p.free := rfl
@[simp] theorem setLink_pulse (l : LinkState) : (setLink l p).pulse = p.pulse := rfl
@[simp] theorem setLink_sw (l : LinkState) : (setLink l p).sw = p.sw := rfl
@[simp] theorem setLink_ign (l : LinkState) : (setLink l p).ign = p.ign := rfl
@[simp] theorem setLink_chans (l : LinkState) : (setLink l p).chans = p.chans := rfl
@[simp] theorem setLink_ptrs (l : LinkState) : (setLink l p).ptrs = p.ptrs := rfl
@[simp] theorem setLink_homeReqs (l : LinkState) : (setLink l p).homeReqs = p.homeReqs := rfl
@[simp] theorem setLink_lamps (l : LinkState) : (setLink l p).lamps = p.lamps := rfl
@[simp] theorem setLink_lampU (l : LinkState) : (setLink l p).lampU = p.lampU := rfl
@[simp] theorem setLink_chime (l : LinkState) : (setLink l p).chime = p.chime := rfl
@[simp] theorem setLink_acct (l : LinkState) : (setLink l p).acct = p.acct := rfl
@[simp] theorem setLink_jour (l : LinkState) : (setLink l p).jour = p.jour := rfl
@[simp] theorem setLink_panel (l : LinkState) : (setLink l p).panel = p.panel := rfl
@[simp] theorem setLink_freeIdx (l : LinkState) : (setLink l p).freeIdx = p.freeIdx := rfl

/-! ### setSdo -/

@[simp] theorem setSdo_mem (b : Option Byte) : (setSdo b p).mem = p.mem := rfl
@[simp] theorem setSdo_exch (b : Option Byte) : (setSdo b p).exch = p.exch := rfl
@[simp] theorem setSdo_arb (b : Option Byte) : (setSdo b p).arb = p.arb := rfl
@[simp] theorem setSdo_working (b : Option Byte) : (setSdo b p).working = p.working := rfl
@[simp] theorem setSdo_link (b : Option Byte) : (setSdo b p).link = { p.link with sdo := b } := rfl
@[simp] theorem setSdo_req (b : Option Byte) : (setSdo b p).req = p.req := rfl
@[simp] theorem setSdo_ctl (b : Option Byte) : (setSdo b p).ctl = p.ctl := rfl
@[simp] theorem setSdo_conv (b : Option Byte) : (setSdo b p).conv = p.conv := rfl
@[simp] theorem setSdo_free (b : Option Byte) : (setSdo b p).free = p.free := rfl
@[simp] theorem setSdo_pulse (b : Option Byte) : (setSdo b p).pulse = p.pulse := rfl
@[simp] theorem setSdo_sw (b : Option Byte) : (setSdo b p).sw = p.sw := rfl
@[simp] theorem setSdo_ign (b : Option Byte) : (setSdo b p).ign = p.ign := rfl
@[simp] theorem setSdo_chans (b : Option Byte) : (setSdo b p).chans = p.chans := rfl
@[simp] theorem setSdo_ptrs (b : Option Byte) : (setSdo b p).ptrs = p.ptrs := rfl
@[simp] theorem setSdo_homeReqs (b : Option Byte) : (setSdo b p).homeReqs = p.homeReqs := rfl
@[simp] theorem setSdo_lamps (b : Option Byte) : (setSdo b p).lamps = p.lamps := rfl
@[simp] theorem setSdo_lampU (b : Option Byte) : (setSdo b p).lampU = p.lampU := rfl
@[simp] theorem setSdo_chime (b : Option Byte) : (setSdo b p).chime = p.chime := rfl
@[simp] theorem setSdo_acct (b : Option Byte) : (setSdo b p).acct = p.acct := rfl
@[simp] theorem setSdo_jour (b : Option Byte) : (setSdo b p).jour = p.jour := rfl
@[simp] theorem setSdo_panel (b : Option Byte) : (setSdo b p).panel = p.panel := rfl
@[simp] theorem setSdo_freeIdx (b : Option Byte) : (setSdo b p).freeIdx = p.freeIdx := rfl

end Sys2Proof.Machine
end

