-- ==== Sys2Proof/WellFormed.lean ====
section
/-! DEFINITION. Which commands are the ones their rows name: the checks on operands that the types leave open. -/

namespace Sys2Proof

/-- R168: an entry's activity codes differ, and only seat 2 is never DRIVING (R157); a submission names an operating
state that a restart can begin in (R33: none begins in INIT). -/
def Submission.wellFormed : Submission → Bool
  | .restart _ was => was != .init
  | .activity seat before after => before != after && !(seat == .two && (before == .driving || after == .driving))
  | .cardIn seat _ cdt ddt _ initial => cdt.toNat ≤ ddt.toNat && !(seat == .two && initial == .driving)
  | .cardOut _ _ cdt ddt _ => cdt.toNat ≤ ddt.toNat
  | .dailyRest _ cdt ddt => cdt.toNat ≤ ddt.toNat
  | _ => true

/-- The operand checks of each row: a byte that another row names is not this row's (R1, R46); the rest of the operands
are of types that hold only what the rows allow. -/
def Instr.wellFormed : Instr → Bool
  | .ignore b => b != 0x52#8 && b != 0x57#8
  | .keyOther v => v != 0xC3#8 && v != 0x96#8
  | .journalSubmission sub => sub.wellFormed
  | _ => true

end Sys2Proof
end

