-- ==== Sys2Proof/Tests/Slice0.lean ====
section
/-! SUPPORT. Tests: ill-formed terms that WellFormed refuses, worked examples of the spec, and for each statement with hypotheses a
state and operands that meet them, clause by clause. -/

open Sys2Proof Sys2Proof.Machine

namespace Sys2Proof.Tests

set_option Elab.async false

/-! ### Small states -/

/-- The part in an operating state after INIT, unconfigured, with its header. -/
def atOp (op : OpState) : State :=
  { State.reset with
    exch := memWriteN [] 2 [op.code]
    ctl := { State.reset.ctl with op := op, initDone := true }
    chime := { State.reset.chime with deferred := op != .run } }

def run : State := atOp .run

/-- A transfer that has reached an address. -/
def linkAt (write : Bool) (a : BitVec 14) (s : State) : State := { s with link := { state := .data write a, sdo := none } }

def holding (m : Mem) (s : State) : State := { s with exch := m }

def configured (w : Mem) (s : State) : State := { s with working := w }

def inRestart (cause : Cause) (s : State) : State := { s with ctl := { s.ctl with restart := some cause } }

def withSupply (x : Supply) (s : State) : State := { s with ctl := { s.ctl with supply := x } }

def withAccess (a : Access) (s : State) : State := { s with ctl := { s.ctl with access := a } }

def inMotion (s : State) : State := { s with acct := { s.acct with moving := true } }

def withPtr (i : Fin 6) (x : Ptr) (s : State) : State := { s with ptrs := s.ptrs.set i x }

def withLamp (i : Fin 32) (x : Lamp) (s : State) : State := { s with lamps := s.lamps.set i x }

/-- A slot's bytes are held. -/
def holdingSlot (i : Fin 8) (taken : List Byte) (s : State) : State :=
  { s with req := { s.req with holds := s.req.holds.set i (some { taken := taken }) } }

def halted (s : State) : State := { s with req := { s.req with halt := true } }

/-- Two record accesses wait, and the link held the last grant. -/
def awaited (s : State) : State :=
  { s with arb := { last := .link, waiting := [.write 0x0A [1], .write 0x780 [0]], idx := 0 } }

/-- A seat in an activity, with a span. -/
def seatIn (a : Activity) (span : Nat) : Seat :=
  { identity := 7, selected := .work, effective := a, span := span, cdt := 60, ddt := 120, split := true, breakInSpan := false }

def seated (x : Seat) (s : State) : State := { s with acct := { s.acct with seat1 := some x } }

/-- A request slot's bytes of a kind, with parameters of zeros and a check that holds. -/
def posted (kind : Byte) : List Byte := withCheck ([1, kind] ++ List.replicate 29 0)

/-- The state a command leaves. -/
def after (c : Instr) (s : State) : State :=
  match exec c s with
  | .next t => t
  | .fault _ => s
  | .refused _ => s

/-! ### WellFormed refuses the ill-formed -/

theorem test_wellFormed_refuses :
    (Instr.ignore 0x52).wellFormed = false ∧ (Instr.ignore 0x57).wellFormed = false ∧ (Instr.keyOther 0xC3).wellFormed = false ∧
    (Instr.keyOther 0x96).wellFormed = false ∧ (Instr.journalSubmission (.restart .reset .init)).wellFormed = false ∧
    (Instr.journalSubmission (.activity .one .work .work)).wellFormed = false ∧
    (Instr.journalSubmission (.activity .two .work .driving)).wellFormed = false ∧
    (Instr.journalSubmission (.cardIn .one 1 2 1 false .work)).wellFormed = false ∧
    (Instr.journalSubmission (.cardIn .two 1 1 1 false .driving)).wellFormed = false ∧
    (Instr.journalSubmission (.cardOut .one 1 2 1 false)).wellFormed = false ∧
    (Instr.journalSubmission (.dailyRest .one 2 1)).wellFormed = false := by decide +kernel

theorem test_wellFormed_accepts :
    (Instr.ignore 0x53).wellFormed = true ∧ (Instr.keyOther 0).wellFormed = true ∧
    (Instr.journalSubmission (.activity .one .work .driving)).wellFormed = true := by decide +kernel

/-! ### Worked examples of the spec -/

/-- 4.2: a sender at 0.3127 of the reference has the code 320. -/
theorem test_worked_conversion : conversionCode 327890 = 320 := by decide +kernel

/-- Table 4-7: the window end at 1,400,000 µs with one edge at 1,380,000 and a reference at 1,050,000 gives 3,030 mHz; the one
at 1,200,000 without an edge decays to 6,666. -/
theorem test_worked_windows :
    let f (x : PulseIn) : Nat := (after (.windowEnd 0) { run with pulse := run.pulse.set 0 x }).pulse[0].freq
    let x : PulseIn := { lastEdge := some 1050000, start := 1100000, len := 100000, win := Edges.none, next := Edges.none,
                         tref := some 1050000, freq := 20000 }
    f x = 6666 ∧ f { x with start := 1300000, freq := 4000, win := { m := 1, first := 1380000, last := 1380000 } } = 3030 := by
  decide +kernel

/-- Table 5-6: the speedometer channel. -/
def speedometer : Mem :=
  memWriteN [] 0x1100 ([2, 0, 0, 0, 2, 2, 0, 0, 0, 0] ++ int32Bytes 360 ++ int32Bytes 8000 ++ int32Bytes 0 ++ int32Bytes 0 ++
    int32Bytes 15000)

/-- Table 5-7: channel 0 over four windows. -/
theorem test_worked_speedometer :
    let xs := [177777, 177900, 700000, 178000].scanl (fun x f => sampled speedometer 0 f x) Chan.reset
    xs.map (fun x => (x.acc, x.value, x.quality, x.count)) =
      [(0, 0, .unset, 0), (31996, 7999, .good, 0), (32002, 8000, .good, 0), (32002, 8000, .held, 1), (32012, 8003, .good, 0)] := by
  decide +kernel

/-- 5.13: the fuel curve at the codes of Table 5-9. -/
theorem test_worked_curve :
    [320, 316, 330, 322, 79, 900, 1023].map
      (interp [(80, 1000), (240, 700), (420, 400), (640, 150), (900, 0)]) = [567, 574, 550, 564, 1000, 0, 0] := by decide +kernel

/-- Table 9-3: a full journal loses two entries, and the read mark 15 brings the GAP entry 1003 with lost count 2. -/
theorem test_worked_journal :
    let full : State := { run with jour := { wm := 9, rm := 10, seq := 1001, lost := 0 } }
    let lost := submit (.overrun true) (submit (.overrun false) full.toPart)
    lost.jour = { wm := 9, rm := 10, seq := 1003, lost := 2 } ∧
    let t := offerReadMark 15 lost
    t.jour = { wm := 10, rm := 15, seq := 1004, lost := 0 } ∧ memReadN t.mem 0x920 4 = [0xEB, 3, 13, 0] ∧
      memReadN t.mem 0x929 2 = [2, 0] := by decide +kernel

/-- Table 10-2: the strings of its fields. -/
theorem test_worked_fields :
    fieldString .dec2 7999 = some [0x37, 0x39, 0x2E, 0x39, 0x39] ∧ fieldString .hhmm 14 = some [0x30, 0x30, 0x3A, 0x31, 0x34] ∧
    fieldString .activity 3 = some [0x83] ∧ fieldString .hhmm 630 = some [0x31, 0x30, 0x3A, 0x33, 0x30] := by decide +kernel

/-- Table 6-7 at the phases 3 and 15. -/
theorem test_duties : dutyOf 3 = { a := 71, b := 71 } ∧ dutyOf 15 = { a := -71, b := -71 } := by decide +kernel

/-- No row of the table has bits: no word spells a command. -/
theorem test_no_word_spells : decodeTableWord 8 0x52 = none ∧ State.reset.withFetchWord 8 0x52 = State.reset := by decide +kernel

/-! ### What meets the hypotheses of the statements -/

theorem witness_StepRunsTheFrontCommand :
    (State.reset.pending = [] ∧ State.reset.ctl.op = .init) ∧ (run.pending = [] ∧ run.ctl.op ≠ .init) ∧
    run.arb.waiting = [] ∧ ((awaited run).pending = [] ∧ (awaited run).ctl.op ≠ .init ∧ (awaited run).arb.waiting ≠ []) ∧
    ∀ ph ∈ [ChimePhase.idle, .tone 0, .gap 1],
      { run with chime := { run.chime with phase := ph } }.pending = [] := by decide +kernel

theorem witness_LinkFramesTransfersAndReads :
    State.reset.link.state = .idle ∧ ((0x53 : Byte) ≠ 0x52 ∧ (0x53 : Byte) ≠ 0x57) ∧
    (∀ l ∈ [LinkState.command, .addressHigh true, .addressLow false 0xFF, .ignore],
      { run with link := { state := l, sdo := none } }.link.state = l) ∧
    (linkAt false 0 run).live = true ∧ (linkAt false 0 run).arb.waiting = [] ∧ ∀ a ∈ [0x0000#14, 0x3FEF, 0x3FF0, 0x3FF1, 0x3FF2, 0x3FF3, 0x3FFF],
      (linkAt false a run).link.state = .data false a :=
  ⟨rfl, by decide, by simp, by decide +kernel, rfl, fun _ _ => rfl⟩

theorem witness_LinkOutsideService :
    (∀ s ∈ [State.reset, inRestart .reset run], s.live = false ∧ (linkAt false 0x3FF0 s).link.state = .data false 0x3FF0 ∧
      (linkAt true 0x3FF3 s).link.state = .data true 0x3FF3) ∧
    ¬ linkCommand .resetAssert ∧ Instr.resetAssert ≠ .powerOn ∧ ∃ t, exec .resetAssert (linkAt true 5 run) = .next t :=
  ⟨by decide +kernel, fun h => h, by decide, _, rfl⟩

theorem witness_offersAt (a : BitVec 14) : Memory.wf (linkAt true a run).exch = true ∧ offersAt (linkAt true a run) a :=
  ⟨(by decide +kernel : Memory.wf run.exch = true), (by decide +kernel : run.live = true), rfl⟩

theorem witness_WritesGetTheirDisposition :
    (∀ a ∈ [0x000A, 0x000B, 0x0040, 0x01BF], storedAddr a) ∧
    (∀ a ∈ [0x01F0, 0x01FF, 0x0560, 0x057F, 0x0720, 0x077F, 0x1060, 0x10FF, 0x1A80, 0x1AFF, 0x2F00, 0x3FEF, 0x3FF5, 0x3FFF],
      unassignedAddr a) ∧
    (∀ a ∈ [0x1000, 0x105F, 0x1100, 0x1A7F, 0x1B00, 0x2EFF], recordAddr a) ∧
    (∀ a ∈ [0x0000, 0x0007, 0x000C, 0x003F, 0x01C0, 0x01E0, 0x01E2, 0x01EF, 0x0200, 0x055F, 0x0580, 0x071F, 0x0780, 0x0FFF,
      0x3FF0, 0x3FF2], guardedAddr a) ∧
    (withAccess .opened run).ctl.access = .opened ∧ run.ctl.access ≠ .opened ∧ run.ctl.commit = none ∧
    (withAccess .armed run).ctl.access = .armed ∧ (withAccess .opened run).ctl.access ≠ .armed ∧
    noticeOn (holding [(8, 4)] run).exch .wprot = true ∧ noticeOn run.exch .wprot = false ∧
    (after .keyCommit (linkAt true 0x3FF3 (withAccess .opened run))).ctl.commit = some { copied := 0, staging := [] } := by
  simp only [storedAddr, unassignedAddr, recordAddr, guardedAddr, inRecord]
  decide +kernel

theorem witness_KeySequence :
    (∀ acc ∈ [Access.locked, .armed, .opened], ∀ op ∈ [OpState.unconfigured, .starting, .run, .parking, .park],
      let s := linkAt true 0x3FF3 (withAccess acc (atOp op))
      Memory.wf s.exch = true ∧ s.live = true ∧ s.link.state = .data true 0x3FF3 ∧ s.ctl.access = acc ∧ s.ctl.commit = none ∧
        s.acct.moving = false ∧ (inMotion s).acct.moving = true) ∧
    (0 : Byte) ≠ 0xC3 ∧ (0 : Byte) ≠ 0x96 := by decide +kernel

/-- A scan that is asked for. -/
def asked (periodic : Bool) (s : State) : State :=
  { s with req := { s.req with pendingScan := some { periodic := periodic, time := if periodic then 20 else 0 } } }

def scanTimed (s : State) : State := { s with req := { s.req with scanTimer := some 20 } }

theorem witness_ScansAreAskedForAndRun :
    run.req.pendingScan = none ∧ (asked true run).req.pendingScan = some { periodic := true, time := 20 } ∧
    (scanTimed run).live = true ∧ (scanTimed run).req.scanTimer = some 20 ∧ (scanTimed run).req.pendingScan = none ∧
    (scanTimed (asked false run)).req.pendingScan = some { periodic := false, time := 0 } ∧
    (∀ s ∈ [asked false run, asked true (atOp .park), asked false (holding [(8, 2), (0x0C, 0xFF), (0x0D, 0xFF)] run)],
      Memory.wf s.exch = true ∧ s.live = true ∧ s.req.pendingScan.isSome ∧
      ((s.req.pendingScan.map (·.periodic)) = some false ∨ s.channelsTake = false) ∧ s.req.restartSlots = [] ∧
      (∀ i : Fin 16, memRead s.mem (0x40 + 8 * i.val) = s.req.seen[i]) ∧
      (∀ i : Fin 8, s.req.holds[i].isSome ∨ memRead s.mem (0xC0 + 32 * i.val) ≠ 1)) ∧
    (let s := asked false (halted (holding [(8, 2), (0xC0, 1)] run))
     Memory.wf s.exch = true ∧ s.live = true ∧ s.req.restartSlots = [] ∧ (∀ i : Fin 16, memRead s.mem (0x40 + 8 * i.val) = s.req.seen[i]) ∧
       s.req.halt = true ∧ noticeOn s.mem .check = true ∧ memRead s.mem 0xC0 = 1) := by decide +kernel

/-- Nothing waits, so a link access finds the memory as it stands. -/
theorem found_idle (p : Part) (a : Nat) (h : p.arb.waiting = []) : found p a = p.exch := by
  simp only [found, h]
  cases grantsBefore p a <;> rfl

theorem witness_NoticeByteWrites :
    (let s := linkAt true 8 (holding [(8, 6)] run)
     noticeOn (found s.toPart 8) .check = true ∧ noticeOn (clearNotices false 0xFD s.toPart).exch .check = false ∧
     noticeOn (found s.toPart 8) .wprot = true ∧ noticeOn (clearNotices false 0xFB s.toPart).exch .wprot = false) ∧
    (NoticeWordLaw (holding [(8, 0xFF), (9, 0x0F)] run).toPart ∧ NoticeWordLaw (awaited run).toPart) ∧
    ∀ s ∈ [State.reset, inRestart .reset run], ∃ t, step s = .next t ∧ s.arb.waiting = [] ∧ t.live = false := by
  have law (p : Part) (h : (noticeWord p.exch).toNat < 2 ^ 12)
      (hw : (p.arb.waiting.all fun x => match x with | .write a _ => 10 ≤ a | _ => true) = true) : NoticeWordLaw p := by
    refine ⟨fun k hk => Nat.testBit_lt_two_pow (lt_of_lt_of_le h (Nat.pow_le_pow_right (n := 2) (by decide) hk)), fun a bs hx k hk => ?_⟩
    have := List.all_eq_true.1 hw _ hx
    simp only [noticeByte, inRecord, noticeAddr, decide_eq_true_eq] at hk this ⊢
    omega
  refine ⟨?_, ⟨law _ (by decide +kernel) (by decide +kernel), law _ (by decide +kernel) (by decide +kernel)⟩, ?_⟩
  · simp only [found_idle (linkAt true 8 (holding [(8, 6)] run)).toPart 8 rfl]
    decide +kernel
  · intro s hs
    simp only [List.mem_cons, List.not_mem_nil, or_false] at hs
    rcases hs with rfl | rfl
    · exact ⟨_, rfl, rfl, by decide +kernel⟩
    · exact ⟨_, rfl, rfl, by decide +kernel⟩

/-- A notice that waits is no hindrance to ATTN: the next idle microsecond grants it, and a host that has unmasked it sees ATTN.
-/
theorem test_attn_follows_a_notice :
    let s := holding [(0x0B, 2)] (withSupply .settle { run with ctl := { run.ctl with supply := .settle, settle := some 1 } })
    let t := after .settleTimerExpiry s
    t.attn = false ∧ (match step t with | .next u => u.attn | _ => false) = true := by decide +kernel

/-- The accepted marks from 10 to 9 are the read mark itself and every other; from 63 to 1 they are 63, 0 and 1. -/
theorem witness_ReadMarkIsJudged :
    let accepted (rm wm v : Nat) : Prop := v < 64 ∧ (v + 64 - rm) % 64 ≤ (wm + 64 - rm) % 64
    let j : Journal := { wm := 1, rm := 63, seq := 9, lost := 0 }
    accepted 63 1 63 ∧ accepted 63 1 0 ∧ accepted 63 1 1 ∧ ¬ accepted 63 1 2 ∧ ¬ accepted 63 1 62 ∧ ¬ accepted 63 1 64 ∧
    j.rm.val = 63 ∧ j.wm.val = 1 ∧ j.lost = 0 ∧ { j with lost := 65535 }.lost ≠ 0 := by decide +kernel

/-- A record of two pieces, one of three, and one that ends with a piece of one byte. -/
theorem witness_LongRecordsAreWrittenInPieces :
    Memory.wf run.exch = true ∧ (∀ n ∈ [31, 62, 63, 126], 31 ≤ (zeros n).length ∧ 0 < 1 ∧ 1 < (n + 33) / 32) ∧
    (pieces 3 0x100 (zeros 65))[0]? = some { addr := 0x140, bytes := [0] } ∧
    (pieces 3 0x100 (zeros 65))[2]? = some { addr := 0x100, bytes := zeros 32 } ∧
    (composeFrame run.toPart).cells.length = 80 ∧ (2 : Byte).toNat < 3 ∧ (run.live = true ∧ onlyAsks .panelRefresh) ∧
    memReadN run.mem 0x781 126 ≠ mirrorBody (composeFrame { run with panel := { run.panel with basePage := 3 } }) run.toPart ∧
    (run.ctl.op ≠ .init ∧ Instr.panelRefresh ≠ .powerOn ∧ ∃ t, exec .panelRefresh run = .next t) :=
  ⟨by decide +kernel, by decide +kernel, by decide +kernel, by decide +kernel, by decide +kernel, by decide +kernel,
    ⟨by decide +kernel, trivial⟩, by decide +kernel, by decide +kernel, by decide, _, rfl⟩

/-- R7, R24, R31: SNAPSHOT leaves the eight pieces of its window and its answer waiting, so the link meets a window whose last
piece alone is new, and the slot still POSTED; once the answer is granted, REPLY comes next. -/
theorem test_snapshot_waits :
    let t := after (.snapshot 0 0) (holding (memWriteN [] 0xC0 (withCheck ([1, 11] ++ zeros 29)))
      { run with conv := { run.conv with codes := Vector.replicate 8 9 } })
    let met (k : Nat) : Mem := (t.grantRecords k).exch
    requestTaken 0 run.toPart = true ∧ t.arb.waiting.length = 9 ∧
    [1, 8, 9, 10].map (fun k => (memRead (met k) 0x204, memRead (met k) 0xC0, noticeOn (met k) .reply)) =
      [(0, 1, false), (9, 1, false), (9, 3, false), (9, 3, true)] := by decide +kernel

/-- The four accesses of grantSome, and an answer to a slot that has been withdrawn. -/
theorem witness_grantSome :
    (∀ st ∈ [(1 : Byte), 2], memRead [(0xC0, st)] 0xC0 = 1 ∨ memRead [(0xC0, st)] 0xC0 = 2) ∧
    memRead ([] : Mem) 0xC0 ≠ 1 ∧ memRead ([] : Mem) 0xC0 ≠ 2 := by decide +kernel

theorem witness_onlyAsks : onlyAsks .panelRefresh ∧ ¬ linkCommand .panelRefresh ∧ ¬ onlyAsks .ignFall ∧ ¬ linkCommand .ignFall :=
  ⟨trivial, fun h => h, fun h => h, fun h => h⟩

/-- A link access that meets waiting accesses and held the last grant; one of them stands at the byte that a write is to store.
-/
theorem witness_linkMeetsWaiting :
    (let s := linkAt false 0x780 (awaited run)
     s.live = true ∧ s.link.state = .data false 0x780 ∧ (0x780 : BitVec 14).toNat < 0x3FF0 ∧ s.arb.last = .link) ∧
    (let s := linkAt true 0x0A (awaited run)
     Memory.wf s.exch = true ∧ s.live = true ∧ s.link.state = .data true 0x0A ∧ inRecord 0x0A 2 (0x0A : BitVec 14).toNat ∧
       s.ctl.access ≠ .armed ∧ s.arb.last = .link ∧ s.arb.waiting ≠ []) ∧ storedAddr 0x0A := by
  simp only [inRecord, storedAddr]
  decide +kernel

/-- R8: the mirror's four pieces: at first the link meets both editions old, then the trailing one new, at last both. -/
theorem test_mirror_in_pieces :
    let t := after .panelRefresh run
    let met (k : Nat) : Mem := (t.grantRecords k).exch
    t.arb.waiting.length = 4 ∧
    [0, 1, 3, 4].map (fun k => (memRead (met k) 0x780, memRead (met k) 0x7FF)) = [(0, 0), (0, 1), (0, 1), (1, 1)] := by
  decide +kernel

theorem witness_FailedSlotsHaltOrAreAnswered :
    ∀ p ∈ [(holding [(0xC0, 1)] run).toPart, (configured [(0x1001, 2)] (holding [(0x08, 2), (0xC0, 1)] run)).toPart],
      Memory.wf p.exch = true ∧ p.req.halt = false ∧ p.req.holds[(0 : Fin 8)] = none ∧ memRead p.mem 0xC0 = 1 ∧
      xorBytes (memReadN p.mem 0xC0 32) ≠ 0 ∧ policyHalt p.working = !noticeOn p.mem .check := by decide +kernel

theorem witness_IntakeRunsTheRowOfTheKind :
    (let s := asked true (holding (memWriteN [] 0xC0 (posted 1)) run)
     Memory.wf s.exch = true ∧ s.live = true ∧ s.req.pendingScan = some { periodic := true, time := 20 } ∧
       (halted (holding [(8, 2)] s)).req.halt = true ∧ noticeOn (halted (holding [(8, 2)] s)).mem .check = true) ∧
    (holdingSlot 7 (posted 8) run).req.holds[(7 : Fin 8)].isSome ∧
    (run.req.halt = false ∧ run.req.holds[(7 : Fin 8)] = none ∧ byteAt (memReadN run.mem (0xC0 + 32 * 7) 32) 0 ≠ 1) ∧
    ∀ k ∈ List.range 14,
      let s := holding (memWriteN [] 0x1A0 (posted (BitVec.ofNat 8 k))) run
      let bs := memReadN s.mem (0xC0 + 32 * 7) 32
      s.live = true ∧ s.req.halt = false ∧ s.req.holds[(7 : Fin 8)] = none ∧ byteAt bs 0 = 1 ∧ xorBytes bs = 0 ∧
      ((requestRow 7 bs).isNone = true ↔ k = 0 ∨ k = 13) ∧ (requestRow 7 bs = some (.restart 7) ↔ k = 12) := by decide +kernel

theorem witness_AnswersAreWrittenWhole :
    memRead (memWriteN [] 0xC0 (posted 1)) 0xC0 = 1 ∧ memRead [(0xC0, 2)] 0xC0 = 2 ∧ memRead [(0xC0, 3)] 0xC0 = 3 ∧
    (posted 1).length = 32 ∧ (List.replicate 24 (9 : Byte)).length ≤ 24 ∧ List.replicate 24 (9 : Byte) ≠ [] := by decide +kernel

theorem witness_requestTaken : ∀ i : Fin 8, requestTaken i run.toPart = true ∧ Memory.wf run.exch = true := by decide +kernel

/-- A slot that reads POSTED, whose record is marked TAKEN, and one that does not. -/
theorem witness_slotMarked : ∀ i : Fin 8,
    (let s := holding (memWriteN [] (0xC0 + 32 * i.val) (posted 8)) run
     requestTaken i s.toPart = true ∧ Memory.wf s.exch = true ∧ memRead s.mem (0xC0 + 32 * i.val) = 1) ∧
    memRead run.mem (0xC0 + 32 * i.val) ≠ 1 := by decide +kernel

theorem witness_SetActivityIsJudged :
    (3 : Byte) ≠ 1 ∧ (3 : Byte) ≠ 2 ∧ getSeat run.acct .one = none ∧
    ∀ x ∈ [seatIn .work 0, seatIn .rest 0, seatIn .rest 900], getSeat (seated x run).acct .one = some x ∧
      (effectiveOf .one run.acct.moving .work ≠ .rest) ∧ effectiveOf .one run.acct.moving .rest = .rest ∧
      effectiveOf .one run.acct.moving .available = .available := by decide +kernel

theorem witness_CardsComeAndGo :
    getSeat run.acct .one = none ∧ getSeat (seated (seatIn .work 0) run).acct .one = some (seatIn .work 0) ∧
    getSeat (seated (seatIn .work 0) run).acct (otherSeat .two) = some (seatIn .work 0) ∧
    getSeat (seated (seatIn .work 0) run).acct .two = none ∧ (seatIn .work 0).identity = 7 ∧
    (1 : Byte).getLsbD 0 = true ∧ (0 : Byte).getLsbD 0 = false ∧ (5 : Half).toNat < (6 : Half).toNat := by decide +kernel

theorem witness_SeatsSwapAndTheClockIsSet :
    run.acct.moving = false ∧ (inMotion run).acct.moving = true ∧ SeatLaws (seated (seatIn .work 0) run).acct := by
  refine ⟨rfl, rfl, ?_⟩
  unfold SeatLaws
  refine ⟨fun x y _ h => by (cases h), fun id x h => ?_⟩
  cases id
  · obtain rfl : seatIn .work 0 = x := by simpa [getSeat, seated] using h
    decide +kernel
  · cases h

/-- A lamp record of a kind and a class, with flags and a text, on channel 0. -/
def lampConfig (kind cls flags onDelay text : Byte) : Mem :=
  memWriteN [] 0x1B00 ([kind, cls, 0, flags, 0, 0xFF, onDelay, text, 0, 0, 0, 0] ++ int32Bytes 10 ++ int32Bytes 5)

def lampIn (st : LampState) : Lamp := { Lamp.reset with state := st }

theorem witness_LampRequestsAreJudged :
    (atOp .unconfigured).ctl.op = .unconfigured ∧
    (∀ which ∈ [(32 : Byte), 0x7F, 0x83, 0xFF], (32 ≤ which.toNat ∧ which.toNat < 0x80) ∨ 0x82 < which.toNat) ∧
    lampUsed run.working 0 = false ∧
    (∀ cls : Fin 3, ∀ st ∈ [LampState.on, .latched],
      let s := withLamp 0 (lampIn st) (configured (lampConfig 5 (BitVec.ofNat 8 cls) 0 0 0xFF) run)
      lampUsed s.working 0 = true ∧ s.lamps[(0 : Fin 32)].state = st ∧ (lampRec s.working 0).cls.rank = cls.val ∧
        (lampRec s.working 0).kind = .request ∧ conditionFrozen s.toPart 0 = false) ∧
    (let s := configured (lampConfig 5 0 0 0 0xFF) { run with lampU := { run.lampU with frozen := true } }
     conditionFrozen s.toPart 0 = true ∧ s.lamps[(0 : Fin 32)].state = .off) ∧
    (lampRec (lampConfig 4 0 0 0 0xFF) 0).kind ≠ .request := by decide +kernel

theorem witness_PagesAreShownAndCopied :
    requestTaken 0 (atOp .unconfigured).toPart = true ∧ ptrUsed [(0x1900, 1)] 0 = true ∧
    (11 : Byte).toNat < 12 ∧ 12 ≤ (12 : Byte).toNat ∧ (2 : Byte).toNat < 3 ∧ 3 ≤ (3 : Byte).toNat := by decide +kernel

def proving (c : Proving) (s : State) : State := { s with ctl := { s.ctl with proving := some c } }

theorem witness_ProveIsJudged :
    (∀ s ∈ [proving { kind := .start, timer := some 5, sweeps := [] } (atOp .starting), atOp .park, inMotion run, run],
      requestTaken 0 s.toPart = true) ∧
    (proving { kind := .start, timer := some 5, sweeps := [] } (atOp .starting)).ctl.proving.isSome ∧
    (atOp .park).ctl.proving = none ∧ (atOp .park).ctl.op ≠ .run ∧ run.ctl.proving = none ∧ run.ctl.op = .run ∧
    run.acct.moving = false ∧ (inMotion run).acct.moving = true ∧
    (let w := lampConfig 1 0 0x0C 0 0xFF
     lampUsed w 0 = true ∧ (lampRec w 0).prove = true ∧ (lampRec w 0).drive = true) := by decide +kernel

/-- Pointer 0 used, with travel 100, a sweep or none, Smax 4, and the scale 0 to 0, 100 to 100. -/
def pointerConfig (sweep : Byte) : Mem :=
  memWriteN [] 0x1900 ([1, 0, 2, 4, 0, 0, sweep, 0, 100, 0] ++ zeros 10 ++ [0, 0, 100, 0, 0, 0, 100, 0])

def ptrIn (st : PtrState) (pos steps : Nat) : Ptr := { Ptr.reset with state := st, pos := pos, stepsLeft := steps }

theorem witness_HomePointerIsJudged :
    let w := pointerConfig 0
    let s := configured w run
    requestTaken 0 s.toPart = true ∧ ptrUsed s.working (0 : Fin 6) = true ∧ ptrUsed s.working (1 : Fin 6) = false ∧
    s.ptrs[(0 : Fin 6)].state ≠ .homing ∧ (withPtr 0 (ptrIn .homing 0 9) s).ptrs[(0 : Fin 6)].state = .homing ∧
    (configured w (atOp .park)).ctl.op ≠ .run ∧ (configured w (atOp .unconfigured)).ctl.op = .unconfigured ∧
    s.acct.moving = false ∧ (inMotion s).acct.moving = true := by decide +kernel

theorem chimeLaw_of_idle (p : Part) (served : p.chime.deferred = !chimeServes p) (idle : p.chime.phase = .idle)
    (none : p.chime.served = []) (owed : ∀ i : Fin 32, p.lamps[i].owed = false) (quiet : p.chime.test = .none) : ChimeLaw p := by
  refine ⟨served, fun _ => idle, ?_, ?_, ?_, ?_⟩
  · intro n h
    rw [idle] at h
    cases h
  · intro i h
    rw [none] at h
    cases h
  · intro i h
    rw [owed] at h
    cases h
  · intro h
    rw [quiet] at h
    cases h

theorem chimeLaw_atOp (op : OpState) : ChimeLaw (atOp op).toPart := by
  cases op <;> exact chimeLaw_of_idle _ (by decide +kernel) rfl rfl (by decide +kernel) rfl

/-- A pin that holds INIT or a restart. -/
def lineLow (s : State) : State := { s with ctl := { s.ctl with resetLine := true } }
def supplyLow (s : State) : State := { s with ctl := { s.ctl with supplyLow := true } }

theorem witness_InitBeginsAndEnds :
    let s := State.reset
    (s.ctl.op = .init ∧ s.ctl.initDone = false ∧ s.ctl.resetLine = false ∧ s.ctl.supplyLow = false) ∧
    (lineLow s).ctl.resetLine = true ∧ (supplyLow s).ctl.supplyLow = true ∧
    Memory.wf (atOp .init).exch = true ∧ (atOp .init).ctl.initDone = true ∧ (atOp .init).working = [] ∧
    ChimeLaw (atOp .init).toPart :=
  ⟨by decide +kernel, rfl, rfl, by decide +kernel, rfl, rfl, chimeLaw_atOp .init⟩

theorem witness_RestartsBegin :
    (Memory.wf run.exch = true ∧ run.ctl.op ≠ .init ∧ run.ctl.restart = none ∧ run.ctl.resetLine = false ∧
      run.ctl.supplyLow = false ∧ requestTaken 7 run.toPart = true) ∧
    run.ctl.access = .locked ∧ (withAccess .armed run).ctl.access ≠ .locked ∧ (inRestart .supply run).ctl.restart.isSome ∧
    (lineLow run).ctl.resetLine = true ∧ (supplyLow run).ctl.supplyLow = true ∧ State.reset.ctl.op = .init := by decide +kernel

theorem witness_RestartsEnd :
    let s := inRestart .request (holding [(0xC0, 2), (0xE0, 1), (0x100, 2), (0x120, 1), (0x140, 3)]
      { run with req := { run.req with restartSlots := [0, 1, 4] } })
    Memory.wf s.exch = true ∧ s.ctl.restart = some .request ∧ s.ctl.resetLine = false ∧ s.ctl.supplyLow = false ∧
    (∀ i : Fin 8, s.req.holds[i] = none) ∧ s.homeReqs = [] ∧ s.acct.moving = false ∧ s.acct.warnings.getLsbD 5 = false ∧
    (∀ k < 5, s.acct.warnings.getLsbD k = warningActive s.acct k) ∧
    (let w := memWriteN (lampConfig 6 0 0 0 0xFF) 0x1B08 [3]
     (lampRec w 0).gate = none ∧ (lampRec w 0).kind = .drivetime ∧ (lampRec w 0).selector = 3 ∧ (lampRec w 0).onDelay = 0 ∧
       (∀ i : Fin 32, ((lampRec w i).kind.usesChannel = true → (lampRec w i).chan ≤ 31) ∧ ((lampRec w i).gate.getD 0) ≤ 31) ∧
       (8 : BitVec 6).getLsbD 3 = true) ∧
    ((0 : Fin 8) ∈ s.req.restartSlots ∧ memRead s.mem 0xC0 = 2) ∧ ((1 : Fin 8) ∈ s.req.restartSlots ∧ memRead s.mem 0xE0 = 1) ∧
    ((2 : Fin 8) ∉ s.req.restartSlots ∧ memRead s.mem 0x100 = 2) ∧ ((3 : Fin 8) ∉ s.req.restartSlots ∧ memRead s.mem 0x120 = 1) ∧
    ((4 : Fin 8) ∈ s.req.restartSlots ∧ memRead s.mem 0x140 = 3) := by decide +kernel

def ignited (s : State) : State := { s with ign := { on := true, count := 0 } }

theorem witness_IgnitionMovesTheOperatingState :
    (∀ op ∈ [OpState.unconfigured, .starting, .run, .parking, .park],
      Memory.wf (atOp op).exch = true ∧ (atOp op).live = true ∧ (atOp op).ctl.op = op ∧ (atOp op).ign.on = false ∧
      (ignited (atOp op)).ign.on = true ∧ (∀ i : Fin 6, ptrUsed (atOp op).working i = false) ∧ (atOp op).inDip = false) ∧
    (∀ st ∈ [PtrState.follow, .sweep, .return],
      let s := withPtr 0 (ptrIn st 1 0) (configured (pointerConfig 0) (atOp .parking))
      ptrUsed s.working (0 : Fin 6) = true ∧ ptrUsed s.working (1 : Fin 6) = false ∧ s.ptrs[(0 : Fin 6)].pos ≠ 0 ∧
      s.ptrs[(0 : Fin 6)].state = st ∧ s.ptrs[(0 : Fin 6)].homeNeeded = true) ∧
    (∀ op ∈ [OpState.parking, .park],
      let w := memWriteN (lampConfig 1 0 0 0 0xFF) 0x1B05 [31]
      let r := lampRec w 0
      (configured w (atOp op)).ctl.op = op ∧ (configured w (atOp op)).ign.on = false ∧ lampUsed w 0 = true ∧
        r.kind.usesChannel = true ∧ r.chan ≤ 31 ∧ r.gate = some 31) ∧
    (let c : Proving := { kind := .request 7, timer := some 5, sweeps := [] }
     let s := holding (memWriteN [] 0x1A0 (posted 8)) (proving c (holdingSlot 7 (posted 8) (ignited run)))
     s.live = true ∧ s.ctl.op = .run ∧ s.ign.on = true ∧ s.ctl.proving = some c ∧ c.kind = .request 7 ∧ c.kind ≠ .request 6 ∧
       s.req.holds[(7 : Fin 8)] = some { taken := posted 8 } ∧ memRead s.mem (0xC0 + 32 * 7) = 1) ∧
    (∀ op, ChimeLaw (atOp op).toPart) :=
  ⟨by decide +kernel, by decide +kernel, by decide +kernel, by decide +kernel, chimeLaw_atOp⟩

def committing (copied : Nat) (staging : Mem) (s : State) : State :=
  { s with ctl := { s.ctl with access := .opened, commit := some { copied := copied, staging := staging } } }

theorem witness_CommitsFailOrAreRefused :
    run.ctl.commit = none ∧
    (∀ s ∈ [committing 376 [(0x1000, 1)] run, committing 0 [] (inMotion run), committing 376 [] (atOp .starting),
        committing 375 [] (atOp .parking)],
      Memory.wf s.exch = true ∧ s.live = true ∧ s.ctl.commit.isSome) ∧
    validate [(0x1000, 1)] = some { table := 1, index := 0, reason := .range } ∧ validate [] = none ∧
    memSlice run.mem 0x1000 0x3F00 = [] ∧ run.acct.moving = false := by decide +kernel

theorem witness_CommitsSucceed :
    (∀ op ∈ [OpState.run, .unconfigured, .park],
      let s := committing 376 (pointerConfig 0) (atOp op)
      Memory.wf s.exch = true ∧ s.live = true ∧ s.ctl.commit = some { copied := 376, staging := pointerConfig 0 } ∧
      s.ctl.access = .opened ∧ s.acct.moving = false ∧ s.ctl.op = op ∧ memSlice s.mem (0x1000 + 32 * 376) 0x3F00 = []) ∧
    validate (pointerConfig 0) = none ∧ ptrUsed (pointerConfig 0) (0 : Fin 6) = true ∧
    ptrUsed (pointerConfig 0) (5 : Fin 6) = false ∧
    (let c : Proving := { kind := .request 7, timer := some 5, sweeps := [] }
     let q : HomeReq := { slot := 2, left := [0] }
     let s := proving c { run with
       homeReqs := [q]
       req := { run.req with holds := (run.req.holds.set 7 (some { taken := posted 8 })).set 2 (some { taken := posted 9 }) } }
     s.ctl.proving = some c ∧ c.kind = .request 7 ∧ q ∈ s.homeReqs ∧ q.slot = 2 ∧
       s.req.holds[(7 : Fin 8)] = some { taken := posted 8 } ∧ s.req.holds[(2 : Fin 8)] = some { taken := posted 9 }) := by
  decide +kernel

theorem witness_DipsHoldAndLetGo :
    (run.live = true ∧ run.inDip = false ∧ (withSupply .dip run).inDip = true ∧ (withSupply .settle run).ctl.supply = .settle) ∧
    (let w := memWriteN (memWriteN [] 0x1100 [1]) 0x1120 [2]
     chanKind w 0 = .sender ∧ chanKind w 1 ≠ .sender) ∧ ptrUsed (pointerConfig 0) (0 : Fin 6) = true ∧
    (∀ st ∈ [PtrState.sweep, .follow, .return], st.moves = true) := by decide +kernel

theorem witness_ProvingCyclesEnd :
    let c : Proving := { kind := .request 7, timer := some 0, sweeps := [] }
    let s := proving c { run with req := { run.req with holds := run.req.holds.set 7 (some { taken := posted 8 }) } }
    (s.live = true ∧ s.ctl.proving = some c ∧ c.timer.isSome ∧ s.req.holds[(7 : Fin 8)] = some { taken := posted 8 }) ∧
    (proving { c with kind := .start, sweeps := [5] } (atOp .starting)).ctl.proving.isSome ∧
    memRead (memWriteN [] 0x1A0 (posted 8)) 0x1A0 = 1 ∧ memRead [(0x1A0, 2)] 0x1A0 = 2 ∧ run.ctl.proving = none ∧
    { run with chime := { run.chime with test := some 1 } }.chime.test.isSome ∧ run.chime.test = none := by decide +kernel

/-! ### Inputs and channels -/

theorem witness_ConversionsTakeTheCode :
    let w : Mem := memWriteN [] 0x1100 [1, 0]
    let s := configured w run
    let b : State := { s with conv := { s.conv with busy := some (7, 5) } }
    (s.unitsRun = true ∧ s.conv.busy = none ∧ (chanRec s.working 0).kind = .sender ∧
      (chanRec s.working 0).index = s.conv.pos.val) ∧ (∀ c : Fin 32, (chanRec run.working c).kind ≠ .sender) ∧
    (atOp .park).unitsRun = false ∧ b.conv.busy = some (7, 5) ∧ b.unitsRun = true := by decide +kernel

/-- An input with an edge and a reference at 1000, in a window of 100 ms from 2000. -/
def pulsing (edges freq : Nat) : PulseIn :=
  { lastEdge := some 1000, start := 2000, len := 100000, tref := some 1000, freq := freq, next := Edges.none
    win := { m := edges, first := 3000, last := 4000 } }

/-- Edges 19 and 20 µs after the last; at the last µs of a window and at its end; a zero timeout reached and not reached. -/
theorem witness_EdgesGiveTheFrequency :
    (run.ctl.op ≠ .init ∧ run.unitsRun = true ∧ (atOp .park).unitsRun = false ∧ fallingEdges run.working 0 = false) ∧
    (1019 - 1000 : Word).toNat < 20 ∧ 20 ≤ (1020 - 1000 : Word).toNat ∧ (101999 - 2000 : Word).toNat < 100000 ∧
    100000 ≤ (102000 - 2000 : Word).toNat ∧ PulseIn.reset.lastEdge = none ∧ PulseIn.reset.tref = none ∧
    PulseIn.reset.win.m = 0 ∧ (pulsing 1 5).tref = some 1000 ∧ (pulsing 1 5).win.m = 1 ∧ 2 ≤ (pulsing 2 5).win.m ∧
    (pulsing 0 5).win.m = 0 ∧ zeroTimeout run.working 0 = 2000000 ∧ 2000000 ≤ (2001000 - 1000 : Word).toNat ∧
    (2000999 - 1000 : Word).toNat < 2000000 := by decide +kernel

theorem witness_DiscreteSamplesAreDebounced :
    let x : Switch := { raw := false, deb := false, taken := true, count := 2 }
    let s : State := { run with sw := (run.sw.set 0 x).set 1 { x with count := 1 } }
    Memory.wf s.exch = true ∧ s.live = true ∧ s.unitsRun = true ∧ (atOp .park).unitsRun = false ∧ s.sw[(2 : Fin 8)].taken = false ∧
    debounceCount s.working 0 ≤ s.sw[(0 : Fin 8)].count + 1 ∧ ¬ debounceCount s.working 1 ≤ s.sw[(1 : Fin 8)].count + 1 ∧
    s.ign.on = false ∧ s.ign.count < 4 ∧ 4 ≤ { s.ign with count := 4 }.count ∧
    (State.reset.ctl.op = .init ∧ run.ctl.op ≠ .init ∧ (#v[none, some true, some false, none, none, none, none, none] : Pins)[0] = none ∧
      pullUp run.working 0 = false ∧ pullUp [(0x100F, 1)] 0 = true) ∧
    chanNames [(0x1100, 3), (0x1101, 0)] 0 .discrete 0 = true := by decide +kernel

/-- Channel 0, a sender, is that of pointer 0, of lamp 0, kind ABOVE, and its gate, of the dimming level and of the motion
detector; lamp 1, kind DRIVETIME, has neither channel nor gate. -/
def telling : Mem :=
  memWriteN (memWriteN (memWriteN (memWriteN (pointerConfig 0) 0x1B20 [6, 0, 0, 0, 0, 0xFF]) 0x1B00 [1, 0, 0, 0, 0, 0]) 0x1100 [1]) 0x1004 [1, 1]

theorem witness_consumersTold :
    let s : State := withPtr 0 (ptrIn .follow 3 0)
      (configured telling { run with chans := run.chans.set 0 { Chan.reset with quality := .good, value := 7 } })
    let q := (dipChan 0 s.toPart)
    (Memory.wf s.exch = true ∧ s.live = true ∧ s.inDip = false ∧ chanKind s.working 0 = .sender ∧ s.chans[(0 : Fin 32)].quality = .good ∧
      chanKind s.working 1 ≠ .sender) ∧
    (ptrUsed s.working (0 : Fin 6) = true ∧ (ptrRec s.working 0).chan = 0 ∧ s.ptrs[(0 : Fin 6)].state = .follow ∧
      ptrUsed s.working (1 : Fin 6) = false) ∧
    (let r := lampRec s.working 0
     r.kind.usesChannel = true ∧ r.chan = 0 ∧ lampUsed s.working 0 = true ∧ r.gate = some 0 ∧ conditionFrozen s.toPart 0 = false) ∧
    (let r := lampRec s.working 1
     r.kind = .drivetime ∧ r.kind.usesChannel = false ∧ r.gate = none) ∧ lampUsed s.working 2 = false ∧
    conditionFrozen { s with lampU := { s.lampU with frozen := true } }.toPart 0 = true ∧
    (dimmingChannel s.working = some 0 ∧ motionChannel s.working = some 0 ∧ s.channelsTake = true ∧
      (configured telling (atOp .park)).channelsTake = false ∧ dimmingChannel run.working = none ∧ motionChannel run.working = none) ∧
    (q.chans[(0 : Fin 32)].update = s.chans[(0 : Fin 32)].update + 1 ∧ q.chans[(1 : Fin 32)].update = s.chans[(1 : Fin 32)].update) ∧
    (∀ x ∈ [Quality.good, .held, .dip, .stale, .unset], ({ quality := x, value := 5 } : Result).quality = x) := by decide +kernel

/-- A sample that ends SPEED_LOST under a DRIVETIME lamp whose gate is the sampled channel, and under one without a gate; and
one that leaves SPEED_LOST as it was. -/
theorem witness_drivetimeLampsAreTold :
    let w := memWriteN (memWriteN (memWriteN speedometer 0x1004 [1]) 0x1B00 [6, 0, 0, 0, 0, 0, 0, 0, 5]) 0x1B20 [6, 0, 0, 0, 0, 0xFF, 0, 0, 5]
    let s (warnings : BitVec 6) : Part := { (configured w run).toPart with acct := { run.acct with warnings := warnings } }
    let lost (p : Part) : Bool := p.acct.warnings.getLsbD 5
    (lost (s 0x20) = true ∧ lost (sampleChan 177777 0 (s 0x20)) = false ∧ (s 0x20).ctl.restart = none) ∧
    (lost (s 0) = false ∧ lost (sampleChan 177777 0 (s 0)) = false) ∧
    (∀ i ∈ [(0 : Fin 32), 1], (lampRec w i).kind = .drivetime ∧ (lampRec w i).selector = 5 ∧ conditionFrozen (s 0x20) i = false) ∧
    (lampRec w 0).gate = some 0 ∧ (lampRec w 1).gate = none := by decide +kernel

/-- An ABOVE-hi, a below-lo and an in-range value at the ends of a range, a value beyond int32 on each side, and lo equal to hi.
-/
theorem witness_PlausibilityIsTested :
    let r := chanRec speedometer 0
    r.kind ≠ .sender ∧ scaleRaw speedometer r (-23) < r.lo ∧ (r.hi < scaleRaw speedometer r 333356) ∧
    scaleRaw speedometer r 333334 = r.hi ∧ scaleRaw speedometer r 0 = r.lo ∧
    (let w := memWriteN [] 0x1100 ([2, 0, 0, 0, 0, 1, 0, 0, 0, 0] ++ int32Bytes 2147483647 ++ int32Bytes 1)
     scaleRaw w (chanRec w 0) 2 ≥ 2 ^ 31 ∧ scaleRaw w (chanRec w 0) (-2) < -2 ^ 31 ∧ (chanRec w 0).lo = (chanRec w 0).hi) ∧
    (let w := memWriteN [] 0x1100 [1, 0, 0, 0, 0, 1, 20, 0, 0xE8, 3]
     (chanRec w 0).kind = .sender ∧ ((chanRec w 0).short : Int) < 21 ∧ (21 : Int) < (chanRec w 0).openCode) := by
  decide +kernel

theorem witness_SamplesSetTheQuality :
    let w := memWriteN [] 0x1100 [1, 0, 0, 0, 0, 2, 20, 0, 0xE8, 3]
    let r := chanRec w 0
    (r.kind = .sender ∧ (20 : Int) ≤ r.short ∧ (r.openCode : Int) ≤ 1000 ∧ ¬ (21 : Int) ≤ r.short ∧ ¬ (r.openCode : Int) ≤ 999) ∧
    min (0 + 1) r.persistence < r.persistence ∧ min (1 + 1) r.persistence = r.persistence ∧ r.curve = none ∧
    (chanRec (memWriteN [] 0x1100 [2, 0, 1, 7]) 0).curve = some 7 ∧
    strictlyAscending ([((80 : Int), (1000 : Int)), (240, 700)].map (·.1)) = true := by decide +kernel

theorem witness_InboxValuesAndAges :
    let w := memWriteN [] 0x1100 ([4, 6, 0, 0, 0, 1] ++ zeros 24 ++ [10, 0])
    let c : Chan := { Chan.reset with quality := .good, age := 1000 }
    let s := asked true (configured w { run with chans := run.chans.set 0 c })
    let slot (flag : Byte) : Mem := memWriteN [] 0x70 (withCheck [1, flag, 5, 0, 0, 0, 0])
    (Memory.wf s.exch = true ∧ s.live = true ∧ s.channelsTake = true ∧ s.req.pendingScan = some { periodic := true, time := 20 } ∧
      s.req.restartSlots = [] ∧ ∀ i : Fin 8, memRead s.mem (0xC0 + 32 * i.val) ≠ 1) ∧
    (let h := halted (holding [(8, 2), (0xC0, 1)] s)
     Memory.wf h.exch = true ∧ h.live = true ∧ h.req.halt = true ∧ noticeOn h.mem .check = true ∧ memRead h.mem 0xC0 = 1) ∧
    ((chanRec w 0).kind = .inbox ∧ (chanRec w 0).index = 6) ∧ (chanRec w 0).ageLimit * 100 < min 65535 (1000 + 20) ∧
    ¬ (chanRec w 0).ageLimit * 100 < min 65535 (980 + 20) ∧
    (∀ flag ∈ [(1 : Byte), 2, 3], byteAt (memReadN (slot flag) 0x70 8) 0 ≠ s.req.seen[(6 : Fin 16)] ∧
      byteAt (memReadN (slot flag) 0x70 8) 1 = flag ∧ xorBytes (memReadN (slot flag) 0x70 8) = 0) ∧
    (∀ notices ∈ [(0 : Byte), 2],
      let t := asked true (holding (memWriteN [(0x08, notices)] 0x70 ([1] ++ zeros 7 ++ [2])) (atOp .run))
      let slot (k : Fin 16) : List Byte := memReadN t.mem (0x40 + 8 * k.val) 8
      (List.finRange 16).filter (fun k => byteAt (slot k) 0 != t.req.seen[k] && xorBytes (slot k) != 0) = [6, 7] ∧
        noticeOn t.mem .check = (notices == 2) ∧ ∀ i : Fin 8, memRead t.mem (0xC0 + 32 * i.val) ≠ 1) := by decide +kernel

/-! ### Pointers -/

theorem witness_MotionTicksMoveThePointers :
    let w := pointerConfig 1
    let s (st : PtrState) (pos steps : Nat) : State := withPtr 0 (ptrIn st pos steps) (configured w run)
    (run.live = true ∧ run.inDip = false ∧ run.ctl.op ≠ .parking ∧ (withSupply .dip run).inDip = true ∧
      State.reset.live = false ∧ run.homeReqs = []) ∧
    ptrUsed w (0 : Fin 6) = true ∧ (ptrRec w 0).smax = 4 ∧ (s .homing 0 2).ptrs[(0 : Fin 6)].stepsLeft = 2 ∧
    (s .homing 0 1).ptrs[(0 : Fin 6)].stepsLeft ≤ 1 ∧
    (let x : Ptr := { ptrIn .sweep 99 0 with sweep := .out, target := 100, speed := 1 }
     let m := motionLaw x.pos x.target x.speed (ptrRec w 0).shift (ptrRec w 0).smax
     m = (100, 1) ∧ motionLaw 100 100 1 0 4 = (100, 0) ∧ (ptrRec w 0).travel = 100) ∧
    (∀ op ∈ [OpState.run, .starting, .parking],
      let h := withPtr 0 (ptrIn .homing 0 1) (configured w (atOp op))
      ∀ q ∈ { h with homeReqs := [{ slot := 3, left := [0] }] }.homeReqs, q.left ≠ []) ∧
    (∀ i : Fin 6, i ≠ 0 → ptrUsed w i = false) ∧ 1 ≤ (ptrRec w 0).travel ∧ (atOp .starting).ctl.proving = none ∧
    (let x : Ptr := { ptrIn .sweep 0 0 with sweep := .back }
     motionLaw x.pos x.target x.speed (ptrRec w 0).shift (ptrRec w 0).smax = (0, 0)) ∧
    (∀ c ∈ [Proving.mk .start none [0], .mk .start none [0, 1], .mk .start (some 0) [0]],
      (proving c (atOp .starting)).ctl.proving = some c ∧ c.kind = .start) ∧
    (let x : Ptr := { ptrIn .return 1 0 with speed := -1 }
     motionLaw x.pos x.target x.speed (ptrRec w 0).shift (ptrRec w 0).smax = (0, -1) ∧
       motionLaw 0 0 (-1) (ptrRec w 0).shift (ptrRec w 0).smax = (0, 0)) := by decide +kernel

theorem witness_HomingsEnd :
    let homing (w : Mem) (op : OpState) : State := withPtr 0 (ptrIn .homing 0 1) (configured w (atOp op))
    let two := memWriteN (pointerConfig 1) 0x1940 [1, 0, 2, 4, 0, 0, 0, 0, 100, 0]
    (∀ op ∈ [OpState.run, .starting, .parking], let s := homing (pointerConfig 0) op
      Memory.wf s.exch = true ∧ s.live = true ∧ s.inDip = false ∧ ptrUsed s.working (0 : Fin 6) = true ∧
      s.ptrs[(0 : Fin 6)].state = .homing ∧ s.homeReqs = [] ∧ s.ctl.proving = none ∧ s.ctl.op = op ∧
      (∀ j : Fin 6, j ≠ 0 → ptrUsed s.working j = false)) ∧
    (ptrRec two 0).sweep = true ∧ (ptrRec two 1).sweep = false ∧
    (let s := withPtr 1 (ptrIn .homing 0 9) (homing two .starting)
     ptrUsed s.working (1 : Fin 6) = true ∧ s.ptrs[(1 : Fin 6)].state = .homing) ∧
    (let s := withPtr 1 (ptrIn .return 1 0) (homing two .parking)
     s.ptrs[(1 : Fin 6)].pos ≠ 0) ∧
    (∀ p ∈ [ptrIn .return 0 0, ptrIn .released 0 0],
      let s := withPtr 1 p (homing two .parking)
      s.ctl.op = .parking ∧ s.ptrs[(1 : Fin 6)].pos = 0 ∧ s.ptrs[(1 : Fin 6)].speed = 0 ∧
        s.ptrs[(1 : Fin 6)].state ≠ .homing ∧ (homed s.toPart 0).state = .return) ∧
    ∀ op ∈ [OpState.run, .starting, .parking],
    (let q : HomeReq := { slot := 3, left := [0] }
     let b := homing two op
     let s : State := { b with
       homeReqs := [q, { slot := 4, left := [0, 1] }]
       req := { b.req with holds := b.req.holds.set 3 (some { taken := posted 9 }) } }
     q ∈ s.homeReqs ∧ q.left.filter (· != 0) = [] ∧ s.req.holds[(3 : Fin 8)] = some { taken := posted 9 } ∧
     [(0 : Fin 6), 1].filter (· != 0) ≠ []) := by decide +kernel

/-- A lamp that a proving cycle forces, one that is eligible in RUN, a park lamp in PARK, and one that is neither. -/
theorem witness_composedMode :
    let w := lampConfig 5 0 0x0C 0 0xFF
    let parked := lampConfig 5 0 0x18 0 0xFF
    (lampUsed w 0 = true ∧ (lampRec w 0).drive = true ∧ (lampRec w 0).prove = true ∧ (lampRec w 0).park = false ∧
      Lamp.reset.diag ≠ .short ∧ run.ctl.restart = none ∧ run.ctl.op = .run ∧ run.ctl.proving = none ∧ (atOp .park).ctl.op = .park ∧
      (proving { kind := .start, timer := none, sweeps := [] } (atOp .starting)).ctl.proving.isSome) ∧
    ((lampRec parked 0).park = true ∧ (lampRec parked 0).drive = true) ∧
    ∀ st ∈ [LampState.on, .acked, .latched, .off, .pending],
      (withLamp 0 (lampIn st) (configured w run)).lamps[(0 : Fin 32)].state = st := by decide +kernel

theorem witness_PeriodBoundariesApplyTheDuties :
    let s := withLamp 0 { Lamp.reset with mode := .fast } (withLamp 1 { Lamp.reset with mode := .slow } run)
    (run.inDip = false ∧ (withSupply .dip run).inDip = true ∧ State.reset.live = false ∧ run.live = true) ∧
    run.ptrs[(0 : Fin 6)].state = .released ∧ (ptrIn .follow 0 0).state ≠ .released ∧ s.lamps[(0 : Fin 32)].mode = .fast ∧
    s.lamps[(1 : Fin 32)].mode = .slow ∧ s.lampU.fastLit = true ∧ (dimmingChannel [(0x1005, 1)]).isSome ∧
    { s.lampU with dim := { quality := .good, value := 16 } }.dim.quality = .good ∧ s.lampU.dim.quality = .unset := by
  decide +kernel

/-! ### Lamps -/

theorem witness_InvalidAndSwitchConditions :
    ∀ k ∈ [(3 : Byte), 4],
      let s := configured (lampConfig k 0 0 0 0xFF) run
      lampUsed s.working 0 = true ∧ conditionFrozen s.toPart 0 = false ∧
      ((lampRec s.working 0).kind = .invalid ↔ k = 3) ∧ ((lampRec s.working 0).kind = .switch ↔ k = 4) := by decide +kernel

/-- ABOVE with its thresholds 10 and 5 at 10, 5 and 6; BELOW with 5 and 10 at 5, 10 and 9. -/
theorem witness_ConditionsFollowTheirKinds :
    (∀ k ∈ [(1 : Byte), 2, 5, 6, 7], let s := configured (lampConfig k 0 0 0 0xFF) run
      lampUsed s.working 0 = true ∧ conditionFrozen s.toPart 0 = false) ∧
    lampUsed run.working 0 = false ∧
    conditionFrozen (configured (lampConfig 1 0 0 0 0xFF) { run with lampU := { run.lampU with frozen := true } }).toPart 0 = true ∧
    (let r := lampRec (lampConfig 1 0 0 0 0xFF) 0
     r.kind = .above ∧ r.onAt ≤ 10 ∧ ((5 : Int) < r.onAt ∧ 5 ≤ r.offAt) ∧ ((6 : Int) < r.onAt ∧ r.offAt < 6)) ∧
    (let r := lampRec (memWriteN (lampConfig 2 0 0 0 0xFF) 0x1B0C (int32Bytes 5 ++ int32Bytes 10)) 0
     r.kind = .below ∧ 5 ≤ r.onAt ∧ (r.onAt < 10 ∧ r.offAt ≤ 10) ∧ (r.onAt < 9 ∧ (9 : Int) < r.offAt)) ∧
    (lampRec (lampConfig 5 0 0 0 0xFF) 0).kind = .request ∧ (lampRec (lampConfig 6 0 0 0 0xFF) 0).kind = .drivetime ∧
    (lampRec (lampConfig 7 0 0 0 0xFF) 0).kind = .lampfault := by decide +kernel

theorem witness_LampStatesMove :
    (∀ cls : Fin 3, let w := lampConfig 5 (BitVec.ofNat 8 cls) 2 1 0xFF
      let s := withLamp 0 { lampIn .pending with onDelay := some 1 } (configured w run)
      Memory.wf s.exch = true ∧ s.live = true ∧ lampUsed s.working 0 = true ∧ s.lamps[(0 : Fin 32)].state = .pending ∧
      s.lamps[(0 : Fin 32)].onDelay.isSome ∧ (lampRec w 0).cls.rank = cls.val ∧ (lampRec w 0).chime = true ∧
      0 < (lampRec w 0).onDelay ∧ s.chime.deferred = false ∧ s.chime.phase = .idle) ∧
    (lampRec (lampConfig 5 0 0 0 0xFF) 0).onDelay = 0 ∧ (lampRec (lampConfig 5 0 0 0 0xFF) 0).chime = false ∧
    { run.chime with phase := .tone 5 }.lastRepeat = false ∧ (atOp .park).chime.deferred = true ∧
    State.reset.live = false ∧ run.lamps[(0 : Fin 32)].state ≠ .pending ∧ (lampIn .pending).onDelay = none := by decide +kernel

/-- A full stack of messages of a class, those of the lamps 1 to 8. -/
def fullStack (cls : LampClass) (s : State) : State :=
  { s with panel := { s.panel with stack := [1, 2, 3, 4, 5, 6, 7, 8].map fun i => { lamp := i, cls := cls, shown := 0 } } }

/-- A message may be in any state; it meets room, a full stack of a lower class, and one of no lower class; where one leaves, no
other waits, or the lamps 3 and 5 do, of which 3 comes in. -/
theorem witness_messageFollows :
    let w := lampConfig 5 0 0 0 0
    ((lampRec w 0).text.isSome ∧ (lampRec (lampConfig 5 0 0 0 0xFF) 0).text = none ∧ (lampRec w 0).cls.rank = 0) ∧
    (∀ m ∈ [MsgState.none, .shown, .queued, .waiting, .dismissed], ∀ st ∈ [LampState.off, .pending, .on, .acked, .latched],
      let l := (withLamp 0 { lampIn st with msg := m } (configured w run)).lamps[(0 : Fin 32)]
      l.msg = m ∧ l.state = st) ∧
    run.panel.stack.length < 8 ∧
    (∀ cls ∈ [LampClass.red, .amber],
      let l := (fullStack cls run).panel.stack
      l = l.take 7 ++ [{ lamp := 8, cls := cls, shown := 0 }] ∧ 7 ≤ (l.take 7).length ∧ cls.rank ≤ 1) ∧
    (∀ j : Fin 32, run.lamps[j].msg ≠ .waiting) ∧
    (let s := withLamp 5 { lampIn .on with msg := .waiting } (withLamp 3 { lampIn .on with msg := .waiting } (configured w run))
     ∀ j : Fin 32, (s.lamps[j].msg = .waiting ↔ j = 3 ∨ j = 5) ∧ (lampRec s.working j).cls.rank = 0) := by decide +kernel

/-- A lamp that is ON and lit, with a low-current count. -/
def litLamp (low : Nat) : Lamp := { lampIn .on with mode := .steady, lit := true, lowCount := low }

/-- R136, R138: at a cycle's beginning a SHORT lamp that is ON is retried before it is forced on, so its mode leaves UNLIT and
the sense reading and the low-current count are cleared; one that was lit before keeps its count. -/
theorem test_shorts_are_retried_first :
    let s := withLamp 0 { lampIn .on with diag := .short, sense := .over, lowCount := 2 } (withLamp 1 (litLamp 2)
      (configured (memWriteN (lampConfig 5 0 0x0C 0 0xFF) 0x1B20 [5, 0, 0, 0x0C]) run))
    let t := provingStart (.request 0) s.toPart
    (t.lamps[(0 : Fin 32)].sense, t.lamps[(0 : Fin 32)].lowCount, t.lamps[(0 : Fin 32)].mode) = (.none, 0, .steady) ∧
    t.lamps[(1 : Fin 32)].lowCount = 2 := by decide +kernel

/-- R162, R165: entering PARK while MOVING with SPEED_LOST, both seat records are asked for before the summary, and it once. -/
theorem test_seats_before_the_summary :
    let s := seated { seatIn .driving 0 with identity := 7 } (inMotion run)
    let t := forceStopped { s.toPart with acct := { s.acct with warnings := 0x20 } }
    (t.arb.waiting.filterMap fun x => match x with | .write a _ => some a | _ => none).filter (fun a => 0x680 ≤ a && a < 0x720) =
      [0x6C0, 0x6A0, 0x680] := by decide +kernel

theorem witness_DiagnosesFollowTheCurrent :
    (∀ low ∈ [1, 2, 3], let s := withLamp 0 (litLamp low) (configured (lampConfig 5 0 8 0 0xFF) run)
      Memory.wf s.exch = true ∧ s.live = true ∧ s.inDip = false ∧ (lampRec s.working 0).kind ≠ .lampfault ∧
      s.lamps[(0 : Fin 32)].mode = composedMode s.toPart 0 ∧ s.lamps[(0 : Fin 32)].diag ≠ .short ∧
      s.lamps[(0 : Fin 32)].lit = true ∧ s.lamps[(0 : Fin 32)].lowCount = low ∧ s.lamps[(1 : Fin 32)].lit = false ∧
      s.lamps[(1 : Fin 32)].mode = composedMode s.toPart 1) ∧
    (1 : BitVec 32).getLsbD 0 = true ∧ (0 : BitVec 32).getLsbD 0 = false ∧ State.reset.live = false ∧
    (withSupply .dip run).inDip = true ∧ (litLamp 0).diag ≠ .open ∧
    (let s := withLamp 0 (litLamp 2) (configured (memWriteN (lampConfig 5 0 0x0C 0 0xFF) 0x1B20 [7, 0, 0, 0, 0, 0xFF]) run)
     let t := after (.senseCheck 1) s
     (lampRec s.working 1).kind = .lampfault ∧ conditionFrozen s.toPart 1 = false ∧
       t.lamps[(0 : Fin 32)].diag ≠ s.lamps[(0 : Fin 32)].diag ∧ t.lamps[(1 : Fin 32)].cond = true) := by decide +kernel

theorem witness_ChimePhasesEnd :
    let w := lampConfig 5 0 2 0 0xFF
    let s (ph : ChimePhase) (l : Lamp) : State := withLamp 0 l (configured w { run with chime := { run.chime with phase := ph } })
    (s (.tone 1) Lamp.reset).chime.phase = .tone 1 ∧ (s (.gap 1) Lamp.reset).chime.phase = .gap 1 ∧ run.chime.phase = .idle ∧
    (lampUsed w 0 = true ∧ (lampRec w 0).cls = .red ∧ (lampRec w 0).chime = true ∧
      (s (.gap 1) (lampIn .on)).lamps[(0 : Fin 32)].state = .on) ∧
    (s (.gap 1) { lampIn .on with owed := true }).lamps[(0 : Fin 32)].owed = true ∧
    (∀ i : Fin 32, (s (.gap 1) Lamp.reset).lamps[i].owed = false ∧ (s (.gap 1) Lamp.reset).lamps[i].state ≠ .on) := by
  decide +kernel

/-- A lamp that leaves ON, its demand the only one and not; one that enters ON, of each class, in each phase. -/
theorem witness_chimeFollows :
    (let s (served : List (Fin 32)) : State := withLamp 0 (lampIn .on)
      (configured (lampConfig 5 0 2 0 0xFF) { run with chime := { run.chime with phase := .tone 9, served := served } })
     (s [0]).lamps[(0 : Fin 32)].state = .on ∧ (s [0]).chime.phase = .tone 9 ∧ (s [0]).chime.served.filter (· != 0) = [] ∧
       (s [0, 1]).chime.served.filter (· != 0) ≠ [] ∧ (∀ j : Fin 32, j ≠ 0 → lampUsed (s [0]).working j = false)) ∧
    ∀ cls : Fin 3, ∀ ph ∈ [ChimePhase.idle, .tone 9, .gap 9], ∀ rep ∈ [true, false],
      let s := configured (lampConfig 5 (BitVec.ofNat 8 cls) 2 0 0xFF) { run with chime := { run.chime with phase := ph, lastRepeat := rep } }
      lampUsed s.working 0 = true ∧ (lampRec s.working 0).chime = true ∧ (lampRec s.working 0).cls.rank = cls.val ∧
        s.chime.deferred = false ∧ s.lamps[(0 : Fin 32)].state ≠ .on ∧ s.chime.phase = ph ∧ s.chime.lastRepeat = rep := by
  decide +kernel

/-! ### Accounting, journal and panel -/

/-- Rests that reach the partial, the full and the daily rest at this tick, and one that reaches none. -/
theorem witness_SecondTicksCount :
    let n (span : Nat) : Nat := min ((seatIn .rest span).span + 1) (2 ^ 32 - 1)
    let w := memWriteN [] 0x1100 [5, 7]
    State.reset.ctl.op = .init ∧ (Memory.wf run.exch = true ∧ run.ctl.op ≠ .init) ∧ getSeat run.acct .one = none ∧
    (run.acct.seat1 = none ∧ run.acct.seat2 = none ∧ (seated (seatIn .work 0) run).acct.seat1 = some (seatIn .work 0) ∧
      { run.acct with seat2 := some (seatIn .rest 0) }.seat2 = some (seatIn .rest 0)) ∧
    (run.ctl.restart = none ∧ (inRestart .reset run).ctl.restart.isSome) ∧
    (let t := after .secondTick (seated { seatIn .driving 0 with cdt := 16200, ddt := 16200 } run)
     t.acct.warnings.getLsbD 1 = true ∧ run.acct.warnings.getLsbD 1 = false ∧ entryKind t.mem 0 = 9) ∧
    (∀ a ∈ [Activity.rest, .available, .work, .driving],
      getSeat (seated (seatIn a 0) run).acct .one = some (seatIn a 0) ∧ (seatIn a 0).effective = a) ∧
    (n 1799 = split2 [] * 60 ∧ (seatIn .rest 1799).split = true) ∧ n 2699 = fullBreak [] * 60 ∧ n 39599 = dailyRest [] * 60 ∧
    n 4294967295 = 4294967295 ∧
    (configured w run).channelsTake = true ∧ chanKind w 0 = .account ∧ (chanRec w 0).index = 7 ∧
    (chanRec (memWriteN [] 0x1100 [5, 8]) 0).index = 8 := by decide +kernel

theorem witness_MotionIsConfirmed :
    let w : Mem := [(0x1004, 32)]
    let c : Confirm := { toMoving := true, left := 5, paused := false }
    let s : State := { run with acct := { run.acct with confirm := some c } }
    motionChannel w = some 31 ∧ motionChannel run.working = none ∧ (configured w run).channelsTake = true ∧
    (motionThreshold w : Int) < 301 ∧ ¬ (motionThreshold w : Int) < 300 ∧ s.acct.confirm = some c ∧ c.paused = false ∧
    run.acct.confirm = none ∧ (inMotion run).acct.moving = true ∧ Memory.wf s.exch = true ∧ s.live = true ∧
    getSeat (seated (seatIn .work 0) s).acct .one = some (seatIn .work 0) ∧ State.reset.live = false ∧
    (let x := seatIn .rest 900
     getSeat (seated x s).acct .one = some x ∧ x.effective = .rest ∧ effectiveOf .one true x.selected ≠ .rest) ∧
    (let x : Seat := { seatIn .driving 0 with selected := .rest }
     getSeat (seated x s).acct .one = some x ∧ x.effective ≠ .rest ∧ effectiveOf .one false x.selected = .rest) := by
  decide +kernel

theorem witness_JournalTakesSubmissions :
    State.reset.ctl.op = .init ∧ (Memory.wf run.exch = true ∧ run.ctl.op ≠ .init) ∧
    (let j : Journal := { wm := 63, rm := 1, seq := 0xFFFF, lost := 0 }
     j.wm + 1 ≠ j.rm) ∧
    (let j : Journal := { wm := 63, rm := 0, seq := 0, lost := 0xFFFF }
     j.wm + 1 = j.rm ∧ j.lost = 0xFFFF) ∧ run.jour.lost ≠ 0xFFFF := by decide +kernel

/-- A lamp's message on the stack of a part in RUN, with master and overlay enabled. -/
def showing (cls : LampClass) (shown : Nat) : State :=
  { withLamp 0 { lampIn .on with msg := .shown } (configured (memWriteN (lampConfig 5 (BitVec.ofNat 8 cls.rank) 0 0 0) 0x1009 [5]) run)
    with panel := { run.panel with stack := [{ lamp := 0, cls := cls, shown := shown }] } }

theorem witness_PanelRefreshesComposeTheImage :
    State.reset.live = false ∧ (run.live = true ∧ run.inDip = false ∧ (withSupply .dip run).inDip = true ∧ Memory.wf run.exch = true) ∧
    overlayTop run.toPart = none ∧
    (∀ cls ∈ [LampClass.red, .amber, .info],
      (showing cls 79).live = true ∧ overlayTop (showing cls 79).toPart = some { lamp := 0, cls := cls, shown := 79 } ∧
      Memory.wf (showing cls 79).exch = true ∧ (∀ i : Fin 32, (showing cls 79).lamps[i].msg ≠ .waiting)) ∧
    displayLimit (showing .amber 79).working ≤ 79 + 1 ∧ ¬ displayLimit (showing .amber 78).working ≤ 78 + 1 ∧
    (overlayTop (showing .info 80).toPart = some { lamp := 0, cls := .info, shown := 80 } ∧
      displayLimit (showing .info 80).working ≤ 80 ∧ 79 < displayLimit (showing .info 79).working) ∧
    (let f := composeFrame run.toPart
     let s : State := { run with panel := { run.panel with lastSent := some f, sinceSend := 9 } }
     s.panel.lastSent = some f ∧ 9 ≤ s.panel.sinceSend ∧ ¬ 9 ≤ run.panel.sinceSend ∧ run.panel.lastSent ≠ some f) ∧
    run.lineActive = false ∧ { run with ctl := { run.ctl with strap := true } }.lineActive = true := by decide +kernel

theorem witness_ImagesHoldCodesAlone :
    (gByte run.working 9).testBit 0 = false ∧
    readSource (.chan 0) run.toPart = none ∧
    (let s : State := { run with chans := run.chans.set 0 { Chan.reset with quality := .good, value := 7999 } }
     readSource (.chan 0) s.toPart = some 7999) ∧
    (fieldString .dec2 7999).map (·.length) = some 5 ∧ fieldString .activity 4 = none ∧ (599 : Int).natAbs < 600 ∧
    600 ≤ (-600 : Int).natAbs := by decide +kernel

/-- Fields of page 0 over the cells 20 to 23, over the cells 22 to 27 and over the cell 0. -/
def covered : Mem := memWriteN [(0x1009, 3)] 0x1F58 [1, 0, 4, 31, 0, 1, 2, 6, 0x47, 5, 0, 0, 1, 0x80, 3]

theorem witness_composedCells :
    (∀ cls ∈ [LampClass.red, .amber, .info], let p := (showing cls 0).toPart
      overlayTop p = some { lamp := 0, cls := cls, shown := 0 } ∧ (lampRec p.working 0).text = some 0 ∧
      ((gByte p.working 9).testBit 0 = true ∧ (gByte p.working 9).testBit 1 = false)) ∧
    (let p := (configured covered run).toPart
     overlayTop p = none ∧ ((gByte p.working 9).testBit 0 = true ∧ (gByte p.working 9).testBit 1 = true) ∧
       pageShown p = some 0) ∧
    (let p := (configured covered (atOp .park)).toPart
     (p.ctl.op = .park ∧ gByte p.working 7 = 0) ∧ pageShown p = none) ∧
    0 < gByte [(0x1007, 12)] 7 ∧
    (let b (n k : Nat) : Nat := (memRead covered (0x1F58 + 5 * n + k)).toNat
     let covers (n k : Nat) : Prop := 20 * b n 0 + b n 1 ≤ k ∧ k < 20 * b n 0 + b n 1 + b n 2
     (covers 0 20 ∧ ¬ covers 1 20) ∧ (covers 0 22 ∧ covers 1 22) ∧ (∀ m < 8, 1 < m → ¬ covers m 22) ∧
       (∀ n < 8, ¬ covers n 79) ∧ b 0 3 = 31 ∧ b 1 3 = 0x47 ∧ b 2 3 = 0x80 ∧ b 0 4 = 0 ∧ b 1 4 = 5) := by decide +kernel

/-! ### Validation -/

/-- A configuration that passes, and one whose first failing check stands in each table. -/
theorem witness_ValidationFindsTheFirstFailingCheck :
    validate (lampConfig 5 0 0 0 0xFF) = none ∧
    (∀ x ∈ [([(0x1001, 3)], 1, 0, 1), ([(0x1004, 33)], 1, 0, 2), ([(0x1008, 61)], 1, 0, 1), ([(0x1018, 3), (0x101C, 1)], 1, 0, 3),
        ([(0x1050, 61)], 2, 0, 1), ([(0x1048, 1)], 2, 0, 4), ([(0x1100, 6)], 3, 0, 2), ([(0x1120, 1), (0x1121, 8)], 3, 1, 2),
        ([(0x1500, 1)], 4, 0, 8), ([(0x1900, 1)], 5, 0, 10), ([(0x1B00, 8)], 6, 0, 1), ([(0x1F5A, 11)], 7, 0, 14)],
      let w : Mem := x.1
      (validate w).map (fun f => (f.table, f.index, f.reason.code)) = some x.2) ∧
    readByte [(0x1100, 1)] 0x1100 ≠ 0 ∧ readByte [] 0x1100 = 0 ∧ readByte [] 0x1500 = 0 ∧ ptrUsed [] 0 = false ∧
    readByte [] 0x1B00 = 0 := by decide +kernel

/-! ### What steps keep -/

/-- A step from a state at which laws are tested. -/
def stepping (s : State) : State := { s with pending := [.motionTick] }

theorem steps (s : State) : ∃ t, step (stepping s) = .next t := ⟨_, rfl⟩

theorem witness_StepsKeepTheMemoriesCanonical : MemoriesCanonical (committing 376 [(0x1001, 2)] run).toPart := by
  unfold MemoriesCanonical
  refine ⟨by decide +kernel, by decide +kernel, fun c h => ?_⟩
  obtain rfl : { copied := 376, staging := [(0x1001, 2)] } = c := by simpa [committing] using h
  decide +kernel

theorem witness_StepsKeepTheControlLaw : ControlLaw (proving { kind := .request 0, timer := some 1, sweeps := [] } run).toPart := by
  unfold ControlLaw
  refine ⟨by decide +kernel, by decide +kernel, by decide +kernel, by decide +kernel, fun c h => ?_⟩
  obtain rfl : { kind := .request 0, timer := some 1, sweeps := [] } = c := by simpa [proving] using h
  rfl

/-- A tone that serves the owed demand of lamp 0. -/
theorem witness_StepsKeepTheChimeLaw :
    let s := withLamp 0 { lampIn .on with owed := true }
      { run with chime := { run.chime with phase := .tone 9, served := [0] } }
    ChimeLaw s.toPart ∧ s.chimeSounds = true := by
  refine ⟨?_, by decide +kernel⟩
  unfold ChimeLaw
  exact ⟨by decide +kernel, by decide +kernel, fun _ _ => .inr (by decide +kernel), by decide +kernel, by decide +kernel,
    by decide +kernel⟩

theorem witness_StepsKeepThePointersWithinTravel :
    PointersWithinTravel (withPtr 0 (ptrIn .follow 100 0) (configured (pointerConfig 0) run)).toPart := by
  unfold PointersWithinTravel
  decide +kernel

theorem witness_StepsKeepTheStackLaw : StackLaw (showing .amber 79).toPart := by
  unfold StackLaw
  decide +kernel

theorem witness_StepsKeepTheChannelsWithinRange :
    let s := configured speedometer { run with chans := run.chans.set 0 { Chan.reset with quality := .good, acc := 60003, value := 15000 } }
    ChannelsWithinRange s.toPart ∧ s.chans[(0 : Fin 32)].quality = .good := by
  unfold ChannelsWithinRange
  decide +kernel

/-- With no access waiting, and with one of each kind that a block may ask for. -/
theorem witness_WaitingLaw :
    WaitingLaw run.toPart ∧
    WaitingLaw { run.toPart with arb := { run.arb with waiting :=
      [.write 0xC0 (posted 8), .notice .reply, .checkFailure 1 3 (zeros 8), .answer 7 (posted 1)] } } := by
  simp only [WaitingLaw]
  refine ⟨fun x h => absurd h (by simp [run, atOp, State.reset, Part.reset, Arbiter.reset]), fun x h => ?_⟩
  simp only [List.mem_cons, List.not_mem_nil, or_false] at h
  rcases h with rfl | rfl | rfl | rfl
  · exact .inr ⟨0, by decide +kernel⟩
  · trivial
  · exact .inl (by decide +kernel)
  · exact (by decide +kernel : 1 ≤ (posted 1).length ∧ (posted 1).length ≤ 32)

theorem witness_StepsKeepTheJournalLaw :
    let s := after .powerOn State.reset
    Memory.wf s.exch = true ∧ s.arb.waiting = [] ∧ JournalLaw s.toPart ∧ unread s.jour 0 := by
  simp only [JournalLaw, unread]
  decide +kernel

theorem witness_StepsKeepTheRecordsShown : Memory.wf run.exch = true ∧ HeaderShows run.toPart ∧ RecordsShow run.toPart := by
  simp only [HeaderShows, RecordsShow, recordShows, controlRecordShows]
  refine ⟨by decide +kernel, by decide +kernel, by decide +kernel, by decide +kernel, by decide +kernel, by decide +kernel, fun id => ?_⟩
  cases id <;> decide +kernel

theorem witness_HostBytesChangeOverTheLinkAlone :
    Memory.wf run.exch = true ∧ run.ctl.op ≠ .init ∧ run.ctl.access ≠ .opened ∧ Instr.resetAssert ≠ .powerOn ∧
    Instr.resetAssert ≠ .commitEnd ∧ ¬ linkCommand .resetAssert ∧ ∃ t, exec .resetAssert run = .next t :=
  ⟨by decide +kernel, by decide +kernel, by decide +kernel, by decide, by decide, fun h => h, _, rfl⟩

theorem witness_StepsMoveTheOperatingStateLawfully :
    ControlLaw (ignited run).toPart ∧ (exec .ignFall (ignited run) = .next (after .ignFall (ignited run))) ∧
    (after .ignFall (ignited run)).ctl.op = .park := by
  refine ⟨?_, rfl, by decide +kernel⟩
  unfold ControlLaw
  exact ⟨by decide +kernel, by decide +kernel, by decide +kernel, by decide +kernel, fun c h => by cases h⟩

end Sys2Proof.Tests
end

/-! # Proofs: what a command does to the part

Every command's meaning, said once as a function of the part alone, and what keeps a property through any command. -/

section
namespace Sys2Proof.Machine

/-! ## Every command as a function of the part -/

/-- What each command makes of the part (`exec_eq`). -/
def execPart : Instr → Part → Part
  | .powerOn, p => powerOn p
  | .initEnd strap ign belowDip now, p => initEnd strap ign belowDip now p
  | .selAssert, p => selAssert p
  | .readCommand, p => commandByte (.addressHigh false) p
  | .writeCommand, p => commandByte (.addressHigh true) p
  | .ignore b, p => commandByte (afterCommand b) p
  | .addressHigh b, p => addressHigh b p
  | .addressLow b, p => addressLow b p
  | .dataRead, p => dataRead p
  | .dataWrite v, p => dataWrite v p
  | .selRelease, p => selRelease p
  | .keyArm, p => registerWrite keyAddr 0xC3 p
  | .keyCommit, p => registerWrite keyAddr 0x96 p
  | .keyOther v, p => registerWrite keyAddr v p
  | .prompt v, p => registerWrite promptAddr v p
  | .noticeClear high v, p => registerWrite (if high then noticeAddr + 1 else noticeAddr) v p
  | .noticeMaskWrite high v, p => registerWrite (if high then maskAddr + 1 else maskAddr) v p
  | .readMarkWrite v, p => registerWrite readMarkAddr v p
  | .scanTimerExpiry, p => onlyIf p.live scanTimerExpiry p
  | .exchangeScan, p => onlyIf p.live exchangeScan p
  | .setActivity i seat act, p => shortRow i kindSetActivity [seat, act] (setActivity seat act) p
  | .cardIn i seat flags card cdt ddt, p =>
    shortRow i kindCardIn (seat :: flags :: (identityBytes card ++ leBytes 2 cdt.toNat ++ leBytes 2 ddt.toNat))
      (cardIn seat flags card cdt ddt) p
  | .cardOut i seat, p => shortRow i kindCardOut [seat] (cardOut seat) p
  | .swapSeats i, p => shortRow i kindSwapSeats [] swapSeats p
  | .setTime i clock, p => shortRow i kindSetTime (leBytes 4 clock.toNat) (fun q => accept (setTime clock q)) p
  | .ackLamp i which, p => shortRow i kindAckLamp [which] (ackLamp which) p
  | .setLamp i lamp value, p => shortRow i kindSetLamp [lamp, value] (setLampRequest lamp value) p
  | .prove i, p => longRow i kindProve [] (prove i) p
  | .homePointer i which, p => longRow i kindHomePointer [which] (fun t => homePointer i t which) p
  | .showPage i page, p => shortRow i kindShowPage [page] (showPage page) p
  | .snapshot i page, p => shortRow i kindSnapshot [page] (snapshot page) p
  | .restart i, p => longRow i kindRestart [] (fun t q => handRestarts (restartRequest i t q)) p
  | .resetAssert, p => onlyIf (!p.ctl.resetLine) (levelChange (fun c => { c with resetLine := true }) true .reset) p
  | .resetRelease, p => onlyIf p.ctl.resetLine (levelChange (fun c => { c with resetLine := false }) false .reset) p
  | .supplyBelowReset, p => onlyIf (!p.ctl.supplyLow) (levelChange (fun c => { c with supplyLow := true }) true .supply) p
  | .supplyAboveReset, p => onlyIf p.ctl.supplyLow (levelChange (fun c => { c with supplyLow := false }) false .supply) p
  | .restartEnd strap ign belowDip now, p => restartEnd strap ign belowDip now p
  | .ignRise now, p => onlyIf p.live (fun q => ignChange true (setFree now q)) p
  | .ignFall, p => onlyIf p.live (ignChange false) p
  | .parkEntry, p => onlyIf p.live parkCheck p
  | .commitEnd, p => onlyIf p.live commitEnd p
  | .dipStart, p => onlyIf (p.live && !p.inDip) dipStart p
  | .recovery, p => onlyIf (p.live && p.inDip) recovery p
  | .settleTimerExpiry, p => onlyIf (p.live && p.ctl.supply == .settle) settleEnd p
  | .provingTimerExpiry, p => onlyIf p.live provingTimerExpiry p
  | .testToneEnd, p => onlyIf p.chime.test.isSome stopTestTone p
  | .conversionSlot level, p => onlyIf (p.unitsRun && p.conv.busy.isNone) (conversionSlot level) p
  | .conversionComplete, p => onlyIf p.unitsRun conversionComplete p
  | .pulseEdge i rising now, p => pulseEdge i rising now p
  | .windowEnd i, p => onlyIf p.unitsRun (windowEnd i) p
  | .discreteSample ign pins now, p => onlyIf p.live (discreteSample ign pins now) p
  | .switchChange i state, p => onlyIf p.unitsRun (switchChange i state) p
  | .motionTick, p => onlyIf p.live motionTick p
  | .homingEnd i, p => onlyIf p.live (homingEnds i) p
  | .coilPeriodBoundary, p => coilBoundary p
  | .onDelayExpiry i, p => onlyIf p.live (onDelayExpiry i) p
  | .flashPhaseChange fast, p => onlyIf p.live (flashChange fast) p
  | .lampPeriodBoundary, p => lampBoundary p
  | .senseCheck low, p => onlyIf p.live (senseCheck low) p
  | .overcurrent i, p => onlyIf p.live (overcurrent i) p
  | .chimeToneEnd, p => chimeToneEnd p
  | .chimeGapEnd, p => chimeGapEnd p
  | .secondTick, p => onlyIf (p.ctl.op != .init) (fun q => grantUnlessLive (secondTick q)) p
  | .confirmTimerExpiry, p => onlyIf p.live confirmExpiry p
  | .journalSubmission sub, p => onlyIf (p.ctl.op != .init) (fun q => grantUnlessLive (submit sub q)) p
  | .panelRefresh, p => onlyIf p.live panelRefresh p
  | .messageDisplayTimeout, p => onlyIf (p.live && !p.inDip) displayTimeout p

/-- Every command ends in a next state: the part as `execPart` makes it, the queue as it was. -/
theorem exec_eq (c : Instr) (s : State) : exec c s = .next { s with toPart := execPart c s.toPart } := by
  cases c <;> rfl

theorem exec_next {c : Instr} {s t : State} (h : exec c s = .next t) : t = { s with toPart := execPart c s.toPart } := by
  rw [exec_eq] at h
  exact (Host.Outcome.next.inj h).symm

/-- A step runs the command at the front of the queue on the part, or lets a microsecond pass. -/
theorem step_part {s t : State} (h : step s = .next t) :
    (∃ c, t.toPart = execPart c s.toPart) ∨ t.toPart = idleStep s.toPart := by
  unfold step at h
  split at h
  · exact .inr (congrArg State.toPart (Host.Outcome.next.inj h).symm)
  · exact .inl ⟨_, congrArg State.toPart (exec_next h)⟩

end Sys2Proof.Machine
end

section
namespace Sys2Proof.Machine

variable {P : Part → Prop} {p : Part}

/-- `onlyIf_closed` of a part that is known. -/
theorem onlyIf_keeps {f : Part → Part} (c : Bool) (hf : P (f p)) (hp : P p) : P (onlyIf c f p) := ite_closed hf hp

end Sys2Proof.Machine
end

section
namespace Sys2Proof.Machine

variable {P : Part → Prop} {p : Part}

/-! ## What keeps the records shown

The operations of the model in the form of Closed.lean, under finer primitives: a running state whose record shows it changes
together with the rewrite of its record. A property closed under these may say what the records show (`Shows`), and may say of
the working configuration, or of the life of the part, that it is as it was. -/

/-- One record access's worth of the diagnostic window, the panel mirror and the journal's entries, which show no running state. -/
def asideRecord (a n : Nat) : Prop := 1 ≤ n ∧ n ≤ 32 ∧ ((0x200 ≤ a ∧ a + n ≤ 0x300) ∨ (0x780 ≤ a ∧ a + n ≤ 0x1000))

/-- One record access's worth of the identity copy, the commit result and the scan count. -/
def headRecord (a n : Nat) : Prop := 1 ≤ n ∧ n ≤ 32 ∧ (a + n ≤ 0x02 ∨ (0x04 ≤ a ∧ a + n ≤ 0x08) ∨ (0x0C ≤ a ∧ a + n ≤ 0x0E))

theorem asideRecord_own {a n : Nat} (h : asideRecord a n) : ownRecord a n := by
  obtain ⟨h1, h2, h3⟩ := h
  unfold ownRecord
  omega

theorem headRecord_own {a n : Nat} (h : headRecord a n) : ownRecord a n := by
  obtain ⟨h1, h2, h3⟩ := h
  unfold ownRecord
  omega

/-- Closed under the record accesses of the units that rewrite no shown record. -/
structure ShowsMem (P : Part → Prop) : Prop where
  aside : ∀ p a bs, asideRecord a bs.length → P p → P (p.store a bs)
  notice : ∀ p n, n ≠ .check → P p → P (setNotice n p)

/-- Closed under what the Journal does: the control record follows its four quantities. -/
structure ShowsJournal (P : Part → Prop) : Prop extends ShowsMem P where
  jour : ∀ p x, P p → P (writeJournalControl { p with jour := x })

/-- Closed under what the Lamp Unit, the chime and the Panel Unit do. -/
structure ShowsLamps (P : Part → Prop) : Prop extends ShowsMem P where
  lamp : ∀ p i f, lampBody (f p.lamps[i]) = lampBody p.lamps[i] → P p → P (setLamp i f p)
  lampShown : ∀ p i f, P p → P (rewriteLamp i (setLamp i f p))
  lampsShown : ∀ p v, P p → P (forEach allLamps rewriteLamp { p with lamps := v })
  lampU : ∀ p x, P p → P { p with lampU := x }
  chime : ∀ p x, P p → P { p with chime := x }
  panel : ∀ p x, P p → P { p with panel := x }

/-- Closed under what the Pointer Unit does. -/
structure ShowsPtrs (P : Part → Prop) : Prop extends ShowsMem P where
  ptr : ∀ p i f, ptrBody (f p.ptrs[i]) = ptrBody p.ptrs[i] → P p → P (setPtr i f p)
  ptrShown : ∀ p i f, P p → P (rewritePtr i (setPtr i f p))

/-- Closed under what the Channel Table does, and under what its consumers but the motion detector do. -/
structure ShowsChans (P : Part → Prop) : Prop extends ShowsLamps P, ShowsPtrs P where
  chan : ∀ p c f, chanBody (f p.chans[c]) = chanBody p.chans[c] → P p → P (setChan c f p)
  chanShown : ∀ p c f, P p → P (rewriteChan c (setChan c f p))

/-! ### The Journal -/

/-- R8: a run asks for record accesses of 1 to 32 bytes, each within the long record. -/
theorem storeRun_keeps {a : Nat} {bs : List Byte} (h : ∀ (q : Part) (b : Nat) (cs : List Byte), 1 ≤ cs.length → cs.length ≤ 32 → a ≤ b →
    b + cs.length ≤ a + bs.length → P q → P (q.store b cs)) (hp : P p) : P (p.storeRun a bs) := by
  have run : ∀ (xs : List Piece) (q : Part), (∀ x ∈ xs, 1 ≤ x.bytes.length ∧ x.bytes.length ≤ 32 ∧ a ≤ x.addr ∧
      x.addr + x.bytes.length ≤ a + bs.length) → P q → P (xs.foldl (fun q x => q.store x.addr x.bytes) q) := by
    intro xs
    induction xs with
    | nil => intro q _ hq; exact hq
    | cons x xs ih =>
      intro q hx hq
      obtain ⟨⟨h1, h2, h3, h4⟩, hx⟩ := List.forall_mem_cons.1 hx
      exact ih _ hx (h q _ _ h1 h2 h3 h4 hq)
  exact run _ p (pieces_within _ a bs rfl) hp

theorem storeRun_shows (h : ShowsMem P) (a : Nat) (bs : List Byte)
    (hb : (0x200 ≤ a ∧ a + bs.length ≤ 0x300) ∨ (0x780 ≤ a ∧ a + bs.length ≤ 0x1000)) (hp : P p) : P (p.storeRun a bs) :=
  storeRun_keeps (fun q b cs h1 h2 h3 h4 hq => h.aside q b cs (by unfold asideRecord; omega) hq) hp

theorem recordEntry_shows (h : ShowsJournal P) (b : EntryBody) (lost : Half) (hb : b.data.length ≤ 23) (hp : P p) :
    P (recordEntry b lost p) := by
  have hs := h.aside p (journalEntryAddr p.jour.wm) (entryBytes p.jour.seq p.acct.clock p.acct.timeValid b) (by
    rw [entryBytes_length _ _ _ _ hb]
    have := p.jour.wm.isLt
    simp only [asideRecord, journalEntryAddr]; omega) hp
  exact h.jour _ _ hs

theorem writeEntry_shows (h : ShowsJournal P) (b : EntryBody) (lost : Half) (hb : b.data.length ≤ 23) (hp : P p) :
    P (writeEntry b lost p) := h.notice _ _ nofun (recordEntry_shows h b lost hb hp)

theorem loseEntry_shows (h : ShowsJournal P) (hp : P p) : P (loseEntry p) := h.notice _ _ nofun (h.jour _ _ hp)

theorem submit_shows (h : ShowsJournal P) (sub : Submission) (hp : P p) : P (submit sub p) :=
  ite_closed (writeEntry_shows h _ _ (entryBody_length sub) hp) (loseEntry_shows h hp)

theorem writeGap_shows (h : ShowsJournal P) (hp : P p) : P (writeGap p) :=
  ite_closed (writeEntry_shows h _ _ (by simp [gapBody]) hp) hp

/-! ### The chime -/

/-- A change that keeps what the lamp's record shows. -/
theorem setLamp_shows (h : ShowsLamps P) (i : Fin 32) (f : Lamp → Lamp) (hp : P p)
    (hf : ∀ l, lampBody (f l) = lampBody l := by exact fun _ => rfl) : P (setLamp i f p) := h.lamp _ _ _ (hf _) hp

theorem updLamp_shows (h : ShowsLamps P) (i : Fin 32) (f : Lamp → Lamp) (hp : P p) : P (updLamp i f p) := by
  unfold updLamp onlyIf
  dsimp only
  split
  next => exact h.lampShown _ _ _ hp
  next hb =>
    exact h.lamp _ _ _ (by simpa only [setLamp_lamps, updAt_self, bne_iff_ne, ne_eq, not_not] using hb) hp

theorem setChime_shows (h : ShowsLamps P) (f : Chime → Chime) (hp : P p) : P (setChime f p) := h.chime _ _ hp

theorem startTestTone_shows (h : ShowsLamps P) (hp : P p) : P (startTestTone p) := setChime_shows h _ hp
theorem stopTestTone_shows (h : ShowsLamps P) (hp : P p) : P (stopTestTone p) := setChime_shows h _ hp
theorem muteTestTone_shows (h : ShowsLamps P) (hp : P p) : P (muteTestTone p) := setChime_shows h _ hp

theorem satisfyServed_shows (h : ShowsLamps P) (hp : P p) : P (satisfyServed p) :=
  setChime_shows h _ (forEach_closed (fun i _ hq => setLamp_shows h i _ hq) _ hp)

theorem startTone_shows (h : ShowsLamps P) (hp : P p) : P (startTone p) := setChime_shows h _ hp

theorem chimeIdle_shows (h : ShowsLamps P) (hp : P p) : P (chimeIdle p) :=
  ite_closed (startTone_shows h (setChime_shows h _ hp)) (setChime_shows h _ hp)

theorem chimeDemand_shows (h : ShowsLamps P) (i : Fin 32) (hp : P p) : P (chimeDemand i p) := by
  unfold chimeDemand
  refine ite_closed hp ?_
  split
  next => exact chimeIdle_shows h hp
  next => exact ite_closed (startTone_shows h (satisfyServed_shows h hp)) hp
  next => exact ite_closed (startTone_shows h hp) hp

theorem chimeWithdraw_shows (h : ShowsLamps P) (i : Fin 32) (hp : P p) : P (chimeWithdraw i p) := by
  have hq := setChime_shows h (fun c => { c with served := c.served.filter (· != i) })
    (setLamp_shows h i (fun l => { l with owed := false }) hp)
  unfold chimeWithdraw
  dsimp only
  split
  next => exact ite_closed (setChime_shows h _ hq) hq
  next => exact hq

theorem chimeStop_shows (h : ShowsLamps P) (hp : P p) : P (chimeStop p) := by
  unfold chimeStop
  refine setChime_shows h _ ?_
  split
  next => exact satisfyServed_shows h hp
  next => exact hp

theorem chimeSync_shows (h : ShowsLamps P) (hp : P p) : P (chimeSync p) :=
  ite_closed (chimeIdle_shows h (setChime_shows h _ hp)) (ite_closed (chimeStop_shows h hp) hp)

theorem chimeToneEnd_shows (h : ShowsLamps P) (hp : P p) : P (chimeToneEnd p) := by
  unfold chimeToneEnd
  split
  next => exact setChime_shows h _ (satisfyServed_shows h hp)
  next => exact hp

theorem chimeGapEnd_shows (h : ShowsLamps P) (hp : P p) : P (chimeGapEnd p) := by
  unfold chimeGapEnd
  split
  next => exact chimeIdle_shows h hp
  next => exact hp

/-! ### The Panel Unit -/

theorem setPanel_shows (h : ShowsLamps P) (f : Panel → Panel) (hp : P p) : P (setPanel f p) := h.panel _ _ hp

theorem setMsg_shows (h : ShowsLamps P) (i : Fin 32) (m : MsgState) (hp : P p) : P (setMsg i m p) := updLamp_shows h i _ hp

theorem syncShown_shows (h : ShowsLamps P) (hp : P p) : P (syncShown p) := by
  unfold syncShown
  split
  next => exact hp
  next => exact forEach_closed (fun _ _ hq => setMsg_shows h _ _ hq) _ (setMsg_shows h _ _ hp)

theorem pushEntry_shows (h : ShowsLamps P) (i : Fin 32) (hp : P p) : P (pushEntry i p) := setPanel_shows h _ hp

theorem admitMessage_shows (h : ShowsLamps P) (i : Fin 32) (hp : P p) : P (admitMessage i p) := by
  unfold admitMessage
  refine ite_closed (syncShown_shows h (pushEntry_shows h i hp)) ?_
  split
  next =>
    exact ite_closed (syncShown_shows h (pushEntry_shows h i (setMsg_shows h _ _ (setPanel_shows h _ hp)))) (setMsg_shows h _ _ hp)
  next => exact hp

theorem leaveStack_shows (h : ShowsLamps P) (i : Fin 32) (m : MsgState) (hp : P p) : P (leaveStack i m p) := by
  have hq := setMsg_shows h i m (setPanel_shows h (fun r => { r with stack := r.stack.filter fun e => e.lamp != i }) hp)
  unfold leaveStack
  refine syncShown_shows h ?_
  split
  next => exact pushEntry_shows h _ hq
  next => exact hq

theorem panelReport_shows (h : ShowsLamps P) (i : Fin 32) (before after : LampState) (hp : P p) :
    P (panelReport i before after p) := by
  cases after with
  | on => exact ite_closed (admitMessage_shows h i hp) hp
  | acked => exact ite_closed hp (ite_closed (leaveStack_shows h i _ hp) (setMsg_shows h i _ hp))
  | off => exact ite_closed hp (ite_closed (leaveStack_shows h i _ hp) (setMsg_shows h i _ hp))
  | latched => exact hp
  | pending => exact hp

theorem writeMirror_shows (h : ShowsLamps P) (f : Frame) (hf : f.cells.length = 80) (hp : P p) : P (writeMirror f p) :=
  onlyIf_keeps _ (storeRun_shows h.toShowsMem _ _ (.inr (by simp [editioned, mirrorBody_length f p hf, mirrorAddr])) hp) hp

theorem forgetFrameIfIdle_shows (h : ShowsLamps P) (hp : P p) : P (forgetFrameIfIdle p) := onlyIf_keeps _ (setPanel_shows h _ hp) hp

theorem sendFrame_shows (h : ShowsLamps P) (f : Frame) (hp : P p) : P (sendFrame f p) :=
  ite_closed (setPanel_shows h _ hp) (forgetFrameIfIdle_shows h hp)

theorem countDisplay_shows (h : ShowsLamps P) (top : Option Entry) (hp : P p) : P (countDisplay top p) := by
  cases top with
  | none => exact hp
  | some e => exact ite_closed (leaveStack_shows h _ _ (setPanel_shows h _ hp)) (setPanel_shows h _ hp)

theorem panelRefresh_shows (h : ShowsLamps P) (hp : P p) : P (panelRefresh p) :=
  ite_closed (setPanel_shows h _ hp)
    (countDisplay_shows h _ (sendFrame_shows h _ (writeMirror_shows h _ (composeFrame_length p) hp)))

theorem displayTimeout_shows (h : ShowsLamps P) (hp : P p) : P (displayTimeout p) := by
  unfold displayTimeout
  split
  next => exact ite_closed (leaveStack_shows h _ _ hp) hp
  next => exact hp

theorem toStartPage_shows (h : ShowsLamps P) (hp : P p) : P (toStartPage p) := setPanel_shows h _ hp

/-! ### The Lamp Unit -/

theorem driveLamp_shows (h : ShowsLamps P) (i : Fin 32) (hp : P p) : P (driveLamp i p) :=
  ite_closed hp (setLamp_shows h i _ hp)

theorem composeLamp_shows (h : ShowsLamps P) (i : Fin 32) (hp : P p) : P (composeLamp i p) :=
  driveLamp_shows h i (updLamp_shows h i _ hp)

theorem composeLamps_shows (h : ShowsLamps P) (hp : P p) : P (composeLamps p) :=
  forEach_closed (fun i _ hq => composeLamp_shows h i hq) _ hp

theorem lampEntersOn_shows (h : ShowsLamps P) (i : Fin 32) (hp : P p) : P (lampEntersOn i p) := by
  unfold lampEntersOn
  refine ite_closed hp ?_
  split
  next => exact chimeDemand_shows h i hp
  next => exact chimeDemand_shows h i (setLamp_shows h i _ hp)
  next => exact hp

theorem lampChange_shows (h : ShowsLamps P) (i : Fin 32) (after : LampState) (hp : P p) : P (lampChange i after p) := by
  have hq : P (composeLamp i (updLamp i (fun l => { l with
      state := after, onDelay := if after = .pending then some (onDelayTime (lampRec p.working i)) else none }) p)) :=
    composeLamp_shows h i (updLamp_shows h i _ hp)
  have hr := ite_closed (c := after = .on) (lampEntersOn_shows h i hq)
    (ite_closed (c := p.lamps[i].state = .on) (chimeWithdraw_shows h i hq) hq)
  exact ite_closed (panelReport_shows h i _ _ hr) hr

theorem conditionEvent_shows (h : ShowsLamps P) (i : Fin 32) (truth : Bool) (hp : P p) : P (conditionEvent i truth p) := by
  unfold conditionEvent
  dsimp only
  split
  iterate 5 exact lampChange_shows h i _ hp
  exact hp

theorem acknowledge_shows (h : ShowsLamps P) (i : Fin 32) (hp : P p) : P (acknowledge i p) := by
  unfold acknowledge
  split
  next => exact lampChange_shows h i _ hp
  next => exact lampChange_shows h i _ hp
  next => exact hp

theorem onDelayExpiry_shows (h : ShowsLamps P) (i : Fin 32) (hp : P p) : P (onDelayExpiry i p) :=
  ite_closed (lampChange_shows h i _ hp) hp

theorem evalLamp_shows (h : ShowsLamps P) (i : Fin 32) (hp : P p) : P (evalLamp i p) := by
  have hq (b : Bool) : P (setLamp i (fun l => { l with hyst := b }) p) := setLamp_shows h i _ hp
  exact ite_closed hp (ite_closed (hq _) (conditionEvent_shows h i _ (updLamp_shows h i _ (hq _))))

theorem evalLamps_shows (h : ShowsLamps P) (hp : P p) : P (evalLamps p) :=
  forEach_closed (fun i _ hq => evalLamp_shows h i hq) _ hp

theorem evalLampFaults_shows (h : ShowsLamps P) (hp : P p) : P (evalLampFaults p) :=
  forEach_closed (fun i _ hq => evalLamp_shows h i hq) _ hp

theorem tellWarning_shows (h : ShowsLamps P) (w : Nat) (active : Bool) (hp : P p) : P (tellWarning w active p) :=
  forEach_closed (fun i _ hq => evalLamp_shows h i hq) _ (h.lampU _ _ hp)

theorem reportWarnings_shows (h : ShowsLamps P) (hp : P p) : P (reportWarnings p) :=
  forEach_closed (fun i _ hq => evalLamp_shows h i hq) _ (h.lampU _ _ hp)

theorem notifyLamp_shows (h : ShowsLamps P) (c : Fin 32) (x : Result) (i : Fin 32) (hp : P p) : P (notifyLamp c x i p) :=
  ite_closed (evalLamp_shows h i (setLamp_shows h i _ hp)) hp

theorem notifyDimming_shows (h : ShowsLamps P) (c : Fin 32) (x : Result) (hp : P p) : P (notifyDimming c x p) :=
  ite_closed (forEach_closed (fun i _ hq => driveLamp_shows h i hq) _ (h.lampU _ _ hp)) hp

theorem setDiag_shows (h : ShowsLamps P) (i : Fin 32) (d : Diag) (sense : Sense) (count : Nat) (hp : P p) :
    P (setDiag i d sense count p) :=
  have hq := updLamp_shows h i (fun l => { l with diag := d, sense := sense, lowCount := count }) hp
  ite_closed hq (evalLampFaults_shows h (composeLamp_shows h i (onlyIf_closed (fun _ hr => h.notice _ .lampfault nofun hr) _ hq)))

theorem retryShorts_shows (h : ShowsLamps P) (hp : P p) : P (retryShorts p) :=
  forEach_closed (fun i _ hq => setDiag_shows h i _ _ _ hq) _ hp

theorem senseLamp_shows (h : ShowsLamps P) (low : Bool) (i : Fin 32) (hp : P p) : P (senseLamp low i p) :=
  ite_closed (setDiag_shows h i _ _ _ hp) (setDiag_shows h i _ _ _ hp)

theorem senseCheck_shows (h : ShowsLamps P) (low : BitVec 32) (hp : P p) : P (senseCheck low p) :=
  ite_closed hp (forEach_closed (fun i _ hq => senseLamp_shows h _ i hq) _ hp)

theorem overcurrent_shows (h : ShowsLamps P) (i : Fin 32) (hp : P p) : P (overcurrent i p) :=
  ite_closed (setDiag_shows h i _ _ _ (setLamp_shows h i _ hp)) hp

theorem flashChange_shows (h : ShowsLamps P) (fast : Bool) (hp : P p) : P (flashChange fast p) :=
  forEach_closed (fun i _ hq => driveLamp_shows h i hq) _ (h.lampU _ _ hp)

theorem lampBoundary_shows (h : ShowsLamps P) (hp : P p) : P (lampBoundary p) :=
  ite_closed hp (forEach_closed (fun i _ hq => setLamp_shows h i _ hq) _ hp)

theorem lampsOff_shows (h : ShowsLamps P) (hp : P p) : P (lampsOff p) :=
  forEach_closed (fun i _ hq => setLamp_shows h i _ hq) _ hp

/-- A property of the part with its lamps put back as `v`. -/
def withLamps (P : Part → Prop) (v : Vector Lamp 32) (p : Part) : Prop := P { p with lamps := v }

theorem setLamp_withLamps {v : Vector Lamp 32} (i : Fin 32) (f : Lamp → Lamp) (hp : withLamps P v p) :
    withLamps P v (setLamp i f p) := hp

theorem driveLamp_withLamps {v : Vector Lamp 32} (i : Fin 32) (hp : withLamps P v p) : withLamps P v (driveLamp i p) :=
  ite_closed hp (setLamp_withLamps i _ hp)

/-- R145: the lamps, the chime and the stack change, and then every lamp's record is rewritten. -/
theorem resetLamps_shows (h : ShowsLamps P) (hp : P p) : P (resetLamps p) := by
  have h1 : withLamps P p.lamps (forEach allLamps (fun i => setLamp i lampResetValues) p) :=
    forEach_closed (fun i _ hq => setLamp_withLamps i _ hq) _ hp
  unfold resetLamps
  dsimp only
  generalize forEach allLamps (fun i => setLamp i lampResetValues) p = q at h1 ⊢
  have h2 : withLamps P p.lamps (chimeReset (setPanel (fun r => { r with stack := [] }) q)) :=
    forEach_closed (fun i _ hr => setLamp_withLamps i _ hr) _ (h.chime _ Chime.reset (h.panel _ { q.panel with stack := [] } h1))
  generalize chimeReset _ = q at h2 ⊢
  have h3 : withLamps P p.lamps (forEach allLamps (fun i r =>
      driveLamp i (setLamp i (fun l => { l with mode := composedMode r i }) r)) q) :=
    forEach_closed (fun i _ hq => driveLamp_withLamps i (setLamp_withLamps i _ hq)) _ h2
  generalize forEach allLamps _ q = r at h3 ⊢
  exact h.lampsShown { r with lamps := p.lamps } r.lamps h3

end Sys2Proof.Machine
end

section
namespace Sys2Proof.Machine

variable {P : Part → Prop} {p : Part}

/-! ### The Pointer Unit -/

/-- A change that keeps what the pointer's record shows. -/
theorem setPtr_shows (h : ShowsPtrs P) (i : Fin 6) (f : Ptr → Ptr) (hp : P p)
    (hf : ∀ x, ptrBody (f x) = ptrBody x := by exact fun _ => rfl) : P (setPtr i f p) := h.ptr _ _ _ (hf _) hp

theorem updPtr_shows (h : ShowsPtrs P) (i : Fin 6) (f : Ptr → Ptr) (hp : P p) : P (updPtr i f p) := by
  unfold updPtr onlyIf
  dsimp only
  split
  next => exact h.ptrShown _ _ _ hp
  next hb => exact h.ptr _ _ _ (by simpa only [setPtr_ptrs, updAt_self, bne_iff_ne, ne_eq, not_not] using hb) hp

/-- Two changes of one pointer are one. -/
theorem setPtr_setPtr (i : Fin 6) (f g : Ptr → Ptr) (p : Part) : setPtr i g (setPtr i f p) = setPtr i (fun x => g (f x)) p := by
  simp [setPtr, updAt]

theorem applyPhase_shows (h : ShowsPtrs P) (i : Fin 6) (phase : Nat) (hp : P p) : P (applyPhase i phase p) :=
  setPtr_shows h i _ hp

theorem applyPosition_shows (h : ShowsPtrs P) (i : Fin 6) (hp : P p) : P (applyPosition i p) := applyPhase_shows h i _ hp

theorem releaseCoils_shows (h : ShowsPtrs P) (i : Fin 6) (hp : P p) : P (releaseCoils i p) := setPtr_shows h i _ hp

theorem coilBoundary_shows (h : ShowsPtrs P) (hp : P p) : P (coilBoundary p) :=
  forEach_closed (fun i _ hq => ite_closed hq (setPtr_shows h i _ hq)) _ hp

theorem enterFollow_shows (h : ShowsPtrs P) (i : Fin 6) (hp : P p) : P (enterFollow i p) :=
  applyPosition_shows h i (updPtr_shows h i _ hp)

theorem notifyPtr_shows (h : ShowsPtrs P) (c : Fin 32) (x : Result) (i : Fin 6) (hp : P p) : P (notifyPtr c x i p) :=
  ite_closed (updPtr_shows h i _ hp) hp

theorem tickPtr_shows (h : ShowsPtrs P) (i : Fin 6) (hp : P p) : P (tickPtr i p) :=
  ite_closed hp (ite_closed (applyPhase_shows h i _ (updPtr_shows h i _ hp))
    (ite_closed (ite_closed (updPtr_shows h i _ hp) (applyPosition_shows h i (updPtr_shows h i _ hp))) hp))

theorem homingBegin_shows (h : ShowsPtrs P) (i : Fin 6) (hp : P p) : P (homingBegin i p) := by
  unfold homingBegin applyPhase
  dsimp only
  rw [setPtr_setPtr]
  exact h.ptrShown _ _ _ hp

theorem enterReturn_shows (h : ShowsPtrs P) (i : Fin 6) (hp : P p) : P (enterReturn i p) :=
  ite_closed (updPtr_shows h i _ hp) hp

theorem releasePtr_shows (h : ShowsPtrs P) (i : Fin 6) (hp : P p) : P (releasePtr i p) :=
  ite_closed (releaseCoils_shows h i (updPtr_shows h i _ hp)) hp

theorem freezePtr_shows (h : ShowsPtrs P) (i : Fin 6) (hp : P p) : P (freezePtr i p) :=
  ite_closed (ite_closed (h.ptrShown _ _ _ hp) (updPtr_shows h i _ hp)) hp

theorem thawPtr_shows (h : ShowsPtrs P) (i : Fin 6) (hp : P p) : P (thawPtr i p) :=
  ite_closed hp (ite_closed (homingBegin_shows h i hp) (ite_closed (applyPosition_shows h i hp) hp))

theorem commitPtr_shows (h : ShowsPtrs P) (i : Fin 6) (hp : P p) : P (commitPtr i p) :=
  ite_closed (releaseCoils_shows h i (updPtr_shows h i _ hp)) (ite_closed (updPtr_shows h i _ hp) (updPtr_shows h i _ hp))

theorem restartPtr_shows (h : ShowsPtrs P) (i : Fin 6) (hp : P p) : P (restartPtr i p) :=
  releaseCoils_shows h i (updPtr_shows h i _ hp)

theorem restartEndPtr_shows (h : ShowsPtrs P) (i : Fin 6) (hp : P p) : P (restartEndPtr i p) := by
  unfold restartEndPtr releaseCoils
  rw [setPtr_setPtr]
  exact h.ptrShown _ _ _ hp

/-! ### The Channel Table, and its consumers but the motion detector -/

theorem notifyShown_shows (h : ShowsChans P) (c : Fin 32) (hp : P p) : P (notifyShown c p) :=
  notifyDimming_shows h.toShowsLamps _ _ (forEach_closed (fun i _ hq => notifyLamp_shows h.toShowsLamps _ _ i hq) _
    (forEach_closed (fun i _ hq => notifyPtr_shows h.toShowsPtrs _ _ i hq) _ hp))

theorem putChan_shows (h : ShowsChans P) (c : Fin 32) (new : Chan) (hp : P p) : P (putChan c new p) :=
  onlyIf_closed (fun _ hq => h.notice _ .stale nofun hq) _ (h.chanShown _ _ _ hp)

theorem changeChanInTick_shows (h : ShowsChans P) (c : Fin 32) (new : Chan) (hp : P p) : P (changeChanInTick c new p) :=
  notifyShown_shows h c (putChan_shows h c _ hp)

theorem accountChan_shows (h : ShowsChans P) (d : Derived) (c : Fin 32) (hp : P p) : P (accountChan d c p) :=
  ite_closed (changeChanInTick_shows h c _ hp) (ite_closed hp (changeChanInTick_shows h c _ hp))

theorem deliverDerived_shows (h : ShowsChans P) (hp : P p) : P (deliverDerived p) :=
  forEach_closed (fun _ _ hq => deliverTo_closed (fun c _ hr => accountChan_shows h _ c hr) _ _ hq) _ hp

/-! ### The Accounting Unit at work

Within an event the accounting area still shows what the event found; the records are rewritten at its end. -/

/-- Closed under all that an event of the Accounting Unit does before it rewrites the accounting records. -/
structure ShowsWork (P : Part → Prop) : Prop extends ShowsChans P, ShowsJournal P where
  acct : ∀ p x, x.clock = p.acct.clock → x.timeValid = p.acct.timeValid → P p → P { p with acct := x }

/-- The work of an accounting event, its records not yet rewritten. -/
def AcctWork (f : Part → Part) : Prop := ∀ Q : Part → Prop, ShowsWork Q → ∀ p, Q p → Q (f p)

/-- A change of the Accounting Unit that leaves the clock. -/
theorem setAcct_shows (h : ShowsWork P) (f : Acct → Acct) (hp : P p) (hc : ∀ a, (f a).clock = a.clock := by exact fun _ => rfl)
    (hv : ∀ a, (f a).timeValid = a.timeValid := by exact fun _ => rfl) : P (setAcct f p) := h.acct _ _ (hc _) (hv _) hp

theorem putSeat_shows (h : ShowsWork P) (id : SeatId) (x : Option Seat) (hp : P p) : P (putSeat id x p) := by
  cases id <;> exact setAcct_shows h _ hp

theorem changeWarning_shows (h : ShowsWork P) (k : Nat) (active : Bool) (hp : P p) : P (changeWarning k active p) := by
  have hq (b : BitVec 6) : P (setAcct (fun a => { a with warnings := b }) p) := setAcct_shows h _ hp
  have hr (c : Bool) (b : BitVec 6) := onlyIf_closed (fun _ hq => tellWarning_shows h.toShowsLamps k active hq) c (hq b)
  unfold changeWarning
  dsimp only
  split
  next => exact submit_shows h.toShowsJournal _ (hr _ _)
  next => exact hr _ _

theorem putWarning_shows (h : ShowsWork P) (k : Nat) (active : Bool) (hp : P p) : P (putWarning k active p) :=
  ite_closed hp (changeWarning_shows h k active hp)

theorem evalWarnings_shows (h : ShowsWork P) (hp : P p) : P (evalWarnings p) :=
  forEach_closed (fun _ _ hq => putWarning_shows h _ _ hq) _ hp

theorem recomputeEffective_shows (h : ShowsWork P) (id : SeatId) (hp : P p) : P (recomputeEffective id p) := by
  unfold recomputeEffective
  split
  next => exact hp
  next => exact ite_closed hp (submit_shows h.toShowsJournal _ (putSeat_shows h id _ hp))

theorem recomputeBoth_shows (h : ShowsWork P) (hp : P p) : P (recomputeBoth p) :=
  recomputeEffective_shows h _ (recomputeEffective_shows h _ hp)

theorem putMotion_shows (h : ShowsWork P) (moving : Bool) (hp : P p) : P (putMotion moving p) :=
  evalWarnings_shows h (recomputeBoth_shows h (setAcct_shows h _ hp))

theorem stopMotion_shows (h : ShowsWork P) (hp : P p) : P (stopMotion p) :=
  have hq : P (putWarning speedLostBit false (idleConfirm p)) := putWarning_shows h _ _ (setAcct_shows h _ hp)
  ite_closed (putMotion_shows h _ hq) hq

theorem countSeat_shows (h : ShowsWork P) (id : SeatId) (hp : P p) : P (countSeat id p) := by
  unfold countSeat
  split
  next => exact hp
  next =>
    split
    iterate 3 exact putSeat_shows h id _ hp
    next =>
      dsimp only
      split
      next => exact submit_shows h.toShowsJournal _ (putSeat_shows h id _ hp)
      next => exact putSeat_shows h id _ hp

theorem computeDerived_shows (h : ShowsWork P) (hp : P p) : P (computeDerived p) := setAcct_shows h _ hp

end Sys2Proof.Machine
end

section
namespace Sys2Proof.Machine

variable {P : Part → Prop} {p : Part}

/-! ### Accounting events, and channels that tell the motion detector -/

/-- Closed under a channel's telling all its consumers, and under whole accounting events: their work and then the rewriting of
the records. -/
structure ShowsTold (P : Part → Prop) : Prop extends ShowsChans P where
  confirm : ∀ p x, P p → P { p with acct := { p.acct with confirm := x } }
  event : ∀ f seats summary p, AcctWork f → P p → P (rewriteAccounting p.acct seats summary (f p))

/-- Closed under accounting work and under any rewriting of the accounting records. -/
structure ShowsLoose (P : Part → Prop) : Prop extends ShowsWork P where
  records : ∀ p a seats summary, P p → P (rewriteAccounting a seats summary p)

theorem ShowsLoose.toShowsTold (h : ShowsLoose P) : ShowsTold P where
  toShowsChans := h.toShowsChans
  confirm _ _ hp := h.acct _ _ rfl rfl hp
  event _ _ _ _ hf hp := h.records _ _ _ _ (hf P h.toShowsWork _ hp)

theorem idleConfirm_shows (h : ShowsTold P) (hp : P p) : P (idleConfirm p) := h.confirm _ _ hp

theorem putSpeedLost_shows (h : ShowsTold P) (active : Bool) (hp : P p) : P (putSpeedLost active p) :=
  h.event (putWarning speedLostBit active) _ _ _ (fun _ hQ _ hq => putWarning_shows hQ _ _ hq) hp

theorem changeMotion_shows (h : ShowsTold P) (moving : Bool) (hp : P p) : P (changeMotion moving p) :=
  h.event (putMotion moving) _ _ _ (fun _ hQ _ hq => putMotion_shows hQ _ hq) hp

theorem forceStopped_shows (h : ShowsTold P) (hp : P p) : P (forceStopped p) :=
  h.event stopMotion _ _ _ (fun _ hQ _ hq => stopMotion_shows hQ hq) hp

theorem confirmExpiry_shows (h : ShowsTold P) (hp : P p) : P (confirmExpiry p) := by
  unfold confirmExpiry
  split
  next => exact ite_closed hp (changeMotion_shows h _ (idleConfirm_shows h hp))
  next => exact hp

theorem notifyMotion_shows (h : ShowsTold P) (c : Fin 32) (x : Result) (reset : Bool) (hp : P p) :
    P (notifyMotion c x reset p) := by
  have hq (k : Option Confirm) : P (setAcct (fun a => { a with confirm := k }) p) := h.confirm _ _ hp
  unfold notifyMotion
  refine ite_closed ?_ hp
  dsimp only
  split
  next => exact putSpeedLost_shows h _ (hq _)
  next => exact hq _

theorem notifyChan_shows (h : ShowsTold P) (c : Fin 32) (reset : Bool) (hp : P p) : P (notifyChan c reset p) :=
  notifyMotion_shows h _ _ _ (notifyShown_shows h.toShowsChans c hp)

theorem changeChan_shows (h : ShowsTold P) (c : Fin 32) (new : Chan) (hp : P p) : P (changeChan c new p) :=
  notifyChan_shows h _ _ (putChan_shows h.toShowsChans _ _ hp)

theorem deliver_shows (h : ShowsTold P) (kind : SourceKind) (index : Nat) (raw : Int) (hp : P p) : P (deliver kind index raw p) :=
  deliverTo_closed (fun c _ hq => changeChan_shows h c _ hq) _ _ hp

theorem inboxChan_shows (h : ShowsTold P) (f : InboxFlag) (value : Int) (c : Fin 32) (hp : P p) : P (inboxChan f value c p) := by
  cases f <;> exact changeChan_shows h c _ hp

theorem ageChan_shows (h : ShowsTold P) (t : Nat) (c : Fin 32) (hp : P p) : P (ageChan t c p) :=
  ite_closed (changeChan_shows h c _ hp) (h.chan _ _ _ (by rfl) hp)

theorem advanceAges_shows (h : ShowsTold P) (t : Nat) (hp : P p) : P (advanceAges t p) :=
  ite_closed (forEach_closed (fun c _ hq => ageChan_shows h t c hq) _ hp) hp

theorem dipChan_shows (h : ShowsTold P) (c : Fin 32) (hp : P p) : P (dipChan c p) :=
  ite_closed (changeChan_shows h c _ hp) hp

theorem resetChan_shows (h : ShowsTold P) (c : Fin 32) (hp : P p) : P (resetChan c p) :=
  notifyChan_shows h _ _ (h.chanShown _ _ _ hp)

theorem resetChans_shows (h : ShowsTold P) (hp : P p) : P (resetChans p) :=
  forEach_closed (fun c _ hq => resetChan_shows h c hq) _ hp

/-! ### The measuring units, the State Controller and the Request Unit -/

/-- Closed under what the measuring units, the State Controller and the Request Unit do, where no restart begins or ends and the
working configuration stays. -/
structure ShowsControl (P : Part → Prop) : Prop extends ShowsTold P, ShowsJournal P, GrantClosed P where
  conv : ∀ p x, P p → P { p with conv := x }
  free : ∀ p x, P p → P { p with free := x }
  pulse : ∀ p x, P p → P { p with pulse := x }
  sw : ∀ p x, P p → P { p with sw := x }
  ctl : ∀ p x, x.op = p.ctl.op → x.access = p.ctl.access → x.restart = p.ctl.restart → P p → P { p with ctl := x }
  entered : ∀ p x, x ≠ .init → P p → P (writeStateBytes { p with ctl := { p.ctl with op := x } })
  access : ∀ p x, P p → P (writeStateBytes { p with ctl := { p.ctl with access := x } })
  req : ∀ p x, P p → P { p with req := x }
  ign : ∀ p x, P p → P { p with ign := x }
  homeReqs : ∀ p x, P p → P { p with homeReqs := x }
  freeIdx : ∀ p x, P p → P { p with freeIdx := x }
  head : ∀ p a bs, headRecord a bs.length → P p → P (p.store a bs)
  check : ∀ p area slot bytes, blockAccess (.checkFailure area slot bytes) → P p → P (logCheckFailure area slot bytes p)
  slot : ∀ p (i : Fin 8) bs, 1 ≤ bs.length → bs.length ≤ 32 → P p → P (p.store (slotAddr i) bs)
  answer : ∀ p i bs, 1 ≤ bs.length → bs.length ≤ 32 → P p → P (p.request (.answer i bs))
  clockEvent : ∀ f x seats summary p, AcctWork f → P p →
    P (writeClockMirror (rewriteAccounting p.acct seats summary (f { p with acct := x })))
  afresh : ∀ (f : Part → Part) a p, (∀ Q, ShowsLoose Q → ∀ q, Q q → Q (f q)) → P p → P (rewriteAccounting a true true (f p))

/-- The same, where a restart may begin and end. -/
structure ShowsRestart (P : Part → Prop) : Prop extends ShowsControl P where
  restart : ∀ p x, x.op = p.ctl.op → x.access = p.ctl.access → P p → P { p with ctl := x }

/-- A scan up to the RESTART requests that it hands over (R22). -/
def scanTaken (sc : PendingScan) (p : Part) : Part :=
  forEach allSlots intakeSlot (forEach allInbox intakeInbox
    (liftHalt (onlyIf sc.periodic (advanceAges sc.time) (countScan (setReq (fun r => { r with pendingScan := none }) p)))))

theorem runScan_eq (sc : PendingScan) (p : Part) : runScan sc p = handRestarts (scanTaken sc p) := rfl

section
variable (h : ShowsControl P)
include h

/-- A change of the State Controller that leaves the states and the restart. -/
theorem setCtl_shows (f : Control → Control) (hp : P p) (ho : (f p.ctl).op = p.ctl.op := by exact rfl)
    (ha : (f p.ctl).access = p.ctl.access := by exact rfl) (hr : (f p.ctl).restart = p.ctl.restart := by exact rfl) :
    P (setCtl f p) := h.ctl _ _ ho ha hr hp

theorem setReq_shows (f : ReqUnit → ReqUnit) (hp : P p) : P (setReq f p) := h.req _ _ hp
theorem setFrozen_shows (b : Bool) (hp : P p) : P (setFrozen b p) := h.lampU _ _ hp

theorem setAccess_shows (a : Access) (hp : P p) : P (setAccess a p) := ite_closed hp (h.access _ _ hp)

theorem setOp_shows (op : OpState) (hop : op ≠ .init) (hp : P p) : P (setOp op p) :=
  forgetFrameIfIdle_shows h.toShowsLamps (setReq_shows h _ (h.notice _ _ nofun (h.entered _ _ hop hp)))

theorem writeCommitResult_shows (table index reason : Nat) (hp : P p) : P (writeCommitResult table index reason p) :=
  h.notice _ _ nofun (h.head _ _ _ (by simp [headRecord]) hp)

theorem answerTaken_shows (i : Fin 8) (taken : List Byte) (status : Byte) (data : List Byte) (hd : data.length ≤ 24) (hp : P p) :
    P (answerTaken i taken status data p) := by
  have := answerTail_length taken data hd
  exact h.answer _ _ _ (by simp [withCheck]) (by simp [withCheck]; omega) hp

theorem holdSlot_shows (i : Fin 8) (taken : List Byte) (hp : P p) : P (holdSlot i taken p) := setReq_shows h _ hp

theorem finishHold_shows (i : Fin 8) (status : Byte) (hp : P p) : P (finishHold i status p) := by
  unfold finishHold
  split
  next => exact setReq_shows h _ (answerTaken_shows h i _ _ _ (by simp) hp)
  next => exact hp

/-! The measuring units. -/

theorem setFree_shows (now : Word) (hp : P p) : P (setFree now p) := ite_closed hp (h.free _ _ hp)
theorem switchesAfresh_shows (hp : P p) : P (switchesAfresh p) := h.sw _ _ hp
theorem unitsStop_shows (hp : P p) : P (unitsStop p) := h.conv _ _ (h.pulse _ _ (switchesAfresh_shows h hp))
theorem unitsStart_shows (hp : P p) : P (unitsStart p) := h.conv _ _ (h.pulse _ _ (switchesAfresh_shows h hp))
theorem measuresReset_shows (hp : P p) : P (measuresReset p) := h.conv _ _ (h.pulse _ _ hp)
theorem switchesReset_shows (hp : P p) : P (switchesReset p) := h.sw _ _ hp
theorem conversionSlot_shows (level : Int) (hp : P p) : P (conversionSlot level p) := h.conv _ _ hp

theorem conversionComplete_shows (hp : P p) : P (conversionComplete p) := by
  unfold conversionComplete
  split
  next => exact deliver_shows h.toShowsTold _ _ _ (h.conv _ _ hp)
  next => exact hp

theorem pulseEdge_shows (i : Fin 4) (rising : Bool) (now : Word) (hp : P p) : P (pulseEdge i rising now p) :=
  onlyIf_closed (fun _ hq => h.pulse _ _ hq) _ (setFree_shows h now hp)

theorem windowEnd_shows (i : Fin 4) (hp : P p) : P (windowEnd i p) := deliver_shows h.toShowsTold _ _ _ (h.pulse _ _ hp)

theorem switchTo_shows (i : Fin 8) (state : Bool) (hp : P p) : P (switchTo i state p) :=
  deliver_shows h.toShowsTold _ _ _ (h.sw _ _ hp)

theorem sampleSwitch_shows (pins : Pins) (i : Fin 8) (hp : P p) : P (sampleSwitch pins i p) :=
  ite_closed (switchTo_shows h i _ hp)
    (ite_closed (h.sw _ _ hp) (ite_closed (switchTo_shows h i _ hp) (h.sw _ _ hp)))

theorem sampleSwitches_shows (pins : Pins) (hp : P p) : P (sampleSwitches pins p) :=
  onlyIf_keeps _ (forEach_closed (fun i _ hq => sampleSwitch_shows h pins i hq) _ hp) hp

theorem switchChange_shows (i : Fin 8) (state : Bool) (hp : P p) : P (switchChange i state p) :=
  ite_closed (switchTo_shows h i state hp) hp

/-! Proving cycles and sweeps. -/

theorem provingEnd_shows (c : Proving) (hp : P p) : P (provingEnd c p) := by
  have hq : P (setCtl (fun k => { k with proving := none }) p) := setCtl_shows h _ hp
  unfold provingEnd
  dsimp only
  split
  next => exact chimeSync_shows h.toShowsLamps (composeLamps_shows h.toShowsLamps (setOp_shows h .run (by decide) hq))
  next => exact chimeSync_shows h.toShowsLamps (finishHold_shows h _ _ (composeLamps_shows h.toShowsLamps hq))

theorem provingCheck_shows (hp : P p) : P (provingCheck p) := by
  unfold provingCheck
  split
  next => exact ite_closed (provingEnd_shows h _ hp) hp
  next => exact hp

theorem sweepReturned_shows (i : Fin 6) (hp : P p) : P (sweepReturned i p) :=
  provingCheck_shows h (setCtl_shows h _ (enterFollow_shows h.toShowsPtrs i hp))

theorem judgeSweep_shows (i : Fin 6) (hp : P p) : P (judgeSweep i p) := by
  unfold judgeSweep
  refine ite_closed hp ?_
  split
  next => exact hp
  next => exact ite_closed (updPtr_shows h.toShowsPtrs i _ hp) hp
  next => exact ite_closed (sweepReturned_shows h i hp) hp

theorem enterSweep_shows (i : Fin 6) (hp : P p) : P (enterSweep i p) :=
  judgeSweep_shows h i (applyPosition_shows h.toShowsPtrs i (updPtr_shows h.toShowsPtrs i _ hp))

theorem provingStart_shows (kind : ProvingKind) (hp : P p) : P (provingStart kind p) :=
  forEach_closed (fun i _ hq => enterSweep_shows h i hq) _ (startTestTone_shows h.toShowsLamps (chimeSync_shows h.toShowsLamps
    (composeLamps_shows h.toShowsLamps (setCtl_shows h _ (retryShorts_shows h.toShowsLamps hp)))))

theorem provingAbandon_shows (hp : P p) : P (provingAbandon p) := by
  have hq : P (stopTestTone (setCtl (fun k => { k with proving := none }) p)) :=
    stopTestTone_shows h.toShowsLamps (setCtl_shows h _ hp)
  unfold provingAbandon
  split
  next =>
    dsimp only
    split
    next => exact hq
    next => exact finishHold_shows h _ _ hq
  next => exact hp

theorem provingTimerExpiry_shows (hp : P p) : P (provingTimerExpiry p) := by
  unfold provingTimerExpiry
  split
  next => exact ite_closed (provingCheck_shows h (setCtl_shows h _ hp)) hp
  next => exact hp

/-! STARTING, PARKING and PARK; homings and motion ticks. -/

theorem startPtr_shows (i : Fin 6) (hp : P p) : P (startPtr i p) :=
  ite_closed hp (ite_closed (homingBegin_shows h.toShowsPtrs i hp) (enterFollow_shows h.toShowsPtrs i hp))

theorem startIfHomed_shows (hp : P p) : P (startIfHomed p) := onlyIf_keeps _ (provingStart_shows h _ hp) hp

theorem enterStarting_shows (hp : P p) : P (enterStarting p) :=
  startIfHomed_shows h (chimeSync_shows h.toShowsLamps (composeLamps_shows h.toShowsLamps (forEach_closed
    (fun i _ hq => startPtr_shows h i hq) _ (toStartPage_shows h.toShowsLamps (setOp_shows h .starting (by decide) hp)))))

theorem enterPark_shows (hp : P p) : P (enterPark p) :=
  composeLamps_shows h.toShowsLamps (forceStopped_shows h.toShowsTold (setOp_shows h .park (by decide)
    (forEach_closed (fun i _ hq => releasePtr_shows h.toShowsPtrs i hq) _ hp)))

theorem parkCheck_shows (hp : P p) : P (parkCheck p) := onlyIf_keeps _ (enterPark_shows h hp) hp

theorem enterParking_shows (hp : P p) : P (enterParking p) :=
  have hq : P (forEach allPtrs enterReturn (setOp .parking (stopTestTone (provingAbandon p)))) :=
    forEach_closed (fun i _ hq => enterReturn_shows h.toShowsPtrs i hq) _ (setOp_shows h .parking (by decide)
      (stopTestTone_shows h.toShowsLamps (provingAbandon_shows h hp)))
  parkCheck_shows h (chimeSync_shows h.toShowsLamps (composeLamps_shows h.toShowsLamps (setFrozen_shows h true
    (idleConfirm_shows h.toShowsTold (unitsStop_shows h hq)))))

theorem homedRequests_shows (i : Fin 6) (hp : P p) : P (homedRequests i p) :=
  forEach_closed (fun _ _ hq => finishHold_shows h _ _ hq) _ (h.homeReqs _ _ hp)

theorem homingEnd_shows (i : Fin 6) (hp : P p) : P (homingEnd i p) :=
  parkCheck_shows h (startIfHomed_shows h (homedRequests_shows h i
    (applyPosition_shows h.toShowsPtrs i (updPtr_shows h.toShowsPtrs i _ hp))))

theorem homingEnds_shows (i : Fin 6) (hp : P p) : P (homingEnds i p) := onlyIf_keeps _ (homingEnd_shows h i hp) hp

theorem judgePtr_shows (i : Fin 6) (hp : P p) : P (judgePtr i p) :=
  ite_closed hp (ite_closed (homingEnd_shows h i hp) (judgeSweep_shows h i hp))

theorem motionTick_shows (hp : P p) : P (motionTick p) :=
  parkCheck_shows h (forEach_closed (fun i _ hq => judgePtr_shows h i hq) _
    (forEach_closed (fun i _ hq => tickPtr_shows h.toShowsPtrs i hq) _ hp))

/-! The ignition and the supply. -/

theorem resumeFollow_shows (i : Fin 6) (hp : P p) : P (resumeFollow i p) :=
  ite_closed (enterFollow_shows h.toShowsPtrs i hp) hp

theorem parkingToRun_shows (hp : P p) : P (parkingToRun p) :=
  chimeSync_shows h.toShowsLamps (composeLamps_shows h.toShowsLamps (evalLamps_shows h.toShowsLamps (setFrozen_shows h false
    (unitsStart_shows h (forEach_closed (fun i _ hq => resumeFollow_shows h i hq) _ (setOp_shows h .run (by decide) hp))))))

theorem parkExit_shows (hp : P p) : P (parkExit p) :=
  enterStarting_shows h (unitsStart_shows h (measuresReset_shows h (evalLamps_shows h.toShowsLamps
    (resetChans_shows h.toShowsTold (setFrozen_shows h false hp)))))

theorem ignRises_shows (hp : P p) : P (ignRises p) := by
  unfold ignRises
  split
  next => exact parkingToRun_shows h hp
  next => exact parkExit_shows h hp
  iterate 4 exact hp

theorem ignFalls_shows (hp : P p) : P (ignFalls p) := by
  unfold ignFalls
  split
  iterate 2 exact enterParking_shows h hp
  iterate 4 exact hp

theorem ignChange_shows (on : Bool) (hp : P p) : P (ignChange on p) :=
  ite_closed hp (ite_closed (ignRises_shows h (h.ign _ _ hp)) (ignFalls_shows h (h.ign _ _ hp)))

theorem sampleIgn_shows (pin : Bool) (hp : P p) : P (sampleIgn pin p) :=
  ite_closed (h.ign _ _ hp) (ite_closed (ignChange_shows h pin hp) (h.ign _ _ hp))

theorem discreteSample_shows (ign : Bool) (pins : Pins) (now : Word) (hp : P p) : P (discreteSample ign pins now p) :=
  sampleIgn_shows h ign (sampleSwitches_shows h pins (setFree_shows h now hp))

theorem dipStart_shows (hp : P p) : P (dipStart p) :=
  have hq : P (setNotice .dip (setCtl (fun c => { c with supply := .dip, settle := none }) p)) :=
    h.notice _ _ nofun (setCtl_shows h _ hp)
  forEach_closed (fun i _ hq => freezePtr_shows h.toShowsPtrs i hq) _ (forEach_closed
    (fun c _ hq => dipChan_shows h.toShowsTold c hq) _ (muteTestTone_shows h.toShowsLamps (chimeSync_shows h.toShowsLamps hq)))

theorem recovery_shows (hp : P p) : P (recovery p) :=
  chimeSync_shows h.toShowsLamps (composeLamps_shows h.toShowsLamps (forEach_closed
    (fun i _ hq => thawPtr_shows h.toShowsPtrs i hq) _ (setCtl_shows h _ hp)))

theorem settleEnd_shows (hp : P p) : P (settleEnd p) := h.notice _ _ nofun (setCtl_shows h _ hp)

/-! Commits. -/

theorem commitOvertaken_shows (hp : P p) : P (commitOvertaken p) := by
  unfold commitOvertaken
  split
  next => exact h.freeIdx _ _ (setCtl_shows h _ hp)
  next => exact hp

theorem commitAsked_shows (hp : P p) : P (commitAsked p) := by
  unfold commitAsked
  refine ite_closed hp ?_
  split
  next => exact writeCommitResult_shows h _ _ _ hp
  next => exact setCtl_shows h _ hp

theorem dropHomeReqs_shows (hp : P p) : P (dropHomeReqs p) :=
  forEach_closed (fun _ _ hq => finishHold_shows h _ _ hq) _ (h.homeReqs _ _ hp)

theorem commitValues_shows (hp : P p) : P (commitValues p) :=
  have hq : P (dropHomeReqs (forEach allPtrs commitPtr (resetLamps (setFrozen false p)))) :=
    dropHomeReqs_shows h (forEach_closed (fun i _ hq => commitPtr_shows h.toShowsPtrs i hq) _
      (resetLamps_shows h.toShowsLamps (setFrozen_shows h false hp)))
  have hr := putSpeedLost_shows h.toShowsTold false (idleConfirm_shows h.toShowsTold (toStartPage_shows h.toShowsLamps hq))
  evalLamps_shows h.toShowsLamps (reportWarnings_shows h.toShowsLamps (resetChans_shows h.toShowsTold (switchesAfresh_shows h hr)))

theorem commitState_shows (hp : P p) : P (commitState p) := by
  unfold commitState
  split
  next => exact enterStarting_shows h hp
  next => exact ite_closed (enterStarting_shows h hp) (setFrozen_shows h true (enterPark_shows h (unitsStop_shows h hp)))
  next => exact forgetFrameIfIdle_shows h.toShowsLamps (setFrozen_shows h true hp)
  iterate 3 exact hp

theorem commitEnd_shows (hw : ∀ p x, P p → P { p with working := x }) (hp : P p) : P (commitEnd p) := by
  unfold commitEnd
  split
  next =>
    have hq : P (setCtl (fun k => { k with commit := none }) p.grantReading) := setCtl_shows h _ (h.reading _ hp)
    dsimp only
    split
    next => exact writeCommitResult_shows h _ _ _ hq
    next =>
      split
      next => exact writeCommitResult_shows h _ _ _ hq
      next =>
        exact writeCommitResult_shows h _ _ _ (commitState_shows h (commitValues_shows h (setAccess_shows h .locked
          (hw _ _ (provingAbandon_shows h hq)))))
  next => exact hp

/-! INIT and second ticks. -/

theorem seenFromSlots_shows (hp : P p) : P (seenFromSlots p) := setReq_shows h _ hp

theorem takeSamples_shows (strap ign : Bool) (now : Word) (hp : P p) : P (takeSamples strap ign now p) :=
  setCtl_shows h _ (h.ign _ _ (h.free _ _ hp))

theorem initEnd_shows (strap ign belowDip : Bool) (now : Word) (hp : P p) : P (initEnd strap ign belowDip now p) :=
  ite_closed (h.grant _ (onlyIf_closed (fun _ hq => dipStart_shows h hq) _ (unitsStart_shows h (seenFromSlots_shows h
    (h.notice _ _ nofun (setOp_shows h .unconfigured (by decide) (takeSamples_shows h _ _ _ hp))))))) hp

theorem secondTick_shows (hp : P p) : P (secondTick p) := by
  have hq : P (tickWork p) := h.clockEvent
    (fun q => deliverDerived (computeDerived (evalWarnings (countSeat .two (countSeat .one q)))))
    { p.acct with clock := p.acct.clock + 1, limits := limitsOf p.working } _ _ _
    (fun _ hQ _ hq => deliverDerived_shows hQ.toShowsChans (computeDerived_shows hQ (evalWarnings_shows hQ
      (countSeat_shows hQ _ (countSeat_shows hQ _ hq))))) hp
  unfold secondTick notifyTicked
  split
  next => exact onlyIf_keeps _ (notifyMotion_shows h.toShowsTold _ _ _ hq) hq
  next => exact hq

/-! Requests. -/

theorem setTime_shows (clock : Word) (hp : P p) : P (setTime clock p) :=
  h.clockEvent (submit (.timeSet p.acct.clock p.acct.timeValid clock)) { p.acct with clock := clock, timeValid := true } _ _ _
    (fun _ hQ _ hq => submit_shows hQ.toShowsJournal _ hq) hp

theorem cardIn_shows (seat flags : Byte) (card : Identity) (cdt ddt : Half) (hp : P p) : P (cardIn seat flags card cdt ddt p).part := by
  unfold cardIn
  split
  next => exact hp
  next id _ =>
    split
    next => exact hp
    split
    next => exact hp
    split
    next => exact hp
    exact h.event (fun q => evalWarnings (submit (cardInEntry id (cardSeat id p.acct.moving flags card cdt ddt))
      (putSeat id (some (cardSeat id p.acct.moving flags card cdt ddt)) q))) _ _ _
      (fun _ hQ _ hq => evalWarnings_shows hQ (submit_shows hQ.toShowsJournal _ (putSeat_shows hQ _ _ hq))) hp

theorem cardOut_shows (seat : Byte) (hp : P p) : P (cardOut seat p).part := by
  unfold cardOut
  split
  next => exact hp
  next id _ =>
    split
    next => exact hp
    next x _ =>
      exact h.event (fun q => evalWarnings (putSeat id none (submit
        (cardOutEntry id (if x.effective = .rest then endSpan p.acct.limits x else x)) q))) _ _ _
        (fun _ hQ _ hq => evalWarnings_shows hQ (putSeat_shows hQ _ _ (submit_shows hQ.toShowsJournal _ hq))) hp

theorem setActivity_shows (seat activity : Byte) (hp : P p) : P (setActivity seat activity p).part := by
  unfold setActivity
  split
  iterate 2 exact hp
  next id act _ _ =>
    split
    next => exact hp
    next x _ =>
      exact h.event (fun q => recomputeEffective id (putSeat id (some { x with selected := act }) q)) _ _ _
        (fun _ hQ _ hq => recomputeEffective_shows hQ _ (putSeat_shows hQ _ _ hq)) hp

/-- R163: the work of SWAP_SEATS. -/
def swapWork (p : Part) : Part :=
  let q := setAcct (fun a => { a with seat1 := a.seat2, seat2 := a.seat1 }) p
  evalWarnings (recomputeBoth (submit (.swap .two (seatIdentity q.acct.seat2)) (submit (.swap .one (seatIdentity q.acct.seat1)) q)))

omit h in
theorem swapWork_acctWork : AcctWork swapWork := fun _ hQ _ hq =>
  evalWarnings_shows hQ (recomputeBoth_shows hQ (submit_shows hQ.toShowsJournal _ (submit_shows hQ.toShowsJournal _
    (setAcct_shows hQ _ hq))))

theorem swapSeats_shows (hp : P p) : P (swapSeats p).part := by
  unfold swapSeats
  split
  next => exact hp
  next => exact h.event swapWork _ _ _ swapWork_acctWork hp

theorem setLampRequest_shows (lamp value : Byte) (hp : P p) : P (setLampRequest lamp value p).part := by
  unfold setLampRequest
  split
  next => exact hp
  split
  next => exact hp
  dsimp only
  split
  next => exact hp
  split
  next => exact evalLamp_shows h.toShowsLamps _ (setLamp_shows h.toShowsLamps _ _ hp)
  next => exact hp

theorem ackLamp_shows (which : Byte) (hp : P p) : P (ackLamp which p).part := by
  unfold ackLamp
  dsimp only
  split
  next => exact hp
  split
  next =>
    split
    next => exact hp
    split
    next => exact acknowledge_shows h.toShowsLamps _ hp
    next => exact hp
  split
  next =>
    split
    next => exact hp
    next => exact forEach_closed (fun i _ hq => acknowledge_shows h.toShowsLamps i hq) _ hp
  next => exact hp

theorem showPage_shows (page : Byte) (hp : P p) : P (showPage page p).part := by
  unfold showPage
  split
  next => exact hp
  split
  next => exact hp
  next => exact h.panel _ _ hp

theorem snapshot_shows (page : Byte) (hp : P p) : P (snapshot page p).part := by
  unfold snapshot
  split
  next => exact storeRun_shows h.toShowsMem _ _ (.inl (by rw [diagWindow_length]; simp [diagAddr])) hp
  next => exact hp

theorem prove_shows (i : Fin 8) (taken : List Byte) (hp : P p) : P (prove i taken p) :=
  have ha (st : Byte) : P (answerTaken i taken st [] p) := answerTaken_shows h i taken st [] (by simp) hp
  ite_closed (ha _) (ite_closed (ha _) (ite_closed (ha _) (provingStart_shows h _ (holdSlot_shows h i taken hp))))

theorem homePointer_shows (i : Fin 8) (taken : List Byte) (which : Byte) (hp : P p) : P (homePointer i taken which p) :=
  have ha (st : Byte) : P (answerTaken i taken st [] p) := answerTaken_shows h i taken st [] (by simp) hp
  ite_closed (ha _) (ite_closed (ha _) (ite_closed (ha _) (ite_closed (ha _) (ite_closed (ha _)
    (forEach_closed (fun j _ hq => homingBegin_shows h.toShowsPtrs j hq) _ (h.homeReqs _ _ (holdSlot_shows h i taken hp)))))))

theorem restartRequest_shows (i : Fin 8) (taken : List Byte) (hp : P p) : P (restartRequest i taken p) :=
  setReq_shows h _ (holdSlot_shows h i taken hp)

theorem serve_shows (i : Fin 8) (t : List Byte) (hp : P p) : P (serve i t p) := by
  have a (r : Reply) (hd : r.data.length ≤ 24) (hr : P r.part) : P (answerReply i t r) := answerTaken_shows h i t _ _ hd hr
  unfold serve
  refine ite_closed (a _ (setActivity_data _ _ _) (setActivity_shows h _ _ hp)) ?_
  refine ite_closed (a _ (cardIn_data _ _ _ _ _ _) (cardIn_shows h _ _ _ _ _ hp)) ?_
  refine ite_closed (a _ (cardOut_data _ _) (cardOut_shows h _ hp)) ?_
  refine ite_closed (a _ (swapSeats_data _) (swapSeats_shows h hp)) ?_
  refine ite_closed (a _ (Nat.zero_le _) (setTime_shows h _ hp)) ?_
  refine ite_closed (a _ (ackLamp_data _ _) (ackLamp_shows h _ hp)) ?_
  refine ite_closed (a _ (setLampRequest_data _ _ _) (setLampRequest_shows h _ _ hp)) ?_
  refine ite_closed (prove_shows h _ _ hp) ?_
  refine ite_closed (homePointer_shows h _ _ _ hp) ?_
  refine ite_closed (a _ (showPage_data _ _) (showPage_shows h _ hp)) ?_
  refine ite_closed (a _ (snapshot_data _ _) (snapshot_shows h _ hp)) ?_
  exact ite_closed (restartRequest_shows h _ _ hp) (answerTaken_shows h i t _ _ (by simp) hp)

/-! Intake and scans. -/

theorem markTaken_shows (i : Fin 8) (bs : List Byte) (hp : P p) : P (markTaken i bs p) :=
  h.grant _ (h.slot _ _ _ (by simp [markState, withCheck]) (markState_length _ _) hp)

theorem failedSlot_shows (i : Fin 8) (bs : List Byte) (hb : bs.length = 32) (hp : P p) : P (failedSlot i bs p) :=
  have hq : P (logCheckFailure 2 i bs p) := h.check _ _ _ _ (.inr ⟨rfl, i.isLt, hb⟩) hp
  ite_closed (setReq_shows h _ hq) (answerTaken_shows h i _ _ _ (by simp) hq)

theorem intakeSlot_shows (i : Fin 8) (hp : P p) : P (intakeSlot i p) :=
  have hq := h.reading _ hp
  ite_closed hp (ite_closed hq (ite_closed (failedSlot_shows h i _ (by simp [slotBytes]) hq)
    (serve_shows h i _ (onlyIf_closed (fun _ hr => markTaken_shows h i _ hr) _ hq))))

theorem intakeInbox_shows (i : Fin 16) (hp : P p) : P (intakeInbox i p) := by
  have hq := h.reading _ hp
  unfold intakeInbox
  refine ite_closed hq (ite_closed ?_ ?_)
  · exact deliverTo_closed (fun c _ hr => inboxChan_shows h.toShowsTold _ _ c hr) _ _ (setReq_shows h _ hq)
  · exact h.check _ _ _ _ (.inl ⟨rfl, i.isLt, by simp⟩) (setReq_shows h _ hq)

theorem askScan_shows (periodic : Bool) (time : Nat) (hp : P p) : P (askScan periodic time p) := setReq_shows h _ hp

theorem countScan_shows (hp : P p) : P (countScan p) := h.head _ _ _ (by simp [headRecord, scanCountAddr]) hp

theorem liftHalt_shows (hp : P p) : P (liftHalt p) := ite_closed hp (setReq_shows h _ hp)

theorem scanTaken_shows (sc : PendingScan) (hp : P p) : P (scanTaken sc p) :=
  have hq : P (countScan (setReq (fun r => { r with pendingScan := none }) p)) := countScan_shows h (setReq_shows h _ hp)
  forEach_closed (fun i _ hq => intakeSlot_shows h i hq) _ (forEach_closed (fun i _ hq => intakeInbox_shows h i hq) _
    (liftHalt_shows h (onlyIf_closed (fun _ hq => advanceAges_shows h.toShowsTold _ hq) _ hq)))

theorem scanTimerExpiry_shows (hp : P p) : P (scanTimerExpiry p) := by
  unfold scanTimerExpiry
  split
  next => exact askScan_shows h _ _ hp
  next => exact hp

theorem shortRow_shows (i : Fin 8) (kind : Byte) (params : List Byte) {act : Part → Reply}
    (hd : ∀ p, (act p).data.length ≤ 24) (ha : ∀ p, P p → P (act p).part) (hp : P p) : P (shortRow i kind params act p) :=
  ite_closed (answerTaken_shows h i _ _ _ (hd _) (ha _ (h.reading _ hp))) hp

theorem longRow_shows (i : Fin 8) (kind : Byte) (params : List Byte) {act : List Byte → Part → Part}
    (ha : ∀ t p, P p → P (act t p)) (hp : P p) : P (longRow i kind params act p) :=
  ite_closed (ha _ _ (onlyIf_closed (fun _ hq => markTaken_shows h i _ hq) _ (h.reading _ hp))) hp

end

/-! ### Restarts -/

section
variable (h : ShowsRestart P)
include h

theorem requestsLost_shows (hp : P p) : P (requestsLost p) := h.req _ _ (h.homeReqs _ _ hp)

theorem restartBegin_shows (cause : Cause) (hp : P p) : P (restartBegin cause p) := by
  have hc := h.toShowsControl
  have hq : P (setAccess .locked (setCtl (fun c =>
      { c with restart := some cause, proving := none, commit := none, settle := none }) p)) :=
    setAccess_shows hc _ (h.restart _ _ rfl rfl hp)
  have hr := lampsOff_shows h.toShowsLamps (forEach_closed (fun i _ hq => restartPtr_shows h.toShowsPtrs i hq) allPtrs
    (requestsLost_shows h (chimeStop_shows h.toShowsLamps (stopTestTone_shows h.toShowsLamps hq))))
  exact h.grant _ (forgetFrameIfIdle_shows h.toShowsLamps (idleConfirm_shows h.toShowsTold (unitsStop_shows hc (h.ign _ _ hr))))

theorem restartCause_shows (cause : Cause) (hp : P p) : P (restartCause cause p) :=
  ite_closed (setCtl_shows h.toShowsControl _ hp) (ite_closed hp (restartBegin_shows h cause hp))

theorem handRestarts_shows (hp : P p) : P (handRestarts p) := ite_closed hp (restartCause_shows h _ hp)

theorem runScan_shows (sc : PendingScan) (hp : P p) : P (runScan sc p) :=
  handRestarts_shows h (scanTaken_shows h.toShowsControl sc hp)

theorem exchangeScan_shows (hp : P p) : P (exchangeScan p) := by
  unfold exchangeScan
  split
  next => exact runScan_shows h _ hp
  next => exact hp

theorem restartAnswer_shows (i : Fin 8) (hp : P p) : P (restartAnswer i p) :=
  have ha (st : Byte) : P (answerAsItStands i st p) := answerTaken_shows h.toShowsControl i _ st [] (by simp) hp
  ite_closed (ha _) (ite_closed (ha _) hp)

theorem restartAnswers_shows (hp : P p) : P (restartAnswers p) :=
  h.req _ _ (forEach_closed (fun i _ hq => restartAnswer_shows h i hq) _ hp)

/-- R56: the part of a restart's values that the accounting records, rewritten once, come after. -/
def restartWork (cause : Cause) (was : OpState) (p : Part) : Part :=
  evalLamps (reportWarnings (resetChans (submit (.restart cause was) (evalWarnings (stopMotion p)))))

omit h in
theorem restartWork_shows {Q : Part → Prop} (hQ : ShowsLoose Q) (cause : Cause) (was : OpState) (hq : Q p) :
    Q (restartWork cause was p) :=
  evalLamps_shows hQ.toShowsLamps (reportWarnings_shows hQ.toShowsLamps (resetChans_shows hQ.toShowsTold
    (submit_shows hQ.toShowsJournal _ (evalWarnings_shows hQ.toShowsWork (stopMotion_shows hQ.toShowsWork hq)))))

/-- R56: what the other blocks take up before the Accounting Unit does. -/
theorem restartReset_shows (hp : P p) :
    P (forEach allPtrs restartEndPtr (resetLamps (generatorsAfresh (setFrozen false (switchesReset (measuresReset p)))))) := by
  have hc := h.toShowsControl
  have hq : P (generatorsAfresh (setFrozen false (switchesReset (measuresReset p)))) :=
    h.lampU _ _ (setFrozen_shows hc _ (switchesReset_shows hc (measuresReset_shows hc hp)))
  exact forEach_closed (fun i _ hq => restartEndPtr_shows h.toShowsPtrs i hq) _ (resetLamps_shows h.toShowsLamps hq)

omit h in
theorem restartValues_eq (cause : Cause) (p : Part) : restartValues cause p =
    seenFromSlots (setCtl (fun c => { c with restart := none }) (rewriteAccounting p.acct true true
      (restartWork cause p.ctl.op (toStartPage (forEach allPtrs restartEndPtr (resetLamps (generatorsAfresh (setFrozen false
        (switchesReset (measuresReset p)))))))))) := rfl

/-- R56: a restart is over. -/
theorem restartOver_shows (hp : P p) : P (seenFromSlots (setCtl (fun c => { c with restart := none }) p)) :=
  seenFromSlots_shows h.toShowsControl (h.restart _ _ rfl rfl hp)

theorem restartValues_shows (cause : Cause) (hp : P p) : P (restartValues cause p) := by
  have hr := h.afresh (restartWork cause p.ctl.op) p.acct _ (fun _ hQ _ hr => restartWork_shows hQ cause _ hr)
    (toStartPage_shows h.toShowsLamps (restartReset_shows h hp))
  exact restartOver_shows h hr

theorem restartState_shows (hp : P p) : P (restartState p) :=
  have hc := h.toShowsControl
  ite_closed (enterStarting_shows hc (unitsStart_shows hc hp))
    (composeLamps_shows h.toShowsLamps (setFrozen_shows hc _ (setOp_shows hc .park (by decide) hp)))

theorem restartEnd_shows (strap ign belowDip : Bool) (now : Word) (hp : P p) : P (restartEnd strap ign belowDip now p) := by
  have hc := h.toShowsControl
  unfold restartEnd
  split
  next =>
    exact ite_closed (h.grant _ (restartAnswers_shows h (restartState_shows h (onlyIf_closed (fun _ hq => dipStart_shows hc hq) _
      (restartValues_shows h _ (takeSamples_shows hc _ _ _ hp)))))) hp
  next => exact hp

end

end Sys2Proof.Machine
end

section
namespace Sys2Proof.Machine

variable {P : Part → Prop} {p : Part}

/-! ### Every command but the link's own -/

/-- The commands in which a restart may begin, or end. -/
def restarts : Instr → Bool
  | .exchangeScan | .restart _ | .resetAssert | .supplyBelowReset | .restartEnd _ _ _ _ => true
  | _ => false

/-- R33: a cause passes, and INIT may begin again. -/
theorem initAgain_shows (hi : p.ctl.op = .init → ∀ q, P q → P (initBegin q.link q)) (hp : P p) : P (initAgain p) := by
  unfold initAgain onlyIf
  split
  next hc => exact ite_closed (hi hc.1 _ hp) hp
  next => exact hp

/-- What the blocks' operations keep is kept by every command but the link's own and power-on. -/
theorem execPart_shows (h : ShowsControl P) (hi : p.ctl.op = .init → ∀ q, P q → P (initBegin q.link q)) {c : Instr}
    (hr : restarts c = true → ShowsRestart P) (hw : c = .commitEnd → ∀ p x, P p → P { p with working := x })
    (hl : ¬ linkCommand c) (hc : c ≠ .powerOn) (hp : P p) : P (execPart c p) := by
  have ht := h.toShowsTold
  have hla := h.toShowsLamps
  cases c with
  | powerOn => exact absurd rfl hc
  | initEnd strap ign belowDip now => exact initEnd_shows h strap ign belowDip now hp
  | selAssert | readCommand | writeCommand | ignore | addressHigh | addressLow | dataRead | dataWrite | selRelease
  | keyArm | keyCommit | keyOther | prompt | noticeClear | noticeMaskWrite | readMarkWrite => exact absurd trivial hl
  | scanTimerExpiry => exact onlyIf_keeps _ (scanTimerExpiry_shows h hp) hp
  | exchangeScan => exact onlyIf_keeps _ (exchangeScan_shows (hr rfl) hp) hp
  | setActivity => exact shortRow_shows h _ _ _ (setActivity_data _ _) (fun _ hq => setActivity_shows h _ _ hq) hp
  | cardIn => exact shortRow_shows h _ _ _ (cardIn_data _ _ _ _ _) (fun _ hq => cardIn_shows h _ _ _ _ _ hq) hp
  | cardOut => exact shortRow_shows h _ _ _ (cardOut_data _) (fun _ hq => cardOut_shows h _ hq) hp
  | swapSeats => exact shortRow_shows h _ _ _ swapSeats_data (fun _ hq => swapSeats_shows h hq) hp
  | setTime i clock =>
    exact shortRow_shows (act := fun q => accept (setTime clock q)) h _ _ _ (fun _ => Nat.zero_le _)
      (fun _ hq => setTime_shows h _ hq) hp
  | ackLamp => exact shortRow_shows h _ _ _ (ackLamp_data _) (fun _ hq => ackLamp_shows h _ hq) hp
  | setLamp => exact shortRow_shows h _ _ _ (setLampRequest_data _ _) (fun _ hq => setLampRequest_shows h _ _ hq) hp
  | prove => exact longRow_shows h _ _ _ (fun _ _ hq => prove_shows h _ _ hq) hp
  | homePointer i which =>
    exact longRow_shows (act := fun t => homePointer i t which) h _ _ _ (fun _ _ hq => homePointer_shows h _ _ _ hq) hp
  | showPage => exact shortRow_shows h _ _ _ (showPage_data _) (fun _ hq => showPage_shows h _ hq) hp
  | snapshot => exact shortRow_shows h _ _ _ (snapshot_data _) (fun _ hq => snapshot_shows h _ hq) hp
  | restart i =>
    exact longRow_shows (act := fun t q => handRestarts (restartRequest i t q)) h _ _ _
      (fun _ _ hq => handRestarts_shows (hr rfl) (restartRequest_shows h _ _ hq)) hp
  | resetAssert | supplyBelowReset =>
    exact onlyIf_keeps _ (restartCause_shows (hr rfl) _ (setCtl_shows h _ hp)) hp
  | resetRelease | supplyAboveReset => exact onlyIf_keeps _ (initAgain_shows hi (setCtl_shows h _ hp)) hp
  | restartEnd strap ign belowDip now => exact restartEnd_shows (hr rfl) strap ign belowDip now hp
  | ignRise => exact onlyIf_closed (fun _ hq => ignChange_shows h _ (setFree_shows h _ hq)) _ hp
  | ignFall => exact onlyIf_keeps _ (ignChange_shows h _ hp) hp
  | parkEntry => exact onlyIf_keeps _ (parkCheck_shows h hp) hp
  | commitEnd => exact onlyIf_keeps _ (commitEnd_shows h (hw rfl) hp) hp
  | dipStart => exact onlyIf_keeps _ (dipStart_shows h hp) hp
  | recovery => exact onlyIf_keeps _ (recovery_shows h hp) hp
  | settleTimerExpiry => exact onlyIf_keeps _ (settleEnd_shows h hp) hp
  | provingTimerExpiry => exact onlyIf_keeps _ (provingTimerExpiry_shows h hp) hp
  | testToneEnd => exact onlyIf_keeps _ (stopTestTone_shows hla hp) hp
  | conversionSlot => exact onlyIf_keeps _ (conversionSlot_shows h _ hp) hp
  | conversionComplete => exact onlyIf_keeps _ (conversionComplete_shows h hp) hp
  | pulseEdge => exact pulseEdge_shows h _ _ _ hp
  | windowEnd => exact onlyIf_keeps _ (windowEnd_shows h _ hp) hp
  | discreteSample => exact onlyIf_keeps _ (discreteSample_shows h _ _ _ hp) hp
  | switchChange => exact onlyIf_keeps _ (switchChange_shows h _ _ hp) hp
  | motionTick => exact onlyIf_keeps _ (motionTick_shows h hp) hp
  | homingEnd => exact onlyIf_keeps _ (homingEnds_shows h _ hp) hp
  | coilPeriodBoundary => exact coilBoundary_shows h.toShowsPtrs hp
  | onDelayExpiry => exact onlyIf_keeps _ (onDelayExpiry_shows hla _ hp) hp
  | flashPhaseChange => exact onlyIf_keeps _ (flashChange_shows hla _ hp) hp
  | lampPeriodBoundary => exact lampBoundary_shows hla hp
  | senseCheck => exact onlyIf_keeps _ (senseCheck_shows hla _ hp) hp
  | overcurrent => exact onlyIf_keeps _ (overcurrent_shows hla _ hp) hp
  | chimeToneEnd => exact chimeToneEnd_shows hla hp
  | chimeGapEnd => exact chimeGapEnd_shows hla hp
  | secondTick => exact onlyIf_closed (fun _ hq => grantUnlessLive_closed h.toGrantClosed (secondTick_shows h hq)) _ hp
  | confirmTimerExpiry => exact onlyIf_keeps _ (confirmExpiry_shows ht hp) hp
  | journalSubmission =>
    exact onlyIf_closed (fun _ hq => grantUnlessLive_closed h.toGrantClosed (submit_shows h.toShowsJournal _ hq)) _ hp
  | panelRefresh => exact onlyIf_keeps _ (panelRefresh_shows hla hp) hp
  | messageDisplayTimeout => exact onlyIf_keeps _ (displayTimeout_shows hla hp) hp

/-! ### The link's own commands -/

/-- Closed under what the Link Port does as well, but for a byte stored in the configuration area. -/
structure ShowsHost (P : Part → Prop) : Prop extends ShowsControl P where
  stored : ∀ p a v, storedAddr a → P p → P (p.storeByte a v)
  clear : ∀ p high v, P p → P (clearNotices high v p)
  guard : ∀ p cause a v, P p → P (protectedWrite cause a v p)
  link : ∀ p x, P p → P { p with link := x }
  grantLink : ∀ p, P p → P p.grantLink

section
variable (h : ShowsHost P)
include h

theorem arbitrate_shows (a : Nat) (hp : P p) : P (arbitrate a p) := onlyIf_keeps _ (h.grantLink _ hp) hp

theorem keyWrite_shows (v : Byte) (hp : P p) : P (keyWrite v p) := by
  have hc := h.toShowsControl
  unfold keyWrite
  split
  next => exact ite_closed (setAccess_shows hc _ hp) hp
  next =>
    exact ite_closed (ite_closed (setAccess_shows hc _ hp) (h.notice _ _ nofun (setAccess_shows hc _ hp))) (setAccess_shows hc _ hp)
  next => exact ite_closed (commitAsked_shows hc hp) hp

theorem writeElsewhere_shows (hp : P p) : P (writeElsewhere p) := by
  unfold writeElsewhere
  split
  next => exact setAccess_shows h.toShowsControl _ hp
  iterate 2 exact hp

theorem offerReadMark_shows (v : Byte) (hp : P p) : P (offerReadMark v p) :=
  ite_closed (ite_closed hp (writeGap_shows h.toShowsJournal (h.jour _ _ hp))) (h.guard _ _ _ _ hp)

/-- R3: a byte written to the configuration area is stored while the access is OPEN alone. -/
theorem configWrite_shows (a : Nat) (v : Byte) (hs : p.ctl.access = .opened → ∀ q, P q → P (q.storeByte a v)) (hp : P p) :
    P (configWrite a v p) := by
  unfold configWrite
  split
  next ho => exact hs ho _ (commitOvertaken_shows h.toShowsControl hp)
  next => exact h.guard _ _ _ _ hp

end

theorem disposition_stored {a : Nat} (h : disposition a = .stored) : storedAddr a := by
  simp only [storedAddr, inRecord]
  grind (splits := 30) [disposition, noticeAddr, maskAddr]

theorem disposition_config {a : Nat} (h : disposition a = .config) : recordAddr a := by
  simp only [recordAddr, inRecord]
  grind (splits := 30) [disposition]

theorem recordAddr_config {a : Nat} (h : recordAddr a) : configByte a := by
  simp only [recordAddr, inRecord] at h
  simp only [configByte, configStart, configEnd]
  omega

/-- A byte that a WRITE transfer offers, once its access is granted. -/
theorem linkWrite_shows (h : ShowsHost P) (a : Nat) (v : Byte)
    (hs : p.ctl.access = .opened → recordAddr a → ∀ q, P q → P (q.storeByte a v)) (hp : P p) : P (linkWrite a v p) := by
  have he {q : Part} (hq : P q) : P (writeElsewhere q) := writeElsewhere_shows h hq
  unfold linkWrite
  split
  next => exact keyWrite_shows h _ hp
  next hd => exact he (h.stored _ _ _ (disposition_stored hd) hp)
  next => exact he (h.guard _ _ _ _ hp)
  next => exact he hp
  next hd => exact he (configWrite_shows h a v (fun ho => hs ho (disposition_config hd)) hp)
  iterate 2 exact he (h.clear _ _ _ hp)
  next => exact he (offerReadMark_shows h v hp)
  next => exact he (askScan_shows h.toShowsControl _ _ hp)

@[simp] theorem arbitrate_ctl (a : Nat) (p : Part) : (arbitrate a p).ctl = p.ctl := by
  unfold arbitrate onlyIf
  split <;> rfl

/-- What the Link Port keeps through a byte stored in the configuration area is kept by the link's own commands. -/
theorem execPart_link_shows (h : ShowsHost P)
    (hs : p.ctl.access = .opened → ∀ a v q, recordAddr a → P q → P (q.storeByte a v)) {c : Instr} (hl : linkCommand c) (hp : P p) :
    P (execPart c p) := by
  have served (a : Nat) (v : Byte) : P (servedWrite a v p) :=
    ite_closed (linkWrite_shows h a v (fun ho ha q hq => hs (by simpa using ho) a v q ha hq) (arbitrate_shows h a hp)) hp
  have data (v : Byte) : P (dataWrite v p) := by
    unfold dataWrite
    split
    next => exact h.link _ _ (served _ v)
    next => exact hp
  have register (a : Nat) (v : Byte) : P (registerWrite a v p) := by
    unfold registerWrite
    split
    next => exact ite_closed (data v) hp
    next => exact served a v
    next => exact hp
  have command (l : LinkState) : P (commandByte l p) := by
    unfold commandByte
    split
    next => exact h.link _ _ hp
    next => exact hp
  cases c with
  | selAssert =>
    simp only [execPart, selAssert]
    split
    next => exact h.link _ _ (h.link _ _ hp)
    next => exact hp
  | readCommand | writeCommand | ignore => exact command _
  | addressHigh =>
    simp only [execPart, addressHigh]
    split
    next => exact h.link _ _ hp
    next => exact hp
  | addressLow =>
    simp only [execPart, addressLow]
    split
    next => exact h.link _ _ hp
    next => exact hp
  | dataRead =>
    simp only [execPart, dataRead]
    split
    next => exact h.link _ _ (h.link _ _ (arbitrate_shows h _ hp))
    next => exact hp
  | dataWrite => exact data _
  | selRelease => exact h.link _ _ (h.link _ _ hp)
  | keyArm | keyCommit | keyOther | prompt | noticeClear | noticeMaskWrite | readMarkWrite => exact register _ _
  | _ => exact absurd hl id

/-! ### An idle microsecond -/

/-- One after another, each of them at its own place, is all of them at once. -/
theorem foldl_updAt {α : Type} {n : Nat} (f : Fin n → α → α) : ∀ (is : List (Fin n)) (v : Vector α n) (j : Fin n), is.Nodup →
    (is.foldl (fun v i => updAt i (f i) v) v)[j] = if j ∈ is then f j v[j] else v[j]
  | [], v, j, _ => by simp
  | i :: is, v, j, h => by
    obtain ⟨hi, hn⟩ := List.nodup_cons.1 h
    rw [List.foldl_cons, foldl_updAt f is _ j hn]
    by_cases e : i = j
    · subst e
      rw [if_neg hi, if_pos List.mem_cons_self]
      exact updAt_self i (f i) v
    · simp [updAt_other i j _ _ e, Ne.symm e]

theorem foldl_updAt_all {α : Type} {n : Nat} (f : Fin n → α → α) (v : Vector α n) :
    (List.finRange n).foldl (fun v i => updAt i (f i) v) v = Vector.ofFn fun i => f i v[i] := by
  ext j hj
  have := foldl_updAt f (List.finRange n) v ⟨j, hj⟩ (List.nodup_finRange n)
  simpa using this

/-- Lamps changed one after another. -/
theorem forEach_setLamp (f : Fin 32 → Lamp → Lamp) (is : List (Fin 32)) : ∀ p : Part,
    forEach is (fun i => setLamp i (f i)) p = { p with lamps := is.foldl (fun v i => updAt i (f i) v) p.lamps } := by
  induction is with
  | nil => intro p; rfl
  | cons i is ih => intro p; exact ih _

theorem forEach_setLamp_all (f : Fin 32 → Lamp → Lamp) (p : Part) :
    forEach allLamps (fun i => setLamp i (f i)) p = { p with lamps := Vector.ofFn fun i => f i p.lamps[i] } := by
  rw [forEach_setLamp, allLamps, foldl_updAt_all]

theorem runTimers_shows (h : ShowsControl P) (hp : P p) : P (runTimers p) := by
  have h1 := h.ctl { p with free := p.free + 1 } { p.ctl with
    settle := runDown p.ctl.settle
    proving := p.ctl.proving.map fun c => { c with timer := runDown c.timer } } rfl rfl rfl (h.free p _ hp)
  have h2 := forEach_closed (fun i _ hq => setLamp_shows h.toShowsLamps i (fun l => { l with onDelay := runDown l.onDelay }) hq)
    allLamps h1
  rw [forEach_setLamp_all] at h2
  have e : (Vector.ofFn fun i : Fin 32 => { p.lamps[i] with onDelay := runDown p.lamps[i].onDelay }) =
      p.lamps.map fun l => { l with onDelay := runDown l.onDelay } := by
    ext j hj
    simp
  have h3 := h.chime _ { p.chime with phase := p.chime.phase.runDown, test := runDown p.chime.test } (e ▸ h2)
  exact h.confirm _ (p.acct.confirm.map Confirm.runDown) h3

theorem idleStep_shows (h : ShowsControl P) (hp : P p) : P (idleStep p) := ite_closed hp (h.grant _ (runTimers_shows h hp))

end Sys2Proof.Machine
end

section
namespace Sys2Proof.Machine

variable {P : Part → Prop} {p : Part}

/-! ## What is kept through any command

A property closed under every write of the part, in the sense of Closed.lean, is closed in the finer sense too, and so is kept by
every command. -/

theorem MemClosed.toShowsMem (h : MemClosed P) : ShowsMem P where
  aside _ _ _ ha hp := h.store _ _ _ (asideRecord_own ha) hp
  notice _ _ _ hp := h.notice _ _ hp

theorem JournalClosed.toShowsJournal (h : JournalClosed P) : ShowsJournal P where
  toShowsMem := h.toMemClosed.toShowsMem
  jour _ _ hp := writeJournalControl_closed h (h.jour _ _ hp)

theorem LampClosed.toShowsLamps (h : LampClosed P) : ShowsLamps P where
  toShowsMem := h.toMemClosed.toShowsMem
  lamp _ _ _ _ hp := h.lamps _ _ hp
  lampShown _ _ _ hp := rewriteLamp_closed h.toMemClosed _ (h.lamps _ _ hp)
  lampsShown _ _ hp := forEach_closed (fun i _ hq => rewriteLamp_closed h.toMemClosed i hq) _ (h.lamps _ _ hp)
  lampU := h.lampU
  chime := h.chime
  panel := h.panel

theorem ChanClosed.toShowsChans (h : ChanClosed P) : ShowsChans P where
  toShowsLamps := h.toLampClosed.toShowsLamps
  ptr _ _ _ _ hp := h.ptrs _ _ hp
  ptrShown _ _ _ hp := rewritePtr_closed h.toMemClosed _ (h.ptrs _ _ hp)
  chan _ _ _ _ hp := h.chans _ _ hp
  chanShown _ _ _ hp := rewriteChan_closed h.toMemClosed _ (h.chans _ _ hp)

theorem ChanClosed.toShowsLoose (h : ChanClosed P) : ShowsLoose P where
  toShowsChans := h.toShowsChans
  jour := h.toJournalClosed.toShowsJournal.jour
  acct _ _ _ _ hp := h.acct _ _ hp
  records _ _ _ _ hp := rewriteAccounting_closed h.toMemClosed _ _ _ hp

/-- What every unit but the State Controller's work on its states keeps, and that work too. -/
theorem InputClosed.toShowsControl (h : InputClosed P) (hs : SlotClosed P)
    (ctl : ∀ p x, x.op = p.ctl.op → x.access = p.ctl.access → x.restart = p.ctl.restart → P p → P { p with ctl := x })
    (entered : ∀ p x, x ≠ .init → P p → P { p with ctl := { p.ctl with op := x } })
    (access : ∀ p x, P p → P { p with ctl := { p.ctl with access := x } }) (req : ∀ p x, P p → P { p with req := x })
    (ign : ∀ p x, P p → P { p with ign := x }) (homeReqs : ∀ p x, P p → P { p with homeReqs := x })
    (freeIdx : ∀ p x, P p → P { p with freeIdx := x }) : ShowsControl P where
  toShowsTold := h.toShowsLoose.toShowsTold
  jour := h.toShowsLoose.jour
  grant := hs.grant
  reading := hs.reading
  conv := h.conv
  free := h.free
  pulse := h.pulse
  sw := h.sw
  ctl := ctl
  entered _ _ hx hp := hs.grant _ (h.store _ _ _ (by simp [ownRecord]) (entered _ _ hx hp))
  access _ _ hp := hs.grant _ (h.store _ _ _ (by simp [ownRecord]) (access _ _ hp))
  req := req
  ign := ign
  homeReqs := homeReqs
  freeIdx := freeIdx
  head _ _ _ ha hp := h.store _ _ _ (headRecord_own ha) hp
  check := h.check
  slot := hs.slot
  answer := hs.answer
  clockEvent _ _ _ _ _ hf hp := writeClockMirror_closed h.toMemClosed
    (rewriteAccounting_closed h.toMemClosed _ _ _ (hf P h.toShowsLoose.toShowsWork _ (h.acct _ _ hp)))
  afresh _ _ _ hf hp := rewriteAccounting_closed h.toMemClosed _ _ _ (hf P h.toShowsLoose _ hp)

theorem ControlClosed.toShowsRestart (h : ControlClosed P) : ShowsRestart P where
  toShowsControl := h.toInputClosed.toShowsControl h.toSlotClosed (fun _ _ _ _ _ hp => h.ctl _ _ hp) (fun _ _ _ hp => h.ctl _ _ hp)
    (fun _ _ hp => h.ctl _ _ hp) h.req h.ign h.homeReqs h.freeIdx
  restart _ _ _ _ hp := h.ctl _ _ hp

theorem LinkClosed.toShowsHost (h : LinkClosed P) : ShowsHost P where
  toShowsControl := h.toShowsRestart.toShowsControl
  stored _ _ _ _ hp := h.anyMem _ _ _ hp
  clear _ _ _ hp := clearNotices_closed h.toOwnClosed _ _ hp
  guard _ _ _ _ hp := protectedWrite_closed h.toOwnClosed _ _ _ hp
  link := h.link
  grantLink := h.grantLink

/-- What every write of the part keeps, and INIT begun again, is kept by every command but the link's own and power-on. -/
theorem execPart_closed (h : ControlClosed P) (hi : p.ctl.op = .init → ∀ q, P q → P (initBegin q.link q)) {c : Instr}
    (hl : ¬ linkCommand c) (hc : c ≠ .powerOn) (hp : P p) : P (execPart c p) :=
  execPart_shows h.toShowsRestart.toShowsControl hi (fun _ => h.toShowsRestart) (fun _ => h.working) hl hc hp

/-- What every write of the part and of the host keeps is kept by the link's own commands. -/
theorem execPart_link_closed (h : LinkClosed P) {c : Instr} (hl : linkCommand c) (hp : P p) : P (execPart c p) :=
  execPart_link_shows h.toShowsHost (fun _ _ _ _ _ hq => h.anyMem _ _ _ hq) hl hp

/-! ## Properties of the memory and of what waits -/

/-- A property of the exchange memory and of the arbiter is kept by whatever asks for record accesses. -/
theorem inputClosed_of_arbiter {Q : Mem → Arbiter → Prop}
    (request : ∀ m r x, blockAccess x → Q m r → Q m { r with waiting := r.waiting ++ [x] }) : InputClosed fun p => Q p.exch p.arb where
  store _ _ _ h hp := request _ _ _ (.inl h) hp
  notice _ _ hp := request _ _ (.notice _) trivial hp
  check _ _ _ _ h hp := request _ _ _ h hp
  jour _ _ hp := hp
  lamps _ _ hp := hp
  lampU _ _ hp := hp
  chime _ _ hp := hp
  panel _ _ hp := hp
  ptrs _ _ hp := hp
  acct _ _ hp := hp
  chans _ _ hp := hp
  conv _ _ hp := hp
  free _ _ hp := hp
  pulse _ _ hp := hp
  sw _ _ hp := hp

/-- It is kept by every operation of the part, if it is kept by grants too. -/
theorem controlClosed_of_arbiter {Q : Mem → Arbiter → Prop}
    (request : ∀ m r x, blockAccess x → Q m r → Q m { r with waiting := r.waiting ++ [x] })
    (grant : ∀ m r l, l = r.last ∨ l = .record → Q m r → Q (grantAccesses m r.waiting) { r with last := l, waiting := [] }) :
    ControlClosed fun p => Q p.exch p.arb where
  toInputClosed := inputClosed_of_arbiter request
  slot _ i _ h1 h2 hp := request _ _ _ (.inr ⟨i, by simp [slotAddr], h1, h2⟩) hp
  answer _ _ _ h1 h2 hp := request _ _ _ ⟨h1, h2⟩ hp
  grant _ hp := grant _ _ _ (by split <;> simp) hp
  reading _ hp := grant _ _ _ (.inr rfl) hp
  ctl _ _ hp := hp
  req _ _ hp := hp
  ign _ _ hp := hp
  homeReqs _ _ hp := hp
  working _ _ hp := hp
  freeIdx _ _ hp := hp

/-- A property of the exchange memory and of what waits. -/
theorem controlClosed_of_arb {Q : Mem → List RecordAccess → Prop}
    (request : ∀ m w x, blockAccess x → Q m w → Q m (w ++ [x])) (grant : ∀ m w, Q m w → Q (grantAccesses m w) []) :
    ControlClosed fun p => Q p.exch p.arb.waiting :=
  controlClosed_of_arbiter (Q := fun m r => Q m r.waiting) (fun _ _ _ => request _ _ _) fun _ _ _ _ => grant _ _

/-! ## The bytes that no block writes -/

/-- R7: what a block asks for leaves every byte that is neither the part's own nor a request slot's. -/
theorem blockAccess_avoids {x : RecordAccess} (h : blockAccess x) {k : Nat} (hk : ¬ (partByte k ∨ slotByte k)) : x.avoids k := by
  simp only [partByte_iff, slotByte_iff] at hk
  cases x with
  | write a bs =>
    simp only [RecordAccess.avoids]
    rcases h with h | ⟨i, rfl, h1, h2⟩
    · obtain ⟨-, -, h⟩ := h
      omega
    · have := i.isLt
      omega
  | notice n =>
    simp only [RecordAccess.avoids]
    omega
  | checkFailure area slot bytes =>
    simp only [RecordAccess.avoids]
    omega
  | answer i bs =>
    obtain ⟨h1, h2⟩ := h
    have := i.isLt
    simp only [RecordAccess.avoids, slotAddr]
    omega

/-- A byte that each of them leaves, and REPLY too, reads as before however many are granted. -/
theorem memRead_grantSome_out (k : Nat) : ∀ (n : Nat) (m : Mem) (w : List RecordAccess), Memory.wf m = true →
    (∀ x ∈ w, x.avoids k) → memRead (grantSome n m w).1 k = memRead m k
  | 0, _, _, _, _ => rfl
  | n + 1, m, [], _, _ => by simp
  | n + 1, m, x :: w, hm, h => by
    obtain ⟨hx, hw⟩ := List.forall_mem_cons.1 h
    rw [grantSome_cons, memRead_grantSome_out k n _ _ (pieces_wf x m hm) fun y hy => ?_,
      memRead_memWriteAll_out _ _ _ hm (pieces_avoid hx m)]
    rcases List.mem_append.1 hy with hy | hy
    · exact next_avoid hx m y hy
    · exact hw y hy

/-- The exchange memory is canonical, what waits is what blocks ask for, and these bytes read as in `m`. -/
def HostBytes (A : Nat → Prop) (m : Mem) (n : Mem) (w : List RecordAccess) : Prop :=
  Memory.wf n = true ∧ (∀ x ∈ w, blockAccess x) ∧ ∀ a, A a → memRead n a = memRead m a

/-- A byte written elsewhere. -/
theorem HostBytes.memWrite {A : Nat → Prop} {m n : Mem} {w : List RecordAccess} {a : Nat} (v : Byte) (ha : ¬ A a) (h : HostBytes A m n w) : HostBytes A m (memWrite n a v) w := by
  obtain ⟨hn, hw, hb⟩ := h
  exact ⟨memWrite_wf _ _ _ hn, hw, fun k hk => (memRead_memWrite_other n a k v hn fun e => ha (e ▸ hk)).trans (hb k hk)⟩

section
variable {A : Nat → Prop} (hA : ∀ a, A a → ¬ (partByte a ∨ slotByte a)) {m n : Mem} {w : List RecordAccess}
include hA

theorem HostBytes.granted (h : HostBytes A m n w) : HostBytes A m (grantAccesses n w) [] := by
  obtain ⟨hn, hw, hb⟩ := h
  refine ⟨grantAccesses_wf _ _ hn, by simp, fun a ha => ?_⟩
  rw [memRead_grantAccesses_out w a n hn fun x hx => blockAccess_avoids (hw x hx) (hA a ha), hb a ha]

theorem hostBytes_controlClosed : ControlClosed fun p => HostBytes A m p.exch p.arb.waiting :=
  controlClosed_of_arb
    (fun _ _ _ hx ⟨hn, hw, hb⟩ => ⟨hn, fun y hy => (List.mem_append.1 hy).elim (hw y) fun e => List.mem_singleton.1 e ▸ hx, hb⟩)
    (fun _ _ h => h.granted hA)

/-- The Link Port keeps them too, where it stores none of them. -/
theorem hostBytes_showsHost (hs : ∀ a, A a → ¬ storedAddr a) : ShowsHost fun p => HostBytes A m p.exch p.arb.waiting := by
  have own : OwnClosed fun p => HostBytes A m p.exch p.arb.waiting :=
    ⟨fun _ a v ha hp => hp.memWrite v fun h => hA a h (.inl ha)⟩
  exact {
    toShowsControl := (hostBytes_controlClosed hA).toShowsRestart.toShowsControl
    stored := fun _ a v ha hp => hp.memWrite v fun h => hs a h ha
    clear := fun _ _ _ hp => clearNotices_closed own _ _ hp
    guard := fun _ _ _ _ hp => protectedWrite_closed own _ _ _ hp
    link := fun _ _ hp => hp
    grantLink := fun p ⟨hn, hw, hb⟩ => ⟨grantSome_wf _ _ _ hn, grantSome_keeps_blockAccess _ _ _ hw, fun a ha =>
      (memRead_grantSome_out a _ _ _ hn fun x hx => blockAccess_avoids (hw x hx) (hA a ha)).trans (hb a ha)⟩ }

end

/-- A byte that no block writes reads alike before and after what waits is granted. -/
theorem memRead_mem_of_waitingLaw {p : Part} (hm : Memory.wf p.exch = true) (hw : WaitingLaw p) {a : Nat}
    (ha : ¬ (partByte a ∨ slotByte a)) : memRead p.mem a = memRead p.exch a :=
  memRead_grantAccesses_out _ a _ hm fun x hx => blockAccess_avoids (hw x hx) ha

theorem configByte_not_own {a : Nat} (h : configByte a) : ¬ (partByte a ∨ slotByte a) := by
  simp only [configByte, configStart, configEnd] at h
  simp only [partByte_iff, slotByte_iff]
  omega

theorem configByte_not_stored {a : Nat} (h : configByte a) : ¬ storedAddr a := by
  simp only [configByte, configStart, configEnd] at h
  simp only [storedAddr, inRecord]
  omega

/-! ## The working configuration -/

theorem working_inputClosed (x : Mem) : InputClosed fun p => p.working = x where
  store _ _ _ _ hp := hp
  notice _ _ hp := hp
  check _ _ _ _ _ hp := hp
  jour _ _ hp := hp
  lamps _ _ hp := hp
  lampU _ _ hp := hp
  chime _ _ hp := hp
  panel _ _ hp := hp
  ptrs _ _ hp := hp
  acct _ _ hp := hp
  chans _ _ hp := hp
  conv _ _ hp := hp
  free _ _ hp := hp
  pulse _ _ hp := hp
  sw _ _ hp := hp

/-- R50: the State Controller and the Request Unit leave the working configuration but where a commit ends. -/
theorem working_showsRestart (x : Mem) : ShowsRestart fun p => p.working = x where
  toShowsControl := (working_inputClosed x).toShowsControl
    { toMemClosed := (working_inputClosed x).toMemClosed, grant := fun _ hp => hp, reading := fun _ hp => hp
      slot := fun _ _ _ _ _ hp => hp, answer := fun _ _ _ _ _ hp => hp }
    (fun _ _ _ _ _ hp => hp) (fun _ _ _ hp => hp) (fun _ _ hp => hp) (fun _ _ hp => hp) (fun _ _ hp => hp) (fun _ _ hp => hp)
    (fun _ _ hp => hp)
  restart _ _ _ _ hp := hp

theorem working_showsHost (x : Mem) : ShowsHost fun p => p.working = x where
  toShowsControl := (working_showsRestart x).toShowsControl
  stored _ _ _ _ hp := hp
  clear _ _ _ hp := clearNotices_closed (P := fun p => p.working = x) ⟨fun _ _ _ _ hp => hp⟩ _ _ hp
  guard _ _ _ _ hp := protectedWrite_closed (P := fun p => p.working = x) ⟨fun _ _ _ _ hp => hp⟩ _ _ _ hp
  link _ _ hp := hp
  grantLink _ hp := hp

/-! ## The host's bytes -/

theorem execPart_keeps_working {c : Instr} (hi : p.ctl.op ≠ .init) (hc : c ≠ .powerOn) (he : c ≠ .commitEnd) :
    (execPart c p).working = p.working := by
  by_cases hl : linkCommand c
  · exact execPart_link_shows (working_showsHost p.working) (fun _ _ _ _ _ hq => hq) hl rfl
  · exact execPart_shows (working_showsRestart p.working).toShowsControl (absurd · hi) (fun _ => working_showsRestart _)
      (absurd · he) hl hc rfl

theorem execPart_keeps_WaitingLaw {c : Instr} (hi : p.ctl.op ≠ .init) (hc : c ≠ .powerOn) (hw : WaitingLaw p) :
    WaitingLaw (execPart c p) := by
  by_cases hl : linkCommand c
  · exact execPart_link_closed waitingLaw_linkClosed hl hw
  · exact execPart_closed waitingLaw_linkClosed.toControlClosed (absurd · hi) hl hc hw

/-- A set of bytes, none of them the part's own or a request slot's, that a command reads through leaves as they were: one of the
part's own, or one over the link that neither stores them nor finds the access OPEN. -/
theorem execPart_keeps_bytes {A : Nat → Prop} (hA : ∀ a, A a → ¬ (partByte a ∨ slotByte a)) {c : Instr}
    (hs : linkCommand c → ∀ a, A a → ¬ storedAddr a) (ho : linkCommand c → p.ctl.access ≠ .opened) (hi : p.ctl.op ≠ .init)
    (hc : c ≠ .powerOn) (hm : Memory.wf p.exch = true) (hw : WaitingLaw p) :
    ∀ a, A a → memRead (execPart c p).mem a = memRead p.mem a := by
  have hp : HostBytes A p.exch p.exch p.arb.waiting := ⟨hm, hw, fun _ _ => rfl⟩
  have hq : HostBytes A p.exch (execPart c p).exch (execPart c p).arb.waiting := by
    by_cases hl : linkCommand c
    · exact execPart_link_shows (hostBytes_showsHost hA (hs hl)) (absurd · (ho hl)) hl hp
    · exact execPart_closed (hostBytes_controlClosed hA) (absurd · hi) hl hc hp
  obtain ⟨hn, hx, hb⟩ := hq
  intro a ha
  rw [memRead_mem_of_waitingLaw hn hx (hA a ha), memRead_mem_of_waitingLaw hm hw (hA a ha), hb a ha]

/-- Settles O59: every write of the part leaves the host's bytes, the Link Port stores none of the configuration area but while
OPEN, and the end of a commit alone takes a working configuration. -/
theorem hostBytesChangeOverTheLinkAlone : Obligations.HostBytesChangeOverTheLinkAlone := by
  intro s t c hm hw hi hc he
  obtain rfl := exec_next he
  exact ⟨execPart_keeps_WaitingLaw hi hc hw,
    fun hl => execPart_keeps_bytes (A := fun a => ¬ (partByte a ∨ slotByte a)) (fun _ => id) (absurd · hl) (absurd · hl) hi hc hm hw,
    fun ho => execPart_keeps_bytes (fun _ => configByte_not_own) (fun _ _ => configByte_not_stored) (fun _ => ho) hi hc hm hw,
    execPart_keeps_working hi hc⟩

end Sys2Proof.Machine
end

section
namespace Sys2Proof.Machine

variable {p : Part}

/-! ## What the records show -/

/-! ### Reading runs of bytes -/

theorem memReadN_congr {m n : Mem} : ∀ {k a : Nat}, (∀ j, inRecord a k j → memRead n j = memRead m j) →
    memReadN n a k = memReadN m a k
  | 0, _, _ => rfl
  | k + 1, a, h => by
    simp only [memReadN]
    rw [h a (by simp [inRecord]), memReadN_congr fun j hj => h j (by simp only [inRecord] at hj ⊢; omega)]

/-- The bytes of a record write read back. -/
theorem memReadN_memWriteN (m : Mem) (a : Nat) (bs : List Byte) (h : Memory.wf m = true) :
    memReadN (memWriteN m a bs) a bs.length = bs := by
  refine List.ext_getElem (by simp) fun k h1 h2 => ?_
  have e := memReadN_getD (memWriteN m a bs) bs.length a k h2
  rw [memRead_memWriteN_in bs m a (a + k) h (by omega) (by omega), Nat.add_sub_cancel_left] at e
  simpa [List.getD_eq_getElem?_getD, h1, h2] using e

/-- A run of bytes reads as its front and the rest. -/
theorem memReadN_append (m : Mem) (j k : Nat) : ∀ a, memReadN m a (j + k) = memReadN m a j ++ memReadN m (a + j) k := by
  induction j with
  | zero => intro a; simp [memReadN]
  | succ j ih => intro a; rw [Nat.succ_add, memReadN, ih, memReadN]; simp [Nat.add_assoc, Nat.add_comm 1 j]

/-- R10: what a rewrite writes shows the body between two equal edition bytes. -/
theorem recordShows_memWriteN (m : Mem) (a : Nat) (e : Byte) (body : List Byte) (h : Memory.wf m = true) :
    recordShows (memWriteN m a (e :: (body ++ [e]))) a (body.length + 2) body := by
  have hall := memReadN_memWriteN m a (e :: (body ++ [e])) h
  have hl : (e :: (body ++ [e])).length = 1 + (body.length + 1) := by simp; omega
  rw [hl, memReadN_append, memReadN_append] at hall
  generalize memWriteN m a _ = n at hall ⊢
  simp only [memReadN, List.singleton_append, List.cons.injEq] at hall
  obtain ⟨h1, h2⟩ := hall
  obtain ⟨h3, h4⟩ := List.append_inj h2 (by simp)
  refine ⟨by simpa using h3, ?_⟩
  rw [h1, show a + (body.length + 2) - 1 = a + 1 + body.length by omega]
  exact (List.head_eq_of_cons_eq h4).symm

/-! ### The records -/

/-- The records that show the part's running state. -/
inductive ShownRecord
  | state | clock | control
  | chan (c : Fin 32) | ptr (i : Fin 6) | lamp (i : Fin 32)
  | summary | seat (id : SeatId)
  deriving DecidableEq

/-- Where a record lies. -/
def ShownRecord.addr : ShownRecord → Nat
  | .state => 2 | .clock => clockMirrorAddr | .control => journalControlAddr
  | .chan c => chanResultAddr c | .ptr i => ptrResultAddr i | .lamp i => lampResultAddr i
  | .summary => summaryAddr | .seat id => seatAddr id

/-- How many bytes a record has; the control record with its spare bytes. -/
def ShownRecord.len : ShownRecord → Nat
  | .state => 2 | .clock => 5 | .control => 16
  | .chan _ => 16 | .ptr _ => 16 | .lamp _ => 8
  | .summary => 32 | .seat _ => 64

/-- The record's bytes. -/
def ShownRecord.byte (r : ShownRecord) (k : Nat) : Prop := inRecord r.addr r.len k

/-- What it is for a record to show a body: the header's and the control record as they stand, a result record between its
edition bytes. -/
def ShownRecord.shows (r : ShownRecord) (m : Mem) (body : List Byte) : Prop :=
  match r with
  | .state => memReadN m 2 2 = body
  | .clock => memReadN m 0x0E 5 = body
  | .control => memReadN m 0x1E0 6 = body
  | .chan c => recordShows m (chanResultAddr c) 16 body
  | .ptr i => recordShows m (ptrResultAddr i) 16 body
  | .lamp i => recordShows m (lampResultAddr i) 8 body
  | .summary => recordShows m summaryAddr 32 body
  | .seat id => recordShows m (seatAddr id) 64 body

theorem recordShows_congr {m n : Mem} {a len : Nat} {body : List Byte} (hl : 2 ≤ len)
    (h : ∀ k, inRecord a len k → memRead n k = memRead m k) (hs : recordShows m a len body) : recordShows n a len body := by
  obtain ⟨h1, h2⟩ := hs
  refine ⟨(memReadN_congr fun k hk => h k ?_).trans h1, ?_⟩
  · simp only [inRecord] at hk ⊢
    omega
  · rw [h a (by simp only [inRecord]; omega), h (a + len - 1) (by simp only [inRecord]; omega), h2]

/-- A record shows what it showed while its bytes are as they were. -/
theorem ShownRecord.shows_congr {r : ShownRecord} {m n : Mem} {body : List Byte} (h : ∀ k, r.byte k → memRead n k = memRead m k)
    (hs : r.shows m body) : r.shows n body := by
  cases r with
  | state | clock => exact (memReadN_congr h).trans hs
  | control => exact (memReadN_congr fun k hk => h k ⟨hk.1, Nat.lt_trans hk.2 (by simp [addr, len, journalControlAddr])⟩).trans hs
  | chan | ptr | lamp | summary | seat => exact recordShows_congr (by simp) h hs

/-- The records of the Accounting Unit. -/
def ShownRecord.accounting : ShownRecord → Prop
  | .summary | .seat _ => True
  | .state | .clock | .control | .chan _ | .ptr _ | .lamp _ => False

/-- What a record shows of the part, where the accounting records show the Accounting Unit as it was at `a`. -/
def ShownRecord.body (a : Acct) (p : Part) : ShownRecord → List Byte
  | .state => [p.ctl.op.code, p.ctl.access.code]
  | .clock => leBytes 4 p.acct.clock.toNat ++ [flagByte p.acct.timeValid]
  | .control => [BitVec.ofNat 8 p.jour.wm.val, BitVec.ofNat 8 p.jour.rm.val] ++ leBytes 2 p.jour.lost.toNat ++ leBytes 2 p.jour.seq.toNat
  | .chan c => chanBody p.chans[c]
  | .ptr i => ptrBody p.ptrs[i]
  | .lamp i => lampBody p.lamps[i]
  | .summary => summaryBody a
  | .seat id => seatBody a id

/-- The record that a byte belongs to, if it belongs to one. -/
def ShownRecord.holder (k : Nat) : ShownRecord :=
  if k < 4 then .state else if k < 0x13 then .clock else if k < 0x1F0 then .control
  else if k < 0x500 then .chan (Fin.ofNat 32 ((k - 0x300) / 16)) else if k < 0x560 then .ptr (Fin.ofNat 6 ((k - 0x500) / 16))
  else if k < 0x680 then .lamp (Fin.ofNat 32 ((k - 0x580) / 8)) else if k < 0x6A0 then .summary
  else if k < 0x6E0 then .seat .one else .seat .two

/-- The bytes that the records have among them. -/
def shownByte (k : Nat) : Prop :=
  (2 ≤ k ∧ k < 4) ∨ (0x0E ≤ k ∧ k < 0x13) ∨ (0x1E0 ≤ k ∧ k < 0x1F0) ∨ (0x300 ≤ k ∧ k < 0x720)

/-- A record's bytes are the part's own, hold no notice and no error record, and are held by it. -/
theorem ShownRecord.byte_holder {r : ShownRecord} {k : Nat} (h : r.byte k) :
    holder k = r ∧ shownByte k := by
  simp only [byte, inRecord] at h
  unfold shownByte
  cases r with
  | state | clock | control | summary =>
    simp only [addr, len, clockMirrorAddr, journalControlAddr, summaryAddr] at h
    grind [holder]
  | chan c =>
    simp only [addr, len, chanResultAddr] at h
    have e : Fin.ofNat 32 ((k - 0x300) / 16) = c := Fin.ext (by rw [Fin.val_ofNat]; omega)
    grind [holder]
  | ptr i =>
    simp only [addr, len, ptrResultAddr] at h
    have e : Fin.ofNat 6 ((k - 0x500) / 16) = i := Fin.ext (by rw [Fin.val_ofNat]; omega)
    grind [holder]
  | lamp i =>
    simp only [addr, len, lampResultAddr] at h
    have e : Fin.ofNat 32 ((k - 0x580) / 8) = i := Fin.ext (by rw [Fin.val_ofNat]; omega)
    grind [holder]
  | seat id => cases id <;> simp only [addr, len, seatAddr] at h <;> grind [holder]

/-- No byte belongs to two records. -/
theorem ShownRecord.byte_unique {r r' : ShownRecord} {k : Nat} (h : r.byte k) (h' : r'.byte k) : r = r' :=
  (byte_holder h).1.symm.trans (byte_holder h').1

end Sys2Proof.Machine
end

section
namespace Sys2Proof.Machine

variable {p q : Part} {a : Acct}

/-- The exchange memory is canonical, and what waits is what blocks ask for. -/
def Sound (p : Part) : Prop := Memory.wf p.exch = true ∧ WaitingLaw p

theorem sound_linkClosed : LinkClosed Sound where
  toControlClosed := controlClosed_of_arb (Q := fun m w => Memory.wf m = true ∧ ∀ x ∈ w, blockAccess x)
    (fun _ _ _ hx ⟨hm, hw⟩ => ⟨hm, fun y hy => (List.mem_append.1 hy).elim (hw y) fun e => List.mem_singleton.1 e ▸ hx⟩)
    fun _ _ ⟨hm, _⟩ => ⟨grantAccesses_wf _ _ hm, fun _ hx => absurd hx List.not_mem_nil⟩
  anyMem _ _ _ h := ⟨memWrite_wf _ _ _ h.1, h.2⟩
  link _ _ h := h
  grantLink _ h := ⟨grantSome_wf _ _ _ h.1, grantSome_keeps_blockAccess _ _ _ h.2⟩

theorem sound_memClosed : MemClosed Sound := sound_linkClosed.toControlClosed.toChanClosed.toMemClosed

/-! ### One record rewritten -/

/-- `q` is the part with one record rewritten, once what waits is granted. -/
structure Rewrites (r : ShownRecord) (p q : Part) : Prop where
  sound : Sound q
  part : q = { p with exch := q.exch, arb := q.arb }
  bytes : ∀ k, ¬ r.byte k → memRead q.mem k = memRead p.mem k
  shown : r.shows q.mem (r.body p.acct p)

/-- A record's bytes written, and nothing else. -/
theorem Rewrites.of_write {r : ShownRecord} {bs : List Byte} (hp : Sound p) (hq : Sound q)
    (part : q = { p with exch := q.exch, arb := q.arb }) (hm : q.mem = memWriteN p.mem r.addr bs) (hl : bs.length ≤ r.len)
    (shown : r.shows q.mem (r.body p.acct p)) : Rewrites r p q where
  sound := hq
  part := part
  bytes k hk := by
    rw [hm]
    refine memRead_memWriteN_out _ _ _ _ (mem_wf p hp.1) ?_
    simp only [ShownRecord.byte, inRecord] at hk
    omega
  shown := shown

theorem editioned_length (m : Mem) (x : Nat) (body : List Byte) : (editioned m x body).length = body.length + 2 := by
  simp [editioned]

/-- R10: a result record rewritten between its edition bytes. -/
theorem Rewrites.of_edition {r : ShownRecord} {body : List Byte} (hp : Sound p) (hq : Sound q)
    (part : q = { p with exch := q.exch, arb := q.arb }) (hm : q.mem = memWriteN p.mem r.addr (editioned p.mem r.addr body))
    (hl : body.length + 2 = r.len) (shown : ∀ m, recordShows m r.addr r.len body → r.shows m (r.body p.acct p)) :
    Rewrites r p q :=
  .of_write hp hq part hm (by rw [editioned_length, hl])
    (shown _ (hm ▸ hl ▸ recordShows_memWriteN _ _ _ _ (mem_wf p hp.1)))

theorem rewriteRecord_rewrites {r : ShownRecord} {body : List Byte} (h : Sound p) (hq : Sound (p.rewriteRecord r.addr body)) (hl : body.length + 2 = r.len)
    (shown : ∀ m, recordShows m r.addr r.len body → r.shows m (r.body p.acct p)) : Rewrites r p (p.rewriteRecord r.addr body) :=
  .of_edition h hq rfl (request_mem _ _) hl shown

theorem rewriteLongRecord_rewrites {r : ShownRecord} {body : List Byte} (h : Sound p)
    (hq : Sound (p.rewriteLongRecord r.addr body)) (hl : body.length + 2 = r.len) (shown : ∀ m, recordShows m r.addr r.len body → r.shows m (r.body p.acct p)) :
    Rewrites r p (p.rewriteLongRecord r.addr body) := by
  have e : p.rewriteLongRecord r.addr body = { p with exch := p.exch, arb := (p.rewriteLongRecord r.addr body).arb } := by
    rw [show p.rewriteLongRecord r.addr body = p.storeRun r.addr (editioned p.mem r.addr body) from rfl, storeRun_eq]
  exact .of_edition h hq (by rw [e]) ((rewriteLongRecord_mem p _ _ h.1).trans (request_mem _ _)) hl shown

theorem rewriteChan_rewrites (c : Fin 32) (h : Sound p) : Rewrites (.chan c) p (rewriteChan c p) :=
  rewriteRecord_rewrites (r := .chan c) h (rewriteChan_closed sound_memClosed c h) (by rw [chanBody_length]; rfl) fun _ hs => hs

theorem rewritePtr_rewrites (i : Fin 6) (h : Sound p) : Rewrites (.ptr i) p (rewritePtr i p) :=
  rewriteRecord_rewrites (r := .ptr i) h (rewritePtr_closed sound_memClosed i h) (by rw [ptrBody_length]; rfl) fun _ hs => hs

theorem rewriteLamp_rewrites (i : Fin 32) (h : Sound p) : Rewrites (.lamp i) p (rewriteLamp i p) :=
  rewriteRecord_rewrites (r := .lamp i) h (rewriteLamp_closed sound_memClosed i h) (by rw [lampBody_length]; rfl) fun _ hs => hs

theorem rewriteSummary_rewrites (h : Sound p) : Rewrites .summary p (rewriteSummary p) :=
  rewriteRecord_rewrites (r := .summary) h (rewriteSummary_closed sound_memClosed h) (by rw [summaryBody_length]; rfl) fun _ hs => hs

theorem rewriteSeat_rewrites (id : SeatId) (h : Sound p) : Rewrites (.seat id) p (rewriteSeat id p) :=
  rewriteLongRecord_rewrites (r := .seat id) h (rewriteSeat_closed sound_memClosed id h) (by rw [seatBody_length]; rfl) fun _ hs => hs

theorem writeClockMirror_rewrites (h : Sound p) : Rewrites .clock p (writeClockMirror p) := by
  have hm : (writeClockMirror p).mem = memWriteN p.mem clockMirrorAddr (ShownRecord.body p.acct p .clock) := request_mem _ _
  refine .of_write h (writeClockMirror_closed sound_memClosed h) rfl hm (by simp [ShownRecord.len, ShownRecord.body]) ?_
  rw [hm]
  exact memReadN_memWriteN _ _ _ (mem_wf p h.1)

theorem writeJournalControl_rewrites (h : Sound p) : Rewrites .control p (writeJournalControl p) := by
  generalize hb : ShownRecord.body p.acct p .control = body
  have hl : body.length = 6 := by simp [← hb, ShownRecord.body]
  have e : writeJournalControl p = p.store journalControlAddr (body ++ zeros 10) := by
    simp [writeJournalControl, ← hb, ShownRecord.body]
  have hm : (writeJournalControl p).mem = memWriteN p.mem journalControlAddr (body ++ zeros 10) :=
    (congrArg Part.mem e).trans (request_mem _ _)
  refine .of_write h (writeJournalControl_closed sound_linkClosed.toControlClosed.toJournalClosed h) rfl hm (by simp [hl, ShownRecord.len]) ?_
  have hr := memReadN_memWriteN p.mem journalControlAddr (body ++ zeros 10) (mem_wf p h.1)
  rw [← hm, List.length_append, memReadN_append, hl] at hr
  rw [hb]
  exact (List.append_inj hr (by rw [memReadN_length, hl])).1

theorem writeStateBytes_rewrites (h : Sound p) : Rewrites .state p (writeStateBytes p) := by
  have hm : (writeStateBytes p).mem = memWriteN p.mem 2 (ShownRecord.body p.acct p .state) :=
    (Part.grantAll_mem _).trans (request_mem _ _)
  refine .of_write h (writeStateBytes_closed sound_linkClosed.toControlClosed h) rfl hm (by simp [ShownRecord.len, ShownRecord.body]) ?_
  rw [hm]
  exact memReadN_memWriteN _ _ _ (mem_wf p h.1)

/-! ### What is shown -/

/-- The memory and what waits are sound, and once what waits is granted the records in `S` show the running state, those of the Accounting
Unit as `f` makes it. -/
def Shows (S : ShownRecord → Prop) (f : Acct → Acct) (p : Part) : Prop :=
  Sound p ∧ ∀ r, S r → r.shows p.mem (r.body (f p.acct) p)

variable {S T : ShownRecord → Prop} {f g : Acct → Acct}

/-- What does not write a shown record, and changes no running state that one shows. -/
theorem Shows.frame (h : Shows S f p) (hq : Sound q)
    (hb : ∀ r, S r → r.body (f q.acct) q = r.body (f p.acct) p)
    (hm : ∀ r k, S r → r.byte k → memRead q.mem k = memRead p.mem k) : Shows S f q :=
  ⟨hq, fun r hr => hb r hr ▸ ShownRecord.shows_congr (fun k hk => hm r k hr hk) (h.2 r hr)⟩

/-- A record access that no shown record has bytes of. -/
theorem Shows.request {x : RecordAccess} (h : Shows S f p) (hb : blockAccess x) (hx : ∀ r k, S r → r.byte k → x.avoids k) : Shows S f (p.request x) :=
  h.frame ⟨h.1.1, request_keeps_WaitingLaw hb h.1.2⟩ (fun _ _ => rfl) fun r k hr hk => by
    rw [request_mem, memRead_effect_out x k _ (mem_wf p h.1.1) (hx r k hr hk)]

/-- A record rewritten, and with it, as the records after it show, the running state that it shows. -/
theorem Rewrites.shows {r₀ : ShownRecord} (hw : Rewrites r₀ p q) (h : ∀ r, S r → r ≠ r₀ → r.shows p.mem (r.body (f p.acct) p))
    (hf : S r₀ → r₀.body (f p.acct) p = r₀.body p.acct p) : Shows S f q := by
  refine ⟨hw.sound, fun r hr => ?_⟩
  have hb : r.body (f q.acct) q = r.body (f p.acct) p := by rw [hw.part]; rfl
  rw [hb]
  by_cases e : r = r₀
  · subst e
    exact hf hr ▸ hw.shown
  · exact ShownRecord.shows_congr (fun k hk => hw.bytes k fun hk' => e (ShownRecord.byte_unique hk hk')) (h r hr e)

end Sys2Proof.Machine
end

section
namespace Sys2Proof.Machine

variable {p q : Part} {a : Acct} {S T : ShownRecord → Prop} {f : Acct → Acct}

/-! ### What the operations keep shown -/

/-- A running state changes with the rewrite of the one record that shows it. -/
theorem Shows.rewritten {r₀ : ShownRecord} {p' : Part} (h : Shows S f p) (hw : Rewrites r₀ p' q)
    (hb : ∀ r, r ≠ r₀ → r.body (f p'.acct) p' = r.body (f p.acct) p) (hm : p'.mem = p.mem := by exact rfl)
    (hf : r₀.body (f p'.acct) p' = r₀.body p'.acct p' := by exact rfl) : Shows S f q :=
  hw.shows (fun r hr hn => hm.symm ▸ (hb r hn).symm ▸ h.2 r hr) fun _ => hf

theorem ShownRecord.aside_avoids {r : ShownRecord} {b n k : Nat} (h : asideRecord b n) (hk : r.byte k) : ¬ (b ≤ k ∧ k < b + n) := by
  obtain ⟨-, -, h⟩ := h
  obtain ⟨-, hk⟩ := byte_holder hk
  unfold shownByte at hk
  omega

theorem shows_showsMem (S : ShownRecord → Prop) (f : Acct → Acct) : ShowsMem (Shows S f) where
  aside _ _ _ ha hp := hp.request (.inl (asideRecord_own ha)) fun _ _ _ hk => ShownRecord.aside_avoids ha hk
  notice _ n _ hp := hp.request (x := .notice n) trivial fun _ _ _ hk => by
    obtain ⟨-, hk⟩ := ShownRecord.byte_holder hk
    simp only [RecordAccess.avoids, shownByte] at hk ⊢
    omega

theorem shows_showsJournal (S : ShownRecord → Prop) (f : Acct → Acct) : ShowsJournal (Shows S f) where
  toShowsMem := shows_showsMem S f
  jour p x hp := hp.rewritten (p' := { p with jour := x }) (writeJournalControl_rewrites hp.1) fun r hr => by
    cases r with
    | control => exact absurd rfl hr
    | _ => rfl

/-- Lamps rewritten one after another. -/
theorem rewriteLamps_shows (is : List (Fin 32)) : ∀ p : Part, Shows (fun r => S r ∧ ∀ i ∈ is, r ≠ .lamp i) f p →
    Shows S f (forEach is rewriteLamp p) := by
  induction is with
  | nil => intro p h; exact ⟨h.1, fun r hr => h.2 r ⟨hr, by simp⟩⟩
  | cons i is ih =>
    intro p h
    refine ih _ ((rewriteLamp_rewrites i h.1).shows (fun r hr hn => h.2 r ⟨hr.1, fun j hj => ?_⟩) fun _ => rfl)
    rcases List.mem_cons.1 hj with rfl | hj
    · exact hn
    · exact hr.2 j hj

theorem shows_showsLamps (S : ShownRecord → Prop) (f : Acct → Acct) : ShowsLamps (Shows S f) where
  toShowsMem := shows_showsMem S f
  lamp p i g hg hp := hp.frame hp.1 (fun r _ => by
    cases r with
    | lamp j =>
      simp only [ShownRecord.body, setLamp]
      by_cases e : i = j
      · subst e; rw [updAt_self, hg]
      · rw [updAt_other i j _ _ e]
    | _ => rfl) fun _ _ _ _ => rfl
  lampShown p i g hp := hp.rewritten (p' := setLamp i g p) (rewriteLamp_rewrites i hp.1) fun r hr => by
    cases r with
    | lamp j => simp only [ShownRecord.body, setLamp]; rw [updAt_other i j _ _ fun e => hr (e ▸ rfl)]
    | _ => rfl
  lampsShown p v hp := rewriteLamps_shows _ _ ⟨hp.1, fun r hr => by
    cases r with
    | lamp j => exact absurd rfl (hr.2 j (List.mem_finRange j))
    | _ => exact hp.2 _ hr.1⟩
  lampU _ _ hp := hp
  chime _ _ hp := hp
  panel _ _ hp := hp

theorem shows_showsChans (S : ShownRecord → Prop) (f : Acct → Acct) : ShowsChans (Shows S f) where
  toShowsLamps := shows_showsLamps S f
  ptr p i g hg hp := hp.frame hp.1 (fun r _ => by
    cases r with
    | ptr j =>
      simp only [ShownRecord.body, setPtr]
      by_cases e : i = j
      · subst e; rw [updAt_self, hg]
      · rw [updAt_other i j _ _ e]
    | _ => rfl) fun _ _ _ _ => rfl
  ptrShown p i g hp := hp.rewritten (p' := setPtr i g p) (rewritePtr_rewrites i hp.1) fun r hr => by
    cases r with
    | ptr j => simp only [ShownRecord.body, setPtr]; rw [updAt_other i j _ _ fun e => hr (e ▸ rfl)]
    | _ => rfl
  chan p c g hg hp := hp.frame hp.1 (fun r _ => by
    cases r with
    | chan d =>
      simp only [ShownRecord.body, setChan]
      by_cases e : c = d
      · subst e; rw [updAt_self, hg]
      · rw [updAt_other c d _ _ e]
    | _ => rfl) fun _ _ _ _ => rfl
  chanShown p c g hp := hp.rewritten (p' := setChan c g p) (rewriteChan_rewrites c hp.1) fun r hr => by
    cases r with
    | chan d => simp only [ShownRecord.body, setChan]; rw [updAt_other c d _ _ fun e => hr (e ▸ rfl)]
    | _ => rfl

/-- Within an accounting event the accounting records stay as the event found them. -/
theorem shows_showsWork (S : ShownRecord → Prop) (a : Acct) : ShowsWork (Shows S fun _ => a) where
  toShowsChans := shows_showsChans S _
  jour := (shows_showsJournal S _).jour
  acct p x hc hv hp := hp.frame hp.1 (fun r _ => by
    cases r with
    | clock => simp only [ShownRecord.body, hc, hv]
    | _ => rfl) fun _ _ _ _ => rfl

/-! ### The end of an accounting event -/

theorem onlyIf_acct {c : Bool} {g : Part → Part} (h : (g p).acct = p.acct) : (onlyIf c g p).acct = p.acct := by
  unfold onlyIf
  split
  · exact h
  · rfl

/-- A rewrite left out leaves the record as it was. -/
theorem onlyIf_rewrites_shows {r₀ : ShownRecord} {c : Bool} {g : Part → Part} (hg : ∀ q, Sound q → Rewrites r₀ q (g q))
    (h : Shows (fun r => T r ∧ (r = r₀ → c = false)) id p) : Shows T id (onlyIf c g p) := by
  unfold onlyIf
  split
  · exact (hg p h.1).shows (fun r hr hn => h.2 r ⟨hr, fun e => absurd e hn⟩) fun _ => rfl
  next hc => exact ⟨h.1, fun r hr => h.2 r ⟨hr, fun _ => Bool.eq_false_iff.2 hc⟩⟩

/-- R165: after the rewrites of an event that found the unit at `a`, the accounting records show it as it is. -/
theorem rewriteAccounting_shows (seats summary : Bool) (h : Shows S (fun _ => a) p) (hT : ∀ r, T r → ¬ r.accounting → S r)
    (h1 : seats = false → ∀ id, S (.seat id)) (h2 : summary = false → S .summary) :
    Shows T id (rewriteAccounting a seats summary p) := by
  unfold rewriteAccounting
  refine onlyIf_closed (fun _ hq => (shows_showsMem T id).notice _ .drivetime nofun hq) _ ?_
  have acct (id : SeatId) (q : Part) : (rewriteSeat id q).acct = q.acct := by simp [rewriteSeat]
  refine onlyIf_rewrites_shows (fun _ => rewriteSummary_rewrites)
    (onlyIf_rewrites_shows (fun _ => rewriteSeat_rewrites .two) (onlyIf_rewrites_shows (fun _ => rewriteSeat_rewrites .one) ?_))
  simp only [onlyIf_acct (acct _ _)]
  refine ⟨h.1, fun r ⟨⟨⟨hr, hs⟩, ht⟩, ho⟩ => ?_⟩
  have kept (hS : S r) (hb : r.body p.acct p = r.body a p) : r.shows p.mem (r.body p.acct p) := hb ▸ h.2 r hS
  cases r with
  | summary =>
    obtain ⟨hs, he⟩ := Bool.or_eq_false_iff.1 (hs rfl)
    exact kept (h2 hs) (bne_eq_false_iff_eq.1 he)
  | seat id =>
    cases id with
    | one =>
      obtain ⟨hs, he⟩ := Bool.or_eq_false_iff.1 (ho rfl)
      exact kept (h1 hs _) (bne_eq_false_iff_eq.1 he)
    | two =>
      obtain ⟨hs, he⟩ := Bool.or_eq_false_iff.1 (ht rfl)
      exact kept (h1 hs _) (bne_eq_false_iff_eq.1 he)
  | _ => exact h.2 _ (hT _ hr id)

end Sys2Proof.Machine
end

section
namespace Sys2Proof.Machine

variable {p q : Part} {a : Acct} {S T : ShownRecord → Prop} {f : Acct → Acct}

/-! ### Every record shown, after every step -/

/-- While the accounting records are not spoken of, they may be rewritten at will. -/
theorem shows_showsLoose (a : Acct) : ShowsLoose (Shows (fun r => ¬ r.accounting) fun _ => a) where
  toShowsWork := shows_showsWork _ a
  records p b seats summary hp := by
    have other {r₀ : ShownRecord} {p q : Part} (hr₀ : r₀.accounting) (hp : Shows (fun r => ¬ r.accounting) (fun _ => a) p)
        (hw : Rewrites r₀ p q) : Shows (fun r => ¬ r.accounting) (fun _ => a) q :=
      hw.shows (fun r hr _ => hp.2 r hr) fun h => absurd hr₀ h
    refine onlyIf_closed (fun _ hq => (shows_showsMem _ _).notice _ .drivetime nofun hq) _ ?_
    refine onlyIf_closed (fun _ hq => other (r₀ := .summary) trivial hq (rewriteSummary_rewrites hq.1)) _ ?_
    refine onlyIf_closed (fun _ hq => other (r₀ := .seat .two) trivial hq (rewriteSeat_rewrites .two hq.1)) _ ?_
    exact onlyIf_closed (fun _ hq => other (r₀ := .seat .one) trivial hq (rewriteSeat_rewrites .one hq.1)) _ hp

/-- What is sound, and every record shows the running state as it stands. -/
def AllShown : Part → Prop := Shows (fun _ => True) id

theorem AllShown.request {x : RecordAccess} (h : AllShown p) (hb : blockAccess x)
    (hx : ∀ k, shownByte k → x.avoids k) :
    AllShown (p.request x) :=
  Shows.request h hb fun _ k _ hk => hx k (ShownRecord.byte_holder hk).2

/-- A change of the State Controller that the header shows at once. -/
theorem AllShown.stateBytes (h : AllShown p) (x : Control) : AllShown (writeStateBytes { p with ctl := x }) :=
  Shows.rewritten (p' := { p with ctl := x }) h (writeStateBytes_rewrites h.1) fun r hr => by
    cases r with
    | state => exact absurd rfl hr
    | _ => rfl

/-- A change of the State Controller that the header does not show. -/
theorem AllShown.ctl (h : AllShown p) {x : Control} (ho : x.op = p.ctl.op) (ha : x.access = p.ctl.access) :
    AllShown { p with ctl := x } :=
  Shows.frame h h.1 (fun r _ => by
    cases r with
    | state => simp only [ShownRecord.body, ho, ha]
    | _ => rfl) fun _ _ _ _ => rfl

/-- An event of the Accounting Unit as a whole: its work, and then the rewriting of its records. -/
theorem AllShown.event {g : Part → Part} (hg : AcctWork g) (seats summary : Bool) (h : AllShown p) :
    AllShown (rewriteAccounting p.acct seats summary (g p)) :=
  rewriteAccounting_shows seats summary (hg _ (shows_showsWork (fun _ => True) p.acct) p h) (fun _ _ _ => trivial)
    (fun _ _ => trivial) fun _ => trivial

/-- An event that sets the clock as well, which the header shows at its end. -/
theorem AllShown.clockEvent {g : Part → Part} (hg : AcctWork g) (x : Acct) (seats summary : Bool) (h : AllShown p) :
    AllShown (writeClockMirror (rewriteAccounting p.acct seats summary (g { p with acct := x }))) := by
  have hx : Shows (· ≠ .clock) (fun _ => p.acct) { p with acct := x } :=
    ⟨h.1, fun r hr => by
      cases r with
      | clock => exact absurd rfl hr
      | _ => exact h.2 _ trivial⟩
  have hw : Shows (· ≠ .clock) id (rewriteAccounting p.acct seats summary (g { p with acct := x })) :=
    rewriteAccounting_shows seats summary (hg _ (shows_showsWork _ p.acct) _ hx) (fun _ hr _ => hr) (fun _ _ => nofun) fun _ => nofun
  exact (writeClockMirror_rewrites hw.1).shows (fun r _ hr => hw.2 r hr) fun _ => rfl

/-- Work that leaves the accounting records behind, until all of them are rewritten. -/
theorem AllShown.afresh {g : Part → Part} (hg : ∀ Q, ShowsLoose Q → ∀ q, Q q → Q (g q)) (a : Acct) (h : AllShown p) :
    AllShown (rewriteAccounting a true true (g p)) := by
  have hp : Shows (fun r => ¬ r.accounting) (fun _ => a) p := ⟨h.1, fun r hr => by
    cases r with
    | summary | seat => exact absurd trivial hr
    | _ => exact h.2 _ trivial⟩
  exact rewriteAccounting_shows true true (hg _ (shows_showsLoose a) p hp) (fun _ _ hr => hr) nofun nofun

theorem allShown_showsTold : ShowsTold AllShown where
  toShowsChans := shows_showsChans _ _
  confirm p x hp := Shows.frame hp hp.1 (fun r _ => by
    cases r with
    | seat id => cases id <;> rfl
    | _ => rfl) fun _ _ _ _ => rfl
  event _ _ _ _ hg hp := hp.event hg _ _

theorem AllShown.granted (h : AllShown p) (hq : Sound q) (hp : q = { p with exch := q.exch, arb := q.arb }) (hm : q.mem = p.mem) :
    AllShown q :=
  Shows.frame h hq (fun r _ => by rw [hp]; rfl) fun _ _ _ _ => by rw [hm]

theorem allShown_showsRestart : ShowsRestart AllShown where
  toShowsTold := allShown_showsTold
  jour := (shows_showsJournal _ _).jour
  grant p hp := hp.granted (sound_linkClosed.grant p hp.1) (by rw [grantAll_eq]) (Part.grantAll_mem p)
  reading p hp := hp.granted (sound_linkClosed.reading p hp.1) (by rw [grantReading_eq]) (by simp [grantReading_eq, Part.mem])
  conv _ _ hp := hp
  free _ _ hp := hp
  pulse _ _ hp := hp
  sw _ _ hp := hp
  ctl _ _ ho ha _ hp := hp.ctl ho ha
  entered _ _ _ hp := hp.stateBytes _
  access _ _ hp := hp.stateBytes _
  req _ _ hp := hp
  ign _ _ hp := hp
  homeReqs _ _ hp := hp
  freeIdx _ _ hp := hp
  head _ x bs hx hp := hp.request (x := .write x bs) (.inl (headRecord_own hx)) fun k hk => by
    obtain ⟨-, -, hx⟩ := hx
    simp only [RecordAccess.avoids, shownByte] at hk ⊢
    omega
  check _ _ _ _ hb hp := hp.request hb fun k hk => by
    simp only [RecordAccess.avoids, shownByte] at hk ⊢
    omega
  slot _ i bs h1 h2 hp := hp.request (x := .write (slotAddr i) bs) (.inr ⟨i, by simp [slotAddr], h1, h2⟩) fun k hk => by
    have := i.isLt
    simp only [RecordAccess.avoids, slotAddr, shownByte] at hk ⊢
    omega
  answer _ i bs h1 h2 hp := hp.request (x := .answer i bs) ⟨h1, h2⟩ fun k hk => by
    have := i.isLt
    simp only [RecordAccess.avoids, slotAddr, shownByte] at hk ⊢
    omega
  clockEvent _ x _ _ _ hg hp := hp.clockEvent hg x _ _
  afresh _ a _ hg hp := hp.afresh hg a
  restart _ _ ho ha hp := hp.ctl ho ha

/-! ### Bytes that the link writes -/

/-- The accesses of the blocks make of two memories that agree at a byte, neither in a notice nor in an error record nor in a
request slot, two that agree there: none of them goes by what it finds, but for those three. -/
theorem grantAccesses_agree {k : Nat} (h1 : ¬ (0x08 ≤ k ∧ k < 0x0A)) (h2 : ¬ (0x1C0 ≤ k ∧ k < 0x1D0)) (h3 : ¬ (0xC0 ≤ k ∧ k < 0x1C0)) :
    ∀ (w : List RecordAccess) (m n : Mem), (∀ x ∈ w, blockAccess x) → Memory.wf m = true → Memory.wf n = true →
      memRead n k = memRead m k → memRead (grantAccesses n w) k = memRead (grantAccesses m w) k
  | [], _, _, _, _, _, h => h
  | x :: w, m, n, hw, hm, hn, h => by
    obtain ⟨hx, hw⟩ := List.forall_mem_cons.1 hw
    refine grantAccesses_agree h1 h2 h3 w _ _ hw (effect_wf x m hm) (effect_wf x n hn) ?_
    have out (ha : x.avoids k) : memRead (x.effect n) k = memRead (x.effect m) k := by
      rw [memRead_effect_out x k n hn ha, memRead_effect_out x k m hm ha, h]
    cases x with
    | write a bs =>
      by_cases hk : a ≤ k ∧ k < a + bs.length
      · rw [effect_write, effect_write, memRead_memWriteN_in bs n a k hn hk.1 hk.2, memRead_memWriteN_in bs m a k hm hk.1 hk.2]
      · exact out hk
    | notice => exact out h1
    | checkFailure => exact out ⟨h1, h2⟩
    | answer i bs =>
      obtain ⟨hb1, hb2⟩ := hx
      have := i.isLt
      refine out ⟨h1, ?_⟩
      simp only [slotAddr]
      omega

/-- A byte written where no record is. -/
theorem AllShown.storeByte {x : Nat} (v : Byte) (h : AllShown p)
    (hx : ¬ shownByte x) :
    AllShown (p.storeByte x v) :=
  Shows.frame h (sound_linkClosed.anyMem p x v h.1) (fun _ _ => rfl) fun r k _ hk => by
    have hk := (ShownRecord.byte_holder hk).2
    have hn : k ≠ x := fun e => hx (e ▸ hk)
    unfold shownByte at hk
    exact grantAccesses_agree (by omega) (by omega) (by omega) _ _ _ h.1.2 h.1.1 (memWrite_wf _ _ _ h.1.1)
      (memRead_memWrite_other _ _ _ _ h.1.1 hn)

theorem AllShown.storeBytes (bs : List Byte) : ∀ (x : Nat) {p : Part}, AllShown p →
    (∀ k, x ≤ k → k < x + bs.length → ¬ shownByte k) →
    AllShown (p.storeBytes x bs) := by
  induction bs with
  | nil => intro x p h _; exact h
  | cons b bs ih =>
    intro x p h hx
    simp only [List.length_cons] at hx
    exact ih (x + 1) (h.storeByte b (hx x (by omega) (by omega))) fun k h1 h2 => hx k (by omega) (by omega)

theorem clearNotices_allShown (high : Bool) (v : Byte) (h : AllShown p) : AllShown (clearNotices high v p) := by
  unfold clearNotices
  refine onlyIf_closed (fun _ hq => hq.storeBytes _ _ fun k h1 h2 => ?_) _
    (onlyIf_closed (fun _ hq => hq.storeBytes _ _ fun k h1 h2 => ?_) _ (h.storeByte _ ?_))
  · cases high <;> simp [shownByte, noticeAddr]
  · simp only [protectionRecordAddr, zeros_length] at h1 h2
    unfold shownByte
    omega
  · simp only [checkRecordAddr, zeros_length] at h1 h2
    unfold shownByte
    omega

theorem protectedWrite_allShown (cause : ProtCause) (x : Nat) (v : Byte) (h : AllShown p) : AllShown (protectedWrite cause x v p) := by
  unfold protectedWrite
  refine ite_closed (h.storeByte _ (by simp [shownByte, protectionRecordAddr]))
    ((h.storeBytes _ _ fun k h1 h2 => ?_).storeBytes _ _ fun k h1 h2 => ?_)
  · simp [protectionRecordAddr] at h1 h2
    unfold shownByte
    omega
  · simp only [noticeAddr, noticeBytes_length] at h1 h2
    unfold shownByte
    omega

theorem allShown_showsHost : ShowsHost AllShown where
  toShowsControl := allShown_showsRestart.toShowsControl
  stored _ x v hx hp := hp.storeByte v (by simp only [storedAddr, inRecord] at hx; simp only [shownByte]; omega)
  clear _ _ _ hp := clearNotices_allShown _ _ hp
  guard _ _ _ _ hp := protectedWrite_allShown _ _ _ hp
  link _ _ hp := hp
  grantLink p hp := hp.granted (sound_linkClosed.grantLink p hp.1) (by rw [grantLink_eq]) (grantLink_mem p)

/-! ### INIT -/

@[simp] theorem memReadN_nil (n : Nat) : ∀ x, memReadN [] x n = zeros n := by
  induction n with
  | zero => intro x; rfl
  | succ n ih => intro x; rw [memReadN, ih]; rfl

/-- How many bytes of a record show the running state. -/
def ShownRecord.bodyLength : ShownRecord → Nat
  | .state => 2 | .clock => 5 | .control => 6
  | .chan _ | .ptr _ => 14 | .lamp _ => 6
  | .summary => 30 | .seat _ => 62

/-- Where all bytes are zero, a record shows zeros. -/
theorem ShownRecord.shows_nil (r : ShownRecord) : r.shows [] (zeros r.bodyLength) := by
  cases r with
  | state | clock | control => exact memReadN_nil _ _
  | chan | ptr | lamp | summary | seat => exact ⟨memReadN_nil _ _, rfl⟩

/-- The values at power-on are all shown as zeros. -/
theorem ShownRecord.body_reset (r : ShownRecord) : r.body Part.reset.acct Part.reset = zeros r.bodyLength := by
  cases r with
  | state | clock | control | summary => decide
  | chan c =>
    have e : Part.reset.chans[c] = Chan.reset := Vector.getElem_replicate _
    rw [body, e, bodyLength]
    decide
  | ptr i =>
    have e : Part.reset.ptrs[i] = Ptr.reset := Vector.getElem_replicate _
    rw [body, e, bodyLength]
    decide
  | lamp i =>
    have e : Part.reset.lamps[i] = Lamp.reset := Vector.getElem_replicate _
    rw [body, e, bodyLength]
    decide
  | seat id => cases id <;> decide

/-- R33: cleared memory shows the values at power-on. -/
theorem reset_allShown (link : Link) (idx freeIdx : Nat) (line low : Bool) :
    AllShown { Part.reset with
      arb := { Arbiter.reset with idx := idx }, link := link, freeIdx := freeIdx
      ctl := { Part.reset.ctl with resetLine := line, supplyLow := low } } := by
  refine ⟨⟨rfl, fun x hx => absurd hx List.not_mem_nil⟩, fun r _ => ?_⟩
  have h : r.shows [] (r.body Part.reset.acct Part.reset) := r.body_reset ▸ r.shows_nil
  cases r <;> exact h

theorem initBegin_allShown (link : Link) : AllShown (initBegin link p) := by
  refine onlyIf_closed (fun q hq => ?_) _ (reset_allShown link _ _ _ _)
  have h := allShown_showsRestart.toShowsControl
  exact setCtl_shows h _ (h.grant _ (recordEntry_shows h.toShowsJournal _ _ (entryBody_length _)
    (h.head _ _ _ (by simp [headRecord]) hq)))

/-! ### Every step -/

theorem execPart_allShown (c : Instr) (h : AllShown p) : AllShown (execPart c p) := by
  have hr := allShown_showsRestart
  by_cases hl : linkCommand c
  · refine execPart_link_shows allShown_showsHost (fun _ x v q hx hq => hq.storeByte v ?_) hl h
    simp only [recordAddr, inRecord] at hx
    unfold shownByte
    omega
  · by_cases hc : c = .powerOn
    · subst hc
      exact initBegin_allShown _
    · exact execPart_shows hr.toShowsControl (fun _ _ _ => initBegin_allShown _) (fun _ => hr) (fun _ _ _ hq => hq) hl hc h

theorem step_allShown {s t : State} (h : AllShown s.toPart) (hs : step s = .next t) : AllShown t.toPart := by
  rcases step_part hs with ⟨c, e⟩ | e
  · exact e ▸ execPart_allShown c h
  · exact e ▸ idleStep_shows allShown_showsRestart.toShowsControl h

theorem allShown_iff : AllShown p ↔ Sound p ∧ HeaderShows p ∧ RecordsShow p := by
  refine and_congr_right fun _ => ⟨fun h => ?_, fun ⟨⟨hs, hc, hj⟩, hchan, hptr, hlamp, hsum, hseat⟩ r _ => ?_⟩
  · exact ⟨⟨h .state trivial, h .clock trivial, h .control trivial⟩, fun c => h (.chan c) trivial, fun i => h (.ptr i) trivial,
      fun i => h (.lamp i) trivial, h .summary trivial, fun id => h (.seat id) trivial⟩
  · cases r with
    | state => exact hs
    | clock => exact hc
    | control => exact hj
    | chan c => exact hchan c
    | ptr i => exact hptr i
    | lamp i => exact hlamp i
    | summary => exact hsum
    | seat id => exact hseat id

/-- Settles O58: every operation changes a shown field together with the rewrite of its record. -/
theorem stepsKeepTheRecordsShown : Obligations.StepsKeepTheRecordsShown := by
  intro s t hm hw hh hr hs
  obtain ⟨⟨-, hw'⟩, hh', hr'⟩ := allShown_iff.1 (step_allShown (allShown_iff.2 ⟨⟨hm, hw⟩, hh, hr⟩) hs)
  exact ⟨hh', hr', hw'⟩

end Sys2Proof.Machine
end

section
namespace Sys2Proof.Machine

variable {p : Part}

/-! ## The Link Port -/

/-! ### Framing -/

theorem linkAddress_eq (hi lo : Byte) : linkAddress hi lo = BitVec.ofNat 14 (256 * hi.toNat + lo.toNat) := by
  apply BitVec.eq_of_toNat_eq
  have h : hi.toNat <<< 8 ||| lo.toNat = 256 * hi.toNat + lo.toNat := by
    rw [← Nat.shiftLeft_add_eq_or_of_lt lo.isLt, Nat.shiftLeft_eq, Nat.mul_comm]
  rw [linkAddress, BitVec.truncate_eq_setWidth, BitVec.toNat_setWidth, BitVec.toNat_append, h, BitVec.toNat_ofNat]

theorem dataRead_eq {a : BitVec 14} (h : p.link.state = .data false a) : dataRead p =
    setLink (.data false (a + 1)) (setSdo (some (servedRead (arbitrate a.toNat p) a.toNat)) (arbitrate a.toNat p)) := by
  simp [dataRead, h]

theorem dataWrite_eq {a : BitVec 14} (v : Byte) (h : p.link.state = .data true a) :
    dataWrite v p = setLink (.data true (a + 1)) (servedWrite a.toNat v p) := by
  simp [dataWrite, h]

/-- A row that names the address that a WRITE transfer has reached. -/
theorem registerWrite_eq {a : BitVec 14} (v : Byte) (h : p.link.state = .data true a) :
    registerWrite a.toNat v p = setLink (.data true (a + 1)) (servedWrite a.toNat v p) := by
  simp [registerWrite, h, dataWrite_eq v h]

/-! ### Grants of byte accesses -/

theorem arbitrate_of_not_live (a : Nat) (h : p.live = false) : arbitrate a p = p := by simp [arbitrate, onlyIf, h]

/-- The part as a byte access at `a` finds it. -/
def Part.atLink (a : Nat) (p : Part) : Part := { p with exch := found p a, arb := arbAfter p a }

/-- R7: a byte access while the part runs finds some of what waits granted, at the register window nothing. -/
theorem arbitrate_of_live (a : Nat) (h : p.live = true) : arbitrate a p = p.atLink a := by
  unfold arbitrate onlyIf Part.atLink found arbAfter grantsBefore inMemory
  rw [h]
  by_cases ha : a < 0x3FF0
  · simp [ha, identAddr, grantLink_eq]
  · simp [ha, identAddr]

theorem found_of_window {a : Nat} (h : 0x3FF0 ≤ a) : found p a = p.exch := by simp [found, grantsBefore, Nat.not_lt.2 h]

theorem arbAfter_of_window {a : Nat} (h : 0x3FF0 ≤ a) : arbAfter p a = p.arb := by simp [arbAfter, Nat.not_lt.2 h]

/-- With nothing waiting, a byte access finds the memory that the blocks read. -/
theorem found_of_idle (a : Nat) (h : p.arb.waiting = []) : found p a = p.mem := by simp [found, h, mem_of_idle p h]

/-- What a byte access finds, and what still waits behind it, make the memory that the blocks read. -/
theorem grantAccesses_found (a : Nat) : grantAccesses (found p a) (arbAfter p a).waiting = p.mem := by
  unfold found arbAfter grantsBefore
  by_cases ha : a < 0x3FF0
  · simp only [if_pos ha]
    exact grantSome_rest _ _ _
  · simp only [if_neg ha]
    rfl

theorem found_wf (a : Nat) (h : Memory.wf p.exch = true) : Memory.wf (found p a) = true := grantSome_wf _ _ _ h

/-! ### Reads -/

theorem stateRegister_toNat (p : Part) : p.stateRegister.toNat = p.ctl.op.code.toNat + 16 * p.ctl.access.code.toNat := by
  unfold Part.stateRegister
  cases p.ctl.op <;> cases p.ctl.access <;> rfl

theorem linkRead_mem {a : Nat} (h : a < 0x3FF0) : linkRead p a = memRead p.exch a := by simp [linkRead, inMemory, identAddr, h]

theorem servedRead_of_live (a : Nat) (h : p.live = true) : servedRead p a = linkRead p a := if_pos h

theorem servedRead_of_not_live (a : Nat) (h : p.live = false) : servedRead p a = 0 := if_neg (by simp [h])

/-- R5, R7: what a byte access of a READ transfer shifts out while the part runs. -/
theorem exec_dataRead {s : State} {a : BitVec 14} (hl : s.live = true) (h : s.link.state = .data false a) :
    exec .dataRead s = .next { s with
      exch := found s.toPart a.toNat, arb := arbAfter s.toPart a.toNat
      link := { state := .data false (a + 1), sdo := some (linkRead (s.toPart.atLink a.toNat) a.toNat) } } := by
  rw [exec_eq, execPart, dataRead_eq h, arbitrate_of_live _ hl, servedRead_of_live (p := s.toPart.atLink a.toNat) _ hl]
  rfl

/-- Settles O3: each framing command matches the transfer state; a read byte is what the grant of its access finds. -/
theorem linkFramesTransfersAndReads : Obligations.LinkFramesTransfersAndReads := by
  refine ⟨fun s b => ⟨fun h => ?_, fun h => ⟨?_, ?_, fun h1 h2 => ?_⟩, fun w h => ?_, fun w hi h => ?_, fun h c hc => ?_, ?_⟩,
    fun s a hl h => ?_⟩
  · simp [exec_eq, execPart, selAssert, h, setLink, setSdo]
  · simp [exec_eq, execPart, commandByte, h, setLink]
  · simp [exec_eq, execPart, commandByte, h, setLink]
  · have e : afterCommand b = .ignore := (if_neg h1).trans (if_neg h2)
    simp [exec_eq, execPart, commandByte, e, h, setLink]
  · simp [exec_eq, execPart, addressHigh, h, setLink]
  · simp [exec_eq, execPart, addressLow, h, setLink, linkAddress_eq]
  · simp only [List.mem_cons, List.not_mem_nil, or_false] at hc
    rcases hc with rfl | rfl | rfl | rfl | rfl | rfl | rfl <;>
      simp [exec_eq, execPart, commandByte, addressHigh, addressLow, dataRead, dataWrite, h]
  · rfl
  · refine ⟨_, exec_dataRead hl h, fun ha => linkRead_mem ha, fun ha hw => ?_, fun ha => ⟨found_of_window ha, arbAfter_of_window ha⟩,
      fun ha => ?_, fun ha => ?_, fun ha => ?_, fun ha => ?_⟩
    · rw [linkRead_mem ha, ← found_of_idle a.toNat hw]
      rfl
    · rw [ha]; rfl
    · rw [ha]; rfl
    · rw [ha]; exact stateRegister_toNat _
    · have hi : inMemory a.toNat = false := decide_eq_false (by unfold identAddr; omega)
      have hn : a.toNat ≠ identAddr ∧ a.toNat ≠ identAddr + 1 ∧ a.toNat ≠ stateAddr := by unfold identAddr stateAddr; omega
      simp [linkRead, hi, hn]

/-! ### Outside service -/

theorem servedWrite_of_not_live (a : Nat) (v : Byte) (h : p.live = false) : servedWrite a v p = p := if_neg (by simp [h])

/-- R2: outside service a row of the link leaves all but the transfer state. -/
theorem registerWrite_of_not_live (a : Nat) (v : Byte) (h : p.live = false) : ∃ l, registerWrite a v p = setLink l p := by
  have same : p = setLink p.link.state p := rfl
  unfold registerWrite
  split
  next b hs =>
    split
    · exact ⟨.data true (b + 1), by rw [dataWrite_eq v hs, servedWrite_of_not_live _ _ h]⟩
    · exact ⟨_, same⟩
  next => exact ⟨_, by rw [servedWrite_of_not_live _ _ h]; exact same⟩
  next => exact ⟨_, same⟩

/-- Every command but the link's own leaves the Link Port, also where INIT begins again. -/
theorem link_controlClosed (l : Link) : ControlClosed fun p => p.link = l where
  store _ _ _ _ hp := hp
  notice _ _ hp := hp
  check _ _ _ _ _ hp := hp
  slot _ _ _ _ _ hp := hp
  answer _ _ _ _ _ hp := hp
  grant _ hp := hp
  reading _ hp := hp
  jour _ _ hp := hp
  lamps _ _ hp := hp
  lampU _ _ hp := hp
  chime _ _ hp := hp
  panel _ _ hp := hp
  ptrs _ _ hp := hp
  acct _ _ hp := hp
  chans _ _ hp := hp
  conv _ _ hp := hp
  free _ _ hp := hp
  pulse _ _ hp := hp
  sw _ _ hp := hp
  ctl _ _ hp := hp
  req _ _ hp := hp
  ign _ _ hp := hp
  homeReqs _ _ hp := hp
  working _ _ hp := hp
  freeIdx _ _ hp := hp

theorem initBegin_link (l : Link) (p : Part) : (initBegin l p).link = l :=
  onlyIf_closed (fun _ hq => initWork_closed (link_controlClosed l) hq) _ rfl

theorem execPart_keeps_link {c : Instr} (hl : ¬ linkCommand c) (hc : c ≠ .powerOn) : (execPart c p).link = p.link :=
  execPart_closed (link_controlClosed p.link) (fun _ q hq => (initBegin_link q.link q).trans hq) hl hc rfl

/-- Settles O4: outside service no byte is served, and no command of the part touches the Link Port. -/
theorem linkOutsideService : Obligations.LinkOutsideService := by
  refine ⟨fun s a hl h => ?_, fun s a v hl h => ?_, fun s v high hl c hc => ?_, fun c s t hl hc he => ?_⟩
  · rw [exec_eq, execPart, dataRead_eq h, arbitrate_of_not_live _ hl, servedRead_of_not_live _ hl]
    rfl
  · rw [exec_eq, execPart, dataWrite_eq v h, servedWrite_of_not_live _ _ hl]
    rfl
  · have row (a : Nat) (v : Byte) (hx : execPart c s.toPart = registerWrite a v s.toPart) :
        ∃ t, exec c s = .next t ∧ t = { s with link := { s.link with state := t.link.state } } := by
      obtain ⟨l, hr⟩ := registerWrite_of_not_live a v hl
      exact ⟨_, exec_eq c s, by rw [hx, hr]; rfl⟩
    simp only [List.mem_cons, List.not_mem_nil, or_false] at hc
    rcases hc with rfl | rfl | rfl | rfl | rfl | rfl | rfl <;> exact row _ _ rfl
  · obtain rfl := exec_next he
    exact execPart_keeps_link hl hc

end Sys2Proof.Machine
end

section
namespace Sys2Proof.Machine

variable {p : Part}

/-! ## Bytes, notices and the error records in a memory -/

theorem leNat_leBytes (n : Nat) : ∀ x, leNat (leBytes n x) = x % 256 ^ n := by
  induction n with
  | zero => intro x; simp [leBytes, leNat, Nat.mod_one]
  | succ n ih =>
    intro x
    rw [leBytes, leNat, ih, BitVec.toNat_ofNat, Nat.pow_succ' (m := 256), Nat.mod_mul]

theorem leBytes_leNat (bs : List Byte) : leBytes bs.length (leNat bs) = bs := by
  induction bs with
  | nil => rfl
  | cons b bs ih =>
    have h1 : (b.toNat + 256 * leNat bs) / 256 = leNat bs := by have := b.isLt; omega
    have h2 : BitVec.ofNat 8 (b.toNat + 256 * leNat bs) = b := BitVec.eq_of_toNat_eq (by
      have := b.isLt
      rw [BitVec.toNat_ofNat]
      omega)
    rw [List.length_cons, leNat, leBytes, h1, h2, ih]

theorem leBytes_readNat (m : Mem) (a n : Nat) : leBytes n (readNat m a n) = memReadN m a n := by
  simpa [readNat] using leBytes_leNat (memReadN m a n)

theorem leNat_lt (bs : List Byte) : leNat bs < 256 ^ bs.length := by
  induction bs with
  | nil => simp [leNat]
  | cons b bs ih =>
    have := b.isLt
    rw [leNat, List.length_cons, Nat.pow_succ]
    omega

theorem readNat_lt (m : Mem) (a n : Nat) : readNat m a n < 256 ^ n := by simpa [readNat] using leNat_lt (memReadN m a n)

theorem noticeWord_toNat (m : Mem) : (noticeWord m).toNat = readNat m noticeAddr 2 := by
  rw [noticeWord, BitVec.toNat_ofNat]
  exact Nat.mod_eq_of_lt (readNat_lt m noticeAddr 2)

/-- The notice word is read back as it was written. -/
theorem noticeWord_of_bytes {m : Mem} {x : Half} (h : memReadN m noticeAddr 2 = leBytes 2 x.toNat) : noticeWord m = x := by
  rw [noticeWord, readNat, h, leNat_leBytes]
  exact BitVec.eq_of_toNat_eq (by rw [BitVec.toNat_ofNat]; have := x.isLt; omega)

/-- The notice word goes by its two bytes. -/
theorem noticeWord_congr {m n : Mem} (h : ∀ k, noticeByte k → memRead n k = memRead m k) : noticeWord n = noticeWord m := by
  rw [noticeWord, noticeWord, readNat, readNat, memReadN_congr h]

theorem noticeOn_congr {m n : Mem} (h : ∀ k, noticeByte k → memRead n k = memRead m k) (x : Notice) : noticeOn n x = noticeOn m x := by
  rw [noticeOn, noticeOn, noticeWord_congr h]

/-- R11: a set notice sets its bit alone. -/
theorem noticeWord_memWriteN (m m' : Mem) (n : Notice) (h : Memory.wf m = true) :
    noticeWord (memWriteN m noticeAddr (noticeBytes n m')) = noticeWord m' ||| (1#16 <<< n.bit) := by
  have hr := memReadN_memWriteN m noticeAddr (noticeBytes n m') h
  rw [noticeBytes_length] at hr
  exact noticeWord_of_bytes hr

theorem agreeOutside_memWriteN {m : Mem} {a : Nat} {bs : List Byte} (h : Memory.wf m = true) :
    agreeOutside (inRecord a bs.length) m (memWriteN m a bs) := fun k hk =>
  memRead_memWriteN_out bs m a k h (by simp only [inRecord] at hk; omega)

theorem agreeOutside.mono {A B : Nat → Prop} {m n : Mem} (h : agreeOutside A m n) (hab : ∀ k, A k → B k) : agreeOutside B m n :=
  fun k hk => h k fun ha => hk (hab k ha)

theorem agreeOutside.trans {A : Nat → Prop} {m n o : Mem} (h1 : agreeOutside A m n) (h2 : agreeOutside A n o) : agreeOutside A m o :=
  fun k hk => (h2 k hk).trans (h1 k hk)

theorem agreeOutside.refl (A : Nat → Prop) (m : Mem) : agreeOutside A m m := fun _ _ => rfl

theorem agreeOutside_memWrite {m : Mem} {a : Nat} {v : Byte} (h : Memory.wf m = true) : agreeOutside (· = a) m (memWrite m a v) :=
  fun k hk => memRead_memWrite_other m a k v h hk

/-! ### What a link write within the part's own bytes leaves -/

/-- R4: a protected write changes the exchange memory alone. -/
theorem protectedWrite_eq (cause : ProtCause) (a : Nat) (v : Byte) (p : Part) :
    protectedWrite cause a v p = { p with exch := (protectedWrite cause a v p).exch } := by
  unfold protectedWrite
  split <;> rfl

theorem protectedWrite_wf (cause : ProtCause) (a : Nat) (v : Byte) (h : Memory.wf p.exch = true) :
    Memory.wf (protectedWrite cause a v p).exch = true :=
  protectedWrite_closed (P := fun p => Memory.wf p.exch = true) ⟨fun _ _ _ _ hq => memWrite_wf _ _ _ hq⟩ _ _ _ h

theorem saturatingInc_eq (b : Byte) : saturatingInc b = BitVec.ofNat 8 (min 255 (b.toNat + 1)) :=
  BitVec.eq_of_toNat_eq (by rw [saturatingInc_toNat, BitVec.toNat_ofNat]; omega)

/-- A record and a notice, written in one access, the record elsewhere than the notice word. -/
theorem memReadN_record_and_notice {m : Mem} (a : Nat) (bs : List Byte) (n : Notice) (h : Memory.wf m = true) (ha : 0x0A ≤ a) :
    memReadN (memWriteN (memWriteN m a bs) noticeAddr (noticeBytes n m)) a bs.length = bs := by
  rw [memReadN_congr fun k hk => ?_, memReadN_memWriteN m a bs h]
  refine memRead_memWriteN_out _ _ _ _ (memWriteN_wf _ _ _ h) ?_
  simp only [inRecord] at hk
  simp only [noticeAddr, noticeBytes_length]
  omega

/-- R4: what a protected write leaves of the memory that its access finds. -/
theorem protectedWrite_offer (cause : ProtCause) (a : Nat) (v : Byte) (h : Memory.wf p.exch = true) :
    protectedOffer cause.code a v p.exch (protectedWrite cause a v p).exch := by
  unfold protectedOffer protectedWrite
  split
  · exact ⟨(memRead_memWrite_same _ _ _ h).trans (saturatingInc_eq _), agreeOutside_memWrite h⟩
  · have hb : [cause.code, v, BitVec.ofNat 8 a, BitVec.ofNat 8 (a / 256), memRead p.exch 0x0C, memRead p.exch 0x0D] ++
        List.replicate 10 0 = cause.code :: v :: (leBytes 2 a ++ leBytes 2 (scanCount p.exch) ++ zeros 10) := by
      rw [scanCount, leBytes_readNat]
      rfl
    rw [hb]
    generalize hx : cause.code :: v :: (leBytes 2 a ++ leBytes 2 (scanCount p.exch) ++ zeros 10) = bs
    have hl : bs.length = 16 := by simp [← hx]
    refine ⟨hl ▸ memReadN_record_and_notice 0x1D0 bs .wprot h (by decide), noticeWord_memWriteN _ _ _ (memWriteN_wf _ _ _ h),
      ((agreeOutside_memWriteN h).mono fun k hk => .inr (hl ▸ hk)).trans
        ((agreeOutside_memWriteN (memWriteN_wf _ _ _ h)).mono fun k hk => .inl ?_)⟩
    simpa [noticeByte] using hk

end Sys2Proof.Machine
end

section
namespace Sys2Proof.Machine

variable {p : Part}

/-! ## Written bytes -/

/-! ### Dispositions -/

theorem disposition_of_stored {a : Nat} (h : storedAddr a) : disposition a = .stored := by
  simp only [storedAddr, inRecord] at h
  grind (splits := 30) [disposition, noticeAddr, maskAddr, readMarkAddr]

theorem disposition_of_unassigned {a : Nat} (h : unassignedAddr a) : disposition a = .discarded := by
  simp only [unassignedAddr, inRecord] at h
  grind (splits := 30) [disposition, noticeAddr, maskAddr, readMarkAddr, keyAddr, promptAddr]

theorem disposition_of_guarded {a : Nat} (h : guardedAddr a) : disposition a = .guarded := by
  simp only [guardedAddr, inRecord] at h
  grind (splits := 30) [disposition, noticeAddr, maskAddr, readMarkAddr]

theorem disposition_of_record {a : Nat} (h : recordAddr a) : disposition a = .config := by
  simp only [recordAddr, inRecord] at h
  grind (splits := 30) [disposition, noticeAddr, maskAddr, readMarkAddr]

/-! ### A write elsewhere -/

/-- The rows of the link that make of the part what a written byte at the address that a WRITE transfer has reached does. -/
theorem exec_write {s : State} {a : BitVec 14} (v : Byte) (h : offersAt s a) {c : Instr}
    (hc : c = .dataWrite v ∨ execPart c s.toPart = registerWrite a.toNat v s.toPart) :
    exec c s = .next { s with toPart := setLink (.data true (a + 1)) (linkWrite a.toNat v (s.toPart.atLink a.toNat)) } := by
  obtain ⟨hl, hs⟩ := h
  have hw : servedWrite a.toNat v s.toPart = linkWrite a.toNat v (s.toPart.atLink a.toNat) :=
    (if_pos hl).trans (by rw [arbitrate_of_live _ hl])
  have hx : execPart c s.toPart = setLink (.data true (a + 1)) (servedWrite a.toNat v s.toPart) := by
    rcases hc with rfl | hc
    · exact dataWrite_eq v hs
    · exact hc.trans (registerWrite_eq v hs)
  rw [exec_eq, hx, hw]

theorem writeElsewhere_of_not_armed (h : p.ctl.access ≠ .armed) : writeElsewhere p = p := by
  unfold writeElsewhere
  split
  next ha => exact absurd ha h
  iterate 2 rfl

/-- R46: ARMED goes back to LOCKED, and the header's state bytes are granted behind what waits. -/
theorem writeElsewhere_of_armed (h : p.ctl.access = .armed) : writeElsewhere p = { p with
    ctl := { p.ctl with access := .locked }
    exch := grantAccesses p.exch (p.arb.waiting ++ [.write 2 [p.ctl.op.code, 0]])
    arb := { p.arb with last := .record, waiting := [] } } := by
  simp [writeElsewhere, setAccess, h, writeStateBytes, grantAll_eq, Part.store, Part.request, Part.mem, Access.code]

/-- The part once a written byte at `a` has left the memory `m` and the Request Unit `r`, and before the State Controller is told
of it. -/
def Part.wrote (a : Nat) (m : Mem) (r : ReqUnit) (p : Part) : Part := { p with exch := m, arb := arbAfter p a, req := r }

/-- R46: a byte that lands with the memory `m`, and the Request Unit as `r`, at an address other than KEY's. -/
theorem exec_write_elsewhere {s : State} {a : BitVec 14} {v : Byte} (h : offersAt s a) {c : Instr}
    (hc : c = .dataWrite v ∨ execPart c s.toPart = registerWrite a.toNat v s.toPart) {m : Mem} {r : ReqUnit}
    (hm : Memory.wf m = true)
    (hw : linkWrite a.toNat v (s.toPart.atLink a.toNat) = writeElsewhere (s.toPart.wrote a.toNat m r)) :
    ∃ t, exec c s = .next t ∧
      t = { s with link := { s.link with state := .data true (a + 1) }, ctl := t.ctl, exch := t.exch, arb := t.arb, req := r } ∧
      elsewhereSeen s t ∧ landed s.toPart t.toPart a.toNat m := by
  refine ⟨_, exec_write v h hc, ?_⟩
  rw [hw]
  by_cases ha : s.ctl.access = .armed
  · rw [writeElsewhere_of_armed (p := s.toPart.wrote a.toNat m r) ha]
    refine ⟨rfl, ⟨by rw [if_pos ha]; rfl, fun _ => ?_⟩, fun hn => absurd ha hn, fun _ => ⟨rfl, rfl⟩⟩
    have hg := grantAccesses_append m (arbAfter s.toPart a.toNat).waiting [.write 2 [s.ctl.op.code, 0]]
    exact (congrArg (memReadN · 2 2) hg).trans (memReadN_memWriteN _ 2 [s.ctl.op.code, 0] (grantAccesses_wf _ _ hm))
  · rw [writeElsewhere_of_not_armed (p := s.toPart.wrote a.toNat m r) ha]
    exact ⟨rfl, ⟨by rw [if_neg ha]; rfl, fun hn => absurd hn ha⟩, fun _ => ⟨rfl, rfl⟩, fun hn => absurd hn ha⟩

/-! ### A byte of the configuration area while OPEN -/

@[simp] theorem memSlice_empty (m : Mem) (lo : Nat) : memSlice m lo lo = [] :=
  List.filter_eq_nil_iff.2 fun c _ => by simp

theorem copyPieces_copied (n : Nat) (p : Part) (c : CommitRun) : (copyPieces n p c).copied = max c.copied n := by
  unfold copyPieces
  split
  next h => exact (Nat.max_eq_right (Nat.le_of_lt h)).symm
  next h => exact (Nat.max_eq_left (Nat.not_lt.1 h)).symm

theorem copyPieces_staging (n : Nat) (p : Part) (c : CommitRun) : (copyPieces n p c).staging =
    c.staging ++ memSlice p.mem (0x1000 + 32 * c.copied) (0x1000 + 32 * (copyPieces n p c).copied) := by
  unfold copyPieces
  split
  · rfl
  · simp

/-- R47: a write that overtakes a commit changes how far its copy has come, and nothing else. -/
theorem commitOvertaken_eq (p : Part) : commitOvertaken p = { p with
    ctl := { p.ctl with
      commit := p.ctl.commit.map (copyPieces (min commitPieces (Config.commitProgress p.freeIdx)) p) }
    freeIdx := if p.ctl.commit.isSome then p.freeIdx + 1 else p.freeIdx } := by
  unfold commitOvertaken
  split
  next c hc => simp [setCtl, hc]
  next hc =>
    simp only [hc, Option.map_none, Option.isSome_none, Bool.false_eq_true, if_false]
    rw [← hc]

theorem linkWrite_opened {a : Nat} (v : Byte) (hd : disposition a = .config) (ho : p.ctl.access = .opened) :
    linkWrite a v p = (commitOvertaken p).storeByte a v := by
  have h : linkWrite a v p = writeElsewhere (configWrite a v p) := by simp [linkWrite, hd]
  rw [h, configWrite, if_pos ho, writeElsewhere_of_not_armed]
  rw [Part.storeByte_ctl, commitOvertaken_eq, ho]
  nofun

/-- R3, R47: a byte stored in a configuration record. -/
theorem exec_write_opened {s : State} {a : BitVec 14} (v : Byte) (h : offersAt s a) (hd : disposition a.toNat = .config)
    (ho : s.ctl.access = .opened) : exec (.dataWrite v) s = .next { s with
      link := { s.link with state := .data true (a + 1) }
      ctl := { s.ctl with
        commit := s.ctl.commit.map (copyPieces (min commitPieces (Config.commitProgress s.freeIdx)) (s.toPart.atLink a.toNat)) }
      exch := memWrite (found s.toPart a.toNat) a.toNat v, arb := arbAfter s.toPart a.toNat
      freeIdx := if s.ctl.commit.isSome then s.freeIdx + 1 else s.freeIdx } := by
  rw [exec_write v h (.inl rfl), linkWrite_opened (p := s.toPart.atLink a.toNat) v hd ho, commitOvertaken_eq]
  rfl

/-- R4: a protected byte that a WRITE transfer offers. -/
theorem exec_write_protected {s : State} {a : BitVec 14} (v : Byte) (hm : Memory.wf s.exch = true) (h : offersAt s a)
    (cause : ProtCause) (hw : linkWrite a.toNat v (s.toPart.atLink a.toNat) =
      writeElsewhere (protectedWrite cause a.toNat v (s.toPart.atLink a.toNat))) :
    ∃ t m, (exec (.dataWrite v) s = .next t ∧
      t = { s with link := { s.link with state := .data true (a + 1) }, ctl := t.ctl, exch := t.exch, arb := t.arb } ∧
      elsewhereSeen s t) ∧ landed s.toPart t.toPart a.toNat m ∧ protectedOffer cause.code a.toNat v (found s.toPart a.toNat) m := by
  have hf : Memory.wf (s.toPart.atLink a.toNat).exch = true := found_wf a.toNat hm
  have ho := protectedWrite_offer cause a.toNat v hf
  have hn := protectedWrite_wf cause a.toNat v hf
  have e : protectedWrite cause a.toNat v (s.toPart.atLink a.toNat) =
      s.toPart.wrote a.toNat (protectedWrite cause a.toNat v (s.toPart.atLink a.toNat)).exch s.req := protectedWrite_eq _ _ _ _
  generalize (protectedWrite cause a.toNat v (s.toPart.atLink a.toNat)).exch = n at ho hn e
  obtain ⟨t, h1, h2, h3, h4⟩ := exec_write_elsewhere h (.inl rfl) hn (hw.trans (congrArg writeElsewhere e))
  exact ⟨t, n, ⟨h1, h2, h3⟩, h4, ho⟩

/-- Log entry 5: a byte at an address that has a row of its own acts as that row's. -/
theorem exec_dataWrite_row {s : State} {a : BitVec 14} {v : Byte} (h : offersAt s a) {c : Instr} {x : Nat}
    (hc : ∀ p, execPart c p = registerWrite x v p) (hx : a.toNat = x) : exec (.dataWrite v) s = exec c s := by
  rw [exec_write v h (.inl rfl), exec_write v h (.inr (hx ▸ hc _))]

theorem exec_dataWrite_key {s : State} {a : BitVec 14} {v : Byte} (h : offersAt s a) (hx : a.toNat = keyAddr) :
    exec (.dataWrite v) s = exec (if v = 0xC3 then .keyArm else if v = 0x96 then .keyCommit else .keyOther v) s := by
  refine exec_dataWrite_row h (fun p => ?_) hx
  split
  next hv => rw [hv]; rfl
  next =>
    split
    next hv => rw [hv]; rfl
    next => rfl

/-- Settles O5, by the disposition of the address. -/
theorem writesGetTheirDisposition : Obligations.WritesGetTheirDisposition := by
  intro s a v hm ho
  have hf := found_wf a.toNat hm
  refine ⟨fun h => ?_, fun h => ?_, fun h hacc => ⟨_, exec_write_opened v ho (disposition_of_record h) hacc, rfl,
      memRead_memWrite_same _ _ _ hf, agreeOutside_memWrite hf, fun hn => ?_, fun c hc => ?_⟩,
    exec_dataWrite_row ho fun _ => rfl, exec_dataWrite_row ho fun _ => rfl, exec_dataWrite_row ho fun _ => rfl,
    exec_dataWrite_key ho, exec_dataWrite_row ho fun _ => rfl, fun h => ?_, fun h hacc => ?_⟩
  · obtain ⟨t, h1, h2, h3, h4⟩ := exec_write_elsewhere (r := s.req) ho (.inl rfl) (memWrite_wf _ a.toNat v hf)
      (by simp only [linkWrite, disposition_of_stored h]; rfl)
    exact ⟨t, _, ⟨h1, h2, h3⟩, h4, memRead_memWrite_same _ _ _ hf, agreeOutside_memWrite hf⟩
  · obtain ⟨t, h1, h2, h3, h4⟩ := exec_write_elsewhere (r := s.req) ho (.inl rfl) hf
      (by simp only [linkWrite, disposition_of_unassigned h]; rfl)
    exact ⟨t, ⟨h1, h2, h3⟩, h4⟩
  · simp [hn]
  · refine ⟨copyPieces (min commitPieces (Config.commitProgress s.freeIdx)) (s.toPart.atLink a.toNat) c, by simp [hc], by simp [hc],
      copyPieces_copied _ _ _, ?_⟩
    rw [← grantAccesses_found a.toNat]
    exact copyPieces_staging _ _ _
  · exact exec_write_protected v hm ho .area (by simp only [linkWrite, disposition_of_guarded h])
  · refine exec_write_protected v hm ho .configuration ?_
    simp only [linkWrite, disposition_of_record h, configWrite]
    exact congrArg writeElsewhere (if_neg hacc)

end Sys2Proof.Machine
end

section
namespace Sys2Proof.Machine

variable {p : Part} {P : Part → Prop}

/-! ## Notices -/

/-! ### The host clears and masks (R11 to R13) -/

/-- A record of sixteen bytes at `x`, emptied if `c`. -/
def emptyIf (c : Bool) (x : Nat) (m : Mem) : Mem := if c then memWriteN m x (zeros 16) else m

theorem emptyIf_wf (c : Bool) (x : Nat) {m : Mem} (h : Memory.wf m = true) : Memory.wf (emptyIf c x m) = true := by
  unfold emptyIf
  split
  · exact memWriteN_wf _ _ _ h
  · exact h

theorem memReadN_emptyIf {c : Bool} (hc : c = true) (x : Nat) {m : Mem} (h : Memory.wf m = true) :
    memReadN (emptyIf c x m) x 16 = zeros 16 := by
  rw [emptyIf, if_pos hc]
  simpa using memReadN_memWriteN m x (zeros 16) h

theorem emptyIf_agree (c : Bool) (x : Nat) {m : Mem} (h : Memory.wf m = true) :
    agreeOutside (fun k => c = true ∧ inRecord x 16 k) m (emptyIf c x m) := by
  unfold emptyIf
  split
  next hc => exact (agreeOutside_memWriteN h).mono fun k hk => ⟨hc, by simpa using hk⟩
  next => exact agreeOutside.refl _ _

theorem onlyIf_storeBytes_zeros (c : Bool) (x : Nat) (p : Part) :
    onlyIf c (Part.storeBytes x (zeros 16)) p = { p with exch := emptyIf c x p.exch } := by
  cases c <;> rfl

/-- The memory after a NOTICE_CLEAR has written its byte. -/
def noticeCleared (high : Bool) (v : Byte) (m : Mem) : Mem :=
  memWrite m (if high then 9 else 8) (memRead m (if high then 9 else 8) &&& v &&& (if high then 0x0F else 0xFF))

/-- The memory after it has emptied the check record. -/
def checkCleared (high : Bool) (v : Byte) (m : Mem) : Mem :=
  emptyIf (noticeOn m .check && !noticeOn (noticeCleared high v m) .check) 0x1C0 (noticeCleared high v m)

/-- R11, R12: the three writes of a NOTICE_CLEAR: the byte, and the two records whose notices go. -/
theorem clearNotices_eq (high : Bool) (v : Byte) (p : Part) : clearNotices high v p = { p with
    exch := emptyIf (noticeOn p.exch .wprot && !noticeOn (checkCleared high v p.exch) .wprot) 0x1D0 (checkCleared high v p.exch) } := by
  have hq : onlyIf (noticeOn p.exch .check && !noticeOn (noticeCleared high v p.exch) .check) emptyCheckRecord
      { p with exch := noticeCleared high v p.exch } = { p with exch := checkCleared high v p.exch } := onlyIf_storeBytes_zeros _ _ _
  have hs : p.storeByte (if high then noticeAddr + 1 else noticeAddr)
      (memRead p.exch (if high then noticeAddr + 1 else noticeAddr) &&& v &&& (if high then 0x0F else 0xFF)) =
      { p with exch := noticeCleared high v p.exch } := rfl
  unfold clearNotices
  simp only [hs, hq]
  exact onlyIf_storeBytes_zeros _ _ _

theorem noticeByte_iff {k : Nat} : noticeByte k ↔ 8 ≤ k ∧ k < 10 := Iff.rfl

/-- R11, R12: what a NOTICE_CLEAR leaves of the memory that its access finds. -/
theorem clearNotices_spec (high : Bool) (v : Byte) (h : Memory.wf p.exch = true) :
    let a : Nat := if high then 9 else 8
    let m := p.exch
    let n := (clearNotices high v p).exch
    Memory.wf n = true ∧ memRead n a = memRead m a &&& v &&& (if high then 0x0F else 0xFF) ∧
    (noticeOn m .check = true → noticeOn n .check = false → memReadN n 0x1C0 16 = List.replicate 16 0) ∧
    (noticeOn m .wprot = true → noticeOn n .wprot = false → memReadN n 0x1D0 16 = List.replicate 16 0) ∧
    agreeOutside (fun k => k = a ∨ (noticeOn m .check = true ∧ noticeOn n .check = false ∧ inRecord 0x1C0 16 k) ∨
      (noticeOn m .wprot = true ∧ noticeOn n .wprot = false ∧ inRecord 0x1D0 16 k)) m n := by
  intro a m n
  have ha : 8 ≤ a ∧ a < 10 := by cases high <;> simp [a]
  have hn : n = emptyIf (noticeOn m .wprot && !noticeOn (checkCleared high v m) .wprot) 0x1D0 (checkCleared high v m) := by
    simp only [n, clearNotices_eq, m]
  -- the byte, the check record, the protection record
  have ho : Memory.wf (noticeCleared high v m) = true := memWrite_wf _ _ _ h
  have hq : Memory.wf (checkCleared high v m) = true := emptyIf_wf _ _ ho
  have hqo : agreeOutside _ (noticeCleared high v m) (checkCleared high v m) := emptyIf_agree _ _ ho
  have hnq : agreeOutside _ (checkCleared high v m) n := hn ▸ emptyIf_agree _ _ hq
  have hqo' (x : Notice) : noticeOn (checkCleared high v m) x = noticeOn (noticeCleared high v m) x :=
    noticeOn_congr (fun k hk => hqo k fun h => by have := h.2; simp only [noticeByte_iff, inRecord] at hk this; omega) x
  have hno (x : Notice) : noticeOn n x = noticeOn (noticeCleared high v m) x :=
    (noticeOn_congr (fun k hk => hnq k fun h => by have := h.2; simp only [noticeByte_iff, inRecord] at hk this; omega) x).trans (hqo' x)
  simp only [hqo', ← hno, Bool.and_eq_true, Bool.not_eq_true'] at hqo hnq
  refine ⟨hn ▸ emptyIf_wf _ _ hq, ?_, fun h1 h2 => ?_, fun h1 h2 => ?_, fun k hk => ?_⟩
  · rw [hnq a fun h => by have := h.2; simp only [inRecord] at this; omega,
      hqo a fun h => by have := h.2; simp only [inRecord] at this; omega]
    exact memRead_memWrite_same m a _ h
  · rw [memReadN_congr fun k hk => hnq k fun h => by have := h.2; simp only [inRecord] at hk this; omega]
    exact memReadN_emptyIf (by rw [← hno, h1, h2]; rfl) 0x1C0 ho
  · rw [hn]
    exact memReadN_emptyIf (by rw [hqo', ← hno, h1, h2]; rfl) 0x1D0 hq
  · simp only [not_or, ← and_assoc] at hk
    obtain ⟨⟨hk1, hk2⟩, hk3⟩ := hk
    rw [hnq k hk3, hqo k hk2]
    exact memRead_memWrite_other m a k _ h hk1

theorem attn_iff (p : Part) :
    p.attn = true ↔ ∃ k < 16, (noticeWord p.exch).getLsbD k = true ∧ (noticeMask p.exch).getLsbD k = true := by
  unfold Part.attn
  rw [bne_iff_ne, ne_eq, BitVec.eq_of_getLsbD_eq_iff]
  simp

/-! ### The blocks set notices (R11) -/

theorem setNotice_eq (n : Notice) (p : Part) : setNotice n p = { p with arb := { p.arb with waiting := p.arb.waiting ++ [.notice n] } } :=
  rfl

theorem noticeBit_lt (n : Notice) : n.bit < 12 := by cases n <;> decide

theorem setNotice_word (n : Notice) (h : Memory.wf p.exch = true) :
    noticeWord (setNotice n p).mem = noticeWord p.mem ||| (1#16 <<< n.bit) := by
  rw [show (setNotice n p).mem = memWriteN p.mem noticeAddr (noticeBytes n p.mem) from request_mem _ _]
  exact noticeWord_memWriteN _ _ _ (mem_wf p h)

theorem or_notice_getLsbD (x : Half) (n : Notice) (k : Nat) :
    (x ||| (1#16 <<< n.bit)).getLsbD k = (decide (k = n.bit) || x.getLsbD k) := by
  have h1 : (1#16 <<< n.bit).getLsbD k = (decide (n.bit < 16) && decide (n.bit = k)) := BitVec.getLsbD_twoPow n.bit k
  have h2 : n.bit < 16 := Nat.lt_trans (noticeBit_lt n) (by decide)
  rw [BitVec.getLsbD_or, Bool.or_comm, h1, decide_eq_true h2, Bool.true_and]
  simp only [eq_comm]

theorem setNotice_agree (n : Notice) (h : Memory.wf p.exch = true) : agreeOutside noticeByte p.mem (setNotice n p).mem := by
  rw [show (setNotice n p).mem = memWriteN p.mem noticeAddr (noticeBytes n p.mem) from request_mem _ _]
  exact (agreeOutside_memWriteN (mem_wf p h)).mono fun k hk => by simpa [noticeByte] using hk

/-! ### Bits 12 to 15 (R11) -/

/-- The memory is canonical, bits 12 to 15 of its notice word are 0, and no waiting record write stands at the word. -/
def NoticeSound (m : Mem) (w : List RecordAccess) : Prop :=
  Memory.wf m = true ∧ (∀ k, 12 ≤ k → (noticeWord m).getLsbD k = false) ∧
    ∀ a bs, RecordAccess.write a bs ∈ w → ∀ k, noticeByte k → ¬ inRecord a bs.length k

/-- High bits of a notice word, as it stood or with notices set. -/
theorem noticeHigh_of_notice {x : Half} (n : Notice) (h : ∀ k, 12 ≤ k → x.getLsbD k = false) :
    ∀ k, 12 ≤ k → (x ||| (1#16 <<< n.bit)).getLsbD k = false := fun k hk => by
  have := noticeBit_lt n
  rw [or_notice_getLsbD, h k hk, Bool.or_false]
  exact decide_eq_false (by omega)

/-- A run of bytes clear of the notice word. -/
theorem noticeHigh_of_write {m : Mem} {a : Nat} {bs : List Byte} (hm : Memory.wf m = true)
    (ha : ∀ k, noticeByte k → ¬ inRecord a bs.length k) (h : ∀ k, 12 ≤ k → (noticeWord m).getLsbD k = false) :
    ∀ k, 12 ≤ k → (noticeWord (memWriteN m a bs)).getLsbD k = false := by
  rwa [noticeWord_congr fun k hk => agreeOutside_memWriteN hm k (ha k hk)]

/-- A notice set behind a record write clear of the notice word. -/
theorem noticeHigh_of_record_and_notice {m m' : Mem} (n : Notice) (hm : Memory.wf m = true)
    (h : ∀ k, 12 ≤ k → (noticeWord m').getLsbD k = false) :
    ∀ k, 12 ≤ k → (noticeWord (memWriteN m noticeAddr (noticeBytes n m'))).getLsbD k = false := by
  rw [noticeWord_memWriteN _ _ _ hm]
  exact noticeHigh_of_notice n h

/-- One waiting access granted. -/
theorem NoticeSound.grantOne {m : Mem} {x : RecordAccess} {w : List RecordAccess} (h : NoticeSound m (x :: w)) :
    NoticeSound (memWriteAll m (x.pieces m)) (x.next m ++ w) := by
  obtain ⟨hm, hh, hw⟩ := h
  refine ⟨pieces_wf x m hm, ?_, fun a bs hx => ?_⟩
  · cases x with
    | write a bs => exact noticeHigh_of_write hm (hw a bs List.mem_cons_self) hh
    | notice n => exact noticeHigh_of_record_and_notice n hm hh
    | checkFailure area slot bytes =>
      simp only [RecordAccess.pieces, checkFailurePieces]
      split
      · exact noticeHigh_of_write hm (fun k hk => by
          simp only [noticeByte_iff, inRecord, checkRecordAddr] at hk ⊢; omega) hh
      · exact noticeHigh_of_record_and_notice .check (memWriteN_wf _ _ _ hm) hh
    | answer i bs =>
      simp only [RecordAccess.pieces]
      split
      · exact noticeHigh_of_write hm (fun k hk => by simp only [noticeByte_iff, inRecord, slotAddr] at hk ⊢; omega) hh
      · exact hh
  · rcases List.mem_append.1 hx with hx | hx
    · rcases next_cases x m with e | e <;> simp [e] at hx
    · exact hw a bs (List.mem_cons_of_mem _ hx)

theorem NoticeSound.grantSome : ∀ (n : Nat) {m : Mem} {w : List RecordAccess}, NoticeSound m w →
    NoticeSound (Machine.grantSome n m w).1 (Machine.grantSome n m w).2
  | 0, _, _, h => h
  | n + 1, m, [], h => by rw [grantSome_nil]; exact h
  | n + 1, m, x :: w, h => by rw [grantSome_cons]; exact NoticeSound.grantSome n h.grantOne

theorem NoticeSound.grantAccesses {m : Mem} {w : List RecordAccess} (h : NoticeSound m w) :
    NoticeSound (Machine.grantAccesses m w) [] := by
  obtain ⟨k, hk⟩ := grantSome_all w m
  have hg := hk []
  rw [List.append_nil] at hg
  have hs := NoticeSound.grantSome k h
  rwa [hg] at hs

theorem blockAccess_clear {a : Nat} {bs : List Byte} (h : blockAccess (.write a bs)) :
    ∀ k, noticeByte k → ¬ inRecord a bs.length k := fun k hk => by
  simp only [noticeByte_iff, inRecord] at hk ⊢
  rcases h with ⟨-, -, h⟩ | ⟨i, rfl, -, -⟩ <;> omega

theorem noticeSound_controlClosed : ControlClosed fun p => NoticeSound p.exch p.arb.waiting :=
  controlClosed_of_arb
    (fun _ _ _ hx ⟨hm, hh, hw⟩ => ⟨hm, hh, fun a bs hb => (List.mem_append.1 hb).elim (hw a bs) fun e =>
      blockAccess_clear (List.mem_singleton.1 e ▸ hx)⟩)
    fun _ _ h => h.grantAccesses

/-- A byte written elsewhere than at the notice word. -/
theorem NoticeSound.memWrite {m : Mem} {w : List RecordAccess} {a : Nat} (v : Byte) (h : NoticeSound m w) (ha : ¬ noticeByte a) :
    NoticeSound (memWrite m a v) w := by
  obtain ⟨hm, hh, hw⟩ := h
  refine ⟨memWrite_wf _ _ _ hm, ?_, hw⟩
  rwa [noticeWord_congr fun k hk => memRead_memWrite_other m a k v hm fun e => ha (e ▸ hk)]

/-- The high bits of the notice word are those of its second byte. -/
theorem noticeHigh_iff (m : Mem) : (∀ k, 12 ≤ k → (noticeWord m).getLsbD k = false) ↔ (memRead m 9).toNat < 16 := by
  have hb : (noticeWord m).toNat = (memRead m 8).toNat + 256 * (memRead m 9).toNat := by
    rw [noticeWord_toNat]
    simp [readNat, memReadN, leNat, noticeAddr]
  have h8 := (memRead m 8).isLt
  constructor
  · intro h
    have hlt : (noticeWord m).toNat < 2 ^ 12 := Nat.lt_pow_two_of_testBit _ fun k hk => h k hk
    omega
  · intro h k hk
    exact Nat.testBit_lt_two_pow (Nat.lt_of_lt_of_le (by omega : (noticeWord m).toNat < 2 ^ 12) (Nat.pow_le_pow_right (by decide) hk))

theorem noticeSound_showsHost : ShowsHost fun p => NoticeSound p.exch p.arb.waiting where
  toShowsControl := noticeSound_controlClosed.toShowsRestart.toShowsControl
  stored p a v ha hp := hp.memWrite v fun h => by
    simp only [storedAddr, inRecord, noticeByte_iff] at ha h
    omega
  clear p high v hp := by
    obtain ⟨hm, hh, hw⟩ := hp
    obtain ⟨hn, hb, -, -, ha⟩ := clearNotices_spec high v hm
    refine ⟨hn, (noticeHigh_iff _).2 ?_, by rw [clearNotices_eq]; exact hw⟩
    cases high with
    | true =>
      rw [show (9 : Nat) = if true = true then 9 else 8 from rfl, hb, BitVec.toNat_and]
      exact Nat.lt_of_le_of_lt Nat.and_le_right (by decide)
    | false =>
      rw [ha 9 (by simp [inRecord])]
      exact (noticeHigh_iff _).1 hh
  guard p cause a v hp := by
    obtain ⟨hm, hh, hw⟩ := hp
    refine ⟨protectedWrite_wf cause a v hm, ?_, by rw [protectedWrite_eq]; exact hw⟩
    have ho := protectedWrite_offer cause a v hm
    unfold protectedOffer at ho
    split at ho
    · rwa [noticeWord_congr fun k hk => ho.2 k fun e => by rw [noticeByte_iff, e] at hk; omega]
    · rw [ho.2.1]
      exact noticeHigh_of_notice .wprot hh
  link _ _ hp := hp
  grantLink _ hp := NoticeSound.grantSome _ hp

theorem initBegin_noticeSound (l : Link) (p : Part) : NoticeSound (initBegin l p).exch (initBegin l p).arb.waiting :=
  onlyIf_closed (P := fun p => NoticeSound p.exch p.arb.waiting) (fun _ hq => initWork_closed noticeSound_controlClosed hq) _
    ⟨rfl, (noticeHigh_iff []).2 (by decide), fun _ _ hx => absurd hx List.not_mem_nil⟩

theorem execPart_noticeSound (c : Instr) (hp : NoticeSound p.exch p.arb.waiting) :
    NoticeSound (execPart c p).exch (execPart c p).arb.waiting := by
  by_cases hl : linkCommand c
  · refine execPart_link_shows noticeSound_showsHost (fun _ a v q ha hq => hq.memWrite v fun h => ?_) hl hp
    simp only [recordAddr, inRecord, noticeByte_iff] at ha h
    omega
  · by_cases hc : c = .powerOn
    · subst hc
      exact initBegin_noticeSound _ _
    · exact execPart_closed noticeSound_controlClosed (fun _ _ _ => initBegin_noticeSound _ _) hl hc hp

/-- R11: bits 12 to 15 stay 0. -/
theorem step_noticeSound {s t : State} (h : NoticeSound s.exch s.arb.waiting) (hs : step s = .next t) :
    NoticeSound t.exch t.arb.waiting := by
  rcases step_part hs with ⟨c, e⟩ | e
  · exact e ▸ execPart_noticeSound c h
  · exact e ▸ idleStep_closed noticeSound_controlClosed h

/-! ### Outside service nothing waits (R13) -/

/-- Each unit but those that end a restart leaves the part running. -/
theorem live_showsHost : ShowsHost fun p => p.live = true := by
  have hin : InputClosed fun p => p.live = true :=
    { store := fun _ _ _ _ hp => hp, notice := fun _ _ hp => hp, check := fun _ _ _ _ _ hp => hp, jour := fun _ _ hp => hp
      lamps := fun _ _ hp => hp, lampU := fun _ _ hp => hp, chime := fun _ _ hp => hp, panel := fun _ _ hp => hp
      ptrs := fun _ _ hp => hp, acct := fun _ _ hp => hp, chans := fun _ _ hp => hp, conv := fun _ _ hp => hp
      free := fun _ _ hp => hp, pulse := fun _ _ hp => hp, sw := fun _ _ hp => hp }
  have own : OwnClosed fun p => p.live = true := ⟨fun _ _ _ _ hp => hp⟩
  exact {
    toShowsControl := hin.toShowsControl
      { toMemClosed := hin.toMemClosed, grant := fun _ hp => hp, reading := fun _ hp => hp
        slot := fun _ _ _ _ _ hp => hp, answer := fun _ _ _ _ _ hp => hp }
      (fun p x ho _ hr hp => by simpa only [Part.live, ho, hr] using hp)
      (fun p x hx hp => by
        simp only [Part.live, Bool.and_eq_true] at hp ⊢
        exact ⟨bne_iff_ne.2 hx, hp.2⟩)
      (fun _ _ hp => hp) (fun _ _ hp => hp) (fun _ _ hp => hp) (fun _ _ hp => hp) (fun _ _ hp => hp)
    stored := fun _ _ _ _ hp => hp
    clear := fun _ _ _ hp => clearNotices_closed own _ _ hp
    guard := fun _ _ _ _ hp => protectedWrite_closed own _ _ _ hp
    link := fun _ _ hp => hp
    grantLink := fun _ hp => hp }

theorem live_iff : p.live = true ↔ p.ctl.op ≠ .init ∧ p.ctl.restart = none := by simp [Part.live]

/-- Nothing waits unless the part runs. -/
def IdleOutsideService (p : Part) : Prop := p.live = true ∨ p.arb.waiting = []

/-- R55: a restart that begins grants what waits. -/
theorem restartCause_idle (cause : Cause) (h : p.live = true) : IdleOutsideService (restartCause cause p) := by
  obtain ⟨ho, hr⟩ := live_iff.1 h
  right
  simp [restartCause, ho, hr, restartBegin, grantAll_eq]

theorem handRestarts_idle (h : p.live = true) : IdleOutsideService (handRestarts p) :=
  ite_closed (.inl h) (restartCause_idle _ h)

/-- R22: a scan leaves the part running unless it hands over a restart. -/
theorem exchangeScan_idle (h : p.live = true) : IdleOutsideService (exchangeScan p) := by
  unfold exchangeScan
  split
  next sc _ => exact handRestarts_idle (scanTaken_shows live_showsHost.toShowsControl sc h)
  next => exact .inl h

theorem restartRow_idle (i : Fin 8) (h : p.live = true) : IdleOutsideService (execPart (.restart i) p) := by
  have hc := live_showsHost.toShowsControl
  exact ite_closed (handRestarts_idle (restartRequest_shows hc _ _ (onlyIf_closed (P := fun p => p.live = true)
    (fun _ hq => markTaken_shows hc _ _ hq) _ (hc.reading _ h)))) (.inl h)

theorem levelChange_idle (f : Control → Control) (hf : (f p.ctl).op = p.ctl.op) (hr : (f p.ctl).restart = p.ctl.restart) (low : Bool)
    (cause : Cause) (h : p.live = true) : IdleOutsideService (levelChange f low cause p) := by
  have hl : (setCtl f p).live = true := by
    obtain ⟨h1, h2⟩ := live_iff.1 h
    exact live_iff.2 ⟨fun e => h1 (hf ▸ e), hr.trans h2⟩
  refine ite_closed (restartCause_idle cause hl) (.inl ?_)
  unfold initAgain
  rwa [if_neg fun hi => (live_iff.1 hl).1 hi.1]

/-- A command of the part, while it runs. -/
theorem execPart_idle_of_live {c : Instr} (hl : ¬ linkCommand c) (hc : c ≠ .powerOn) (h : p.live = true) :
    IdleOutsideService (execPart c p) := by
  obtain ⟨ho, hr⟩ := live_iff.1 h
  cases hx : restarts c with
  | false => exact .inl (execPart_shows live_showsHost.toShowsControl (absurd · ho) (by simp [hx]) (fun _ _ _ hq => hq) hl hc h)
  | true =>
    cases c with
    | exchangeScan => exact onlyIf_keeps _ (exchangeScan_idle h) (.inl h)
    | restart i => exact restartRow_idle i h
    | resetAssert | supplyBelowReset => exact onlyIf_keeps _ (levelChange_idle _ rfl rfl _ _ h) (.inl h)
    | restartEnd => exact .inl (by simp [execPart, restartEnd, hr, h])
    | _ => exact absurd hx (by simp [restarts])

/-- No record access waits. -/
def NothingWaits (p : Part) : Prop := p.arb.waiting = []

theorem initBegin_waiting (l : Link) (p : Part) : NothingWaits (initBegin l p) :=
  onlyIf_closed (P := NothingWaits) (f := initWork) (fun _ _ => rfl) _ rfl

/-! What does not ask for a record access leaves nothing waiting. -/

theorem satisfyServed_waits (h : NothingWaits p) : NothingWaits (satisfyServed p) := by
  have hq : NothingWaits (forEach p.chime.served (fun i => setLamp i fun l => { l with owed := false }) p) := by
    refine forEach_closed (P := NothingWaits) (fun i q hq => ?_) _ h
    exact hq
  exact hq

theorem chimeIdle_waits (h : NothingWaits p) : NothingWaits (chimeIdle p) := ite_closed (P := NothingWaits) h h

theorem coilBoundary_waits (h : NothingWaits p) : NothingWaits (coilBoundary p) := by
  refine forEach_closed (P := NothingWaits) (fun i q hq => ?_) allPtrs h
  exact ite_closed (P := NothingWaits) hq hq

theorem lampBoundary_waits (h : NothingWaits p) : NothingWaits (lampBoundary p) := by
  refine ite_closed (P := NothingWaits) h (forEach_closed (P := NothingWaits) (fun i q hq => ?_) allLamps h)
  exact hq

theorem pulseEdge_waits (i : Fin 4) (rising : Bool) (now : Word) (h : NothingWaits p) : NothingWaits (pulseEdge i rising now p) :=
  onlyIf_closed (P := NothingWaits) (f := setPulse i (takeEdge now)) (fun _ hq => hq) _ (ite_closed (P := NothingWaits) h h)

theorem initAgain_waits (h : NothingWaits p) : NothingWaits (initAgain p) :=
  ite_closed (P := NothingWaits) (onlyIf_closed (P := NothingWaits) (f := initBegin p.link) (fun _ _ => initBegin_waiting _ _) _ h) h

theorem unitsRun_of_not_live (h : p.live = false) : p.unitsRun = false := by
  cases ho : p.ctl.op <;> simp_all [Part.unitsRun, Part.live]

/-- R13: outside service what an event asks for is granted with it. -/
theorem grantUnlessLive_idle (p : Part) : IdleOutsideService (grantUnlessLive p) := by
  unfold grantUnlessLive onlyIf
  split
  · exact .inr rfl
  next h => exact .inl (by simpa using h)

/-- A command of the part, in INIT or in a restart. -/
theorem execPart_idle_of_not_live {c : Instr} (hl : ¬ linkCommand c) (hc : c ≠ .powerOn) (h : p.live = false)
    (hw : p.arb.waiting = []) : IdleOutsideService (execPart c p) := by
  have hp : IdleOutsideService p := .inr hw
  have hu := unitsRun_of_not_live h
  have off (f : Part → Part) : IdleOutsideService (onlyIf p.live f p) := by rwa [h]
  have units (f : Part → Part) : IdleOutsideService (onlyIf p.unitsRun f p) := by rwa [hu]
  have taken (i : Fin 8) : ¬ requestTaken i p = true := by simp [requestTaken, h]
  have short (i : Fin 8) (k : Byte) (ps : List Byte) (act : Part → Reply) : IdleOutsideService (shortRow i k ps act p) := by
    rwa [shortRow, if_neg (taken i)]
  have long (i : Fin 8) (k : Byte) (ps : List Byte) (act : List Byte → Part → Part) : IdleOutsideService (longRow i k ps act p) := by
    rwa [longRow, if_neg (taken i)]
  have cause (f : Control → Control) (x : Cause) (ho : (f p.ctl).op = p.ctl.op) (hr : (f p.ctl).restart = p.ctl.restart) :
      (levelChange f true x p).arb.waiting = [] := by
    by_cases hi : p.ctl.op = .init
    · simp [levelChange, restartCause, ho, hi, hw]
    · have hs : p.ctl.restart.isSome = true := by
        cases he : p.ctl.restart with
        | some => rfl
        | none => exact absurd (live_iff.2 ⟨hi, he⟩) (by simp [h])
      simp [levelChange, restartCause, ho, hr, hi, hs, hw]
  have passed (f : Control → Control) (x : Cause) : (levelChange f false x p).arb.waiting = [] :=
    initAgain_waits (p := setCtl f p) hw
  cases c with
  | powerOn => exact absurd rfl hc
  | selAssert | readCommand | writeCommand | ignore | addressHigh | addressLow | dataRead | dataWrite | selRelease
  | keyArm | keyCommit | keyOther | prompt | noticeClear | noticeMaskWrite | readMarkWrite => exact absurd trivial hl
  | initEnd => exact ite_closed (.inr rfl) hp
  | restartEnd =>
    simp only [execPart, restartEnd]
    split
    · exact ite_closed (.inr rfl) hp
    · exact hp
  | setActivity | cardIn | cardOut | swapSeats | setTime | ackLamp | setLamp | showPage | snapshot => exact short _ _ _ _
  | prove | homePointer | restart => exact long _ _ _ _
  | resetAssert | supplyBelowReset => exact onlyIf_keeps _ (.inr (cause _ _ rfl rfl)) hp
  | resetRelease | supplyAboveReset => exact onlyIf_keeps _ (.inr (passed _ _)) hp
  | testToneEnd => exact onlyIf_keeps _ (.inr hw) hp
  | conversionSlot => simpa [execPart, hu, onlyIf] using hp
  | conversionComplete | windowEnd | switchChange => exact units _
  | pulseEdge => exact .inr (pulseEdge_waits _ _ _ hw)
  | coilPeriodBoundary => exact .inr (coilBoundary_waits hw)
  | lampPeriodBoundary => exact .inr (lampBoundary_waits hw)
  | chimeToneEnd =>
    simp only [execPart, chimeToneEnd]
    split
    · exact .inr (satisfyServed_waits hw)
    · exact hp
  | chimeGapEnd =>
    simp only [execPart, chimeGapEnd]
    split
    · exact .inr (chimeIdle_waits hw)
    · exact hp
  | secondTick => exact onlyIf_keeps (f := fun q => grantUnlessLive (secondTick q)) _ (grantUnlessLive_idle _) hp
  | journalSubmission sub => exact onlyIf_keeps (f := fun q => grantUnlessLive (submit sub q)) _ (grantUnlessLive_idle _) hp
  | dipStart | recovery | settleTimerExpiry | messageDisplayTimeout => simpa [execPart, h, onlyIf] using hp
  | _ => exact off _

/-- Outside service the link's own commands ask for nothing and grant nothing. -/
theorem execPart_link_of_not_live {c : Instr} (hl : linkCommand c) (h : p.live = false) (hw : NothingWaits p) :
    NothingWaits (execPart c p) := by
  have register (a : Nat) (v : Byte) : NothingWaits (registerWrite a v p) := by
    obtain ⟨l, e⟩ := registerWrite_of_not_live a v h
    rw [e]
    exact hw
  have command (l : LinkState) : NothingWaits (commandByte l p) := by
    unfold commandByte
    split <;> exact hw
  cases c with
  | selAssert =>
    simp only [execPart, selAssert]
    split <;> exact hw
  | readCommand | writeCommand | ignore => exact command _
  | addressHigh =>
    simp only [execPart, addressHigh]
    split <;> exact hw
  | addressLow =>
    simp only [execPart, addressLow]
    split <;> exact hw
  | dataRead =>
    simp only [execPart, dataRead, arbitrate_of_not_live _ h]
    split <;> exact hw
  | dataWrite =>
    simp only [execPart, dataWrite, servedWrite_of_not_live _ _ h]
    split <;> exact hw
  | selRelease => exact hw
  | keyArm | keyCommit | keyOther | prompt | noticeClear | noticeMaskWrite | readMarkWrite => exact register _ _
  | _ => exact absurd hl id

theorem execPart_idle (c : Instr) (hp : p.live = false → NothingWaits p) : IdleOutsideService (execPart c p) := by
  by_cases hc : c = .powerOn
  · subst hc
    exact .inr (initBegin_waiting _ _)
  by_cases hl : linkCommand c
  · cases h : p.live with
    | true => exact .inl (execPart_link_shows live_showsHost (fun _ _ _ _ _ hq => hq) hl h)
    | false => exact .inr (execPart_link_of_not_live hl h (hp h))
  · cases h : p.live with
    | true => exact execPart_idle_of_live hl hc h
    | false => exact execPart_idle_of_not_live hl hc h (hp h)

/-- R13: outside service nothing waits, after every step. -/
theorem step_idle {s t : State} (h : s.live = false → NothingWaits s.toPart) (hs : step s = .next t) (ht : t.live = false) :
    NothingWaits t.toPart := by
  have hp : IdleOutsideService t.toPart := by
    rcases step_part hs with ⟨c, e⟩ | e
    · exact e ▸ execPart_idle c h
    · rw [e]
      cases hl : s.live with
      | true => exact .inl (idleStep_shows live_showsHost.toShowsControl hl)
      | false => exact .inr (ite_closed (P := NothingWaits) (h hl) rfl)
  exact hp.resolve_left (by simp [ht])

/-- R11, R12: a NOTICE_CLEAR at the byte that a WRITE transfer has reached. -/
theorem exec_noticeClear {s : State} {a : BitVec 14} (high : Bool) (v : Byte) (hm : Memory.wf s.exch = true) (h : offersAt s a)
    (ha : a.toNat = if high then 9 else 8) : ∃ t, exec (.noticeClear high v) s = .next t ∧
      t = { s with link := { s.link with state := .data true (a + 1) }, ctl := t.ctl, exch := t.exch, arb := t.arb } ∧
      elsewhereSeen s t ∧ landed s.toPart t.toPart a.toNat (clearNotices high v (s.toPart.atLink a.toNat)).exch := by
  have hn := (clearNotices_spec high v (p := s.toPart.atLink a.toNat) (found_wf a.toNat hm)).1
  refine exec_write_elsewhere (r := s.req) (v := v) h (.inr ?_) hn ?_
  · rw [ha]
    cases high <;> rfl
  · have hd : linkWrite a.toNat v (s.toPart.atLink a.toNat) = writeElsewhere (clearNotices high v (s.toPart.atLink a.toNat)) := by
      rw [ha]
      cases high <;> rfl
    rw [hd, clearNotices_eq]
    rfl

/-- R13: a NOTICE_MASK_WRITE stores its byte. -/
theorem exec_noticeMaskWrite {s : State} {a : BitVec 14} (high : Bool) (v : Byte) (hm : Memory.wf s.exch = true) (h : offersAt s a)
    (ha : a.toNat = if high then 11 else 10) : ∃ t, exec (.noticeMaskWrite high v) s = .next t ∧
      t = { s with link := { s.link with state := .data true (a + 1) }, ctl := t.ctl, exch := t.exch, arb := t.arb } ∧
      elsewhereSeen s t ∧ landed s.toPart t.toPart a.toNat (memWrite (found s.toPart a.toNat) a.toNat v) := by
  refine exec_write_elsewhere (r := s.req) (v := v) h (.inr ?_) (memWrite_wf _ _ _ (found_wf a.toNat hm)) ?_
  · rw [ha]
    cases high <;> rfl
  · have hd : disposition a.toNat = .stored := disposition_of_stored (by
      rw [ha]
      cases high <;> simp [storedAddr, inRecord])
    simp only [linkWrite, hd]
    rfl

/-- Settles O8: the bytes of NOTICE_CLEAR, the notices of the blocks, and what every grant leaves of bits 12 to 15. -/
theorem noticeByteWrites : Obligations.NoticeByteWrites := by
  refine ⟨fun s v high hm ho => ?_, fun s v high hm ho => ?_, attn_iff,
    fun n p hm => ⟨rfl, fun k _ => by rw [setNotice_word n hm, or_notice_getLsbD], setNotice_agree n hm⟩,
    fun s t hm hs ht => ?_, fun p hm hp => ?_, fun s t hi hs ht => ?_⟩
  · have clear (a : BitVec 14) (ho : offersAt s a) (ha : a.toNat = if high then 9 else 8) := exec_noticeClear high v hm ho ha
    cases high <;> obtain ⟨t, h1, h2, h3, h4⟩ := clear _ ho rfl <;>
      exact ⟨t, _, h1, h2, h3, h4, (clearNotices_spec _ v (found_wf _ hm)).2⟩
  · have mask (a : BitVec 14) (ho : offersAt s a) (ha : a.toNat = if high then 11 else 10) := exec_noticeMaskWrite high v hm ho ha
    cases high <;> obtain ⟨t, h1, h2, h3, h4⟩ := mask _ ho rfl <;>
      exact ⟨t, _, h1, h2, h3, h4, memRead_memWrite_same _ _ _ (found_wf _ hm), agreeOutside_memWrite (found_wf _ hm)⟩
  · exact (step_noticeSound ⟨hm, hs⟩ ht).2
  · have hg : NoticeSound p.mem [] := NoticeSound.grantAccesses ⟨hm, hp⟩
    exact ⟨(noticeHigh_iff _).1 hp.1, (noticeHigh_iff _).1 hg.2.1⟩
  · have hw := step_idle hi hs ht
    exact ⟨hw, mem_of_idle _ hw⟩

end Sys2Proof.Machine
end

section
namespace Sys2Proof.Machine

variable {p : Part}

/-! ## Record accesses -/

/-! ### Runs of record accesses (R8, R10) -/

theorem pieces_length (n : Nat) : ∀ (a : Nat) (bs : List Byte), (pieces n a bs).length = n := by
  induction n with
  | zero => intro a bs; rfl
  | succ n ih => intro a bs; simp [pieces, ih]

/-- The pieces of a run join to the record, its first bytes in the last access. -/
theorem pieces_reverse_flatten (n : Nat) : ∀ (a : Nat) (bs : List Byte), bs.length ≤ 32 * n →
    ((pieces n a bs).reverse.map (·.bytes)).flatten = bs := by
  induction n with
  | zero =>
    intro a bs h
    exact (List.eq_nil_of_length_eq_zero (by omega)).symm
  | succ n ih =>
    intro a bs h
    simp only [pieces, List.reverse_append, List.reverse_singleton, List.singleton_append, List.map_cons, List.flatten_cons]
    rw [ih _ _ (by simp; omega), List.take_append_drop]

/-- The `k`-th access from the end writes the `k`-th run of 32 bytes. -/
theorem pieces_reverse_getElem? (n : Nat) : ∀ (a : Nat) (bs : List Byte) (k : Nat) (x : Piece),
    (pieces n a bs).reverse[k]? = some x → x.addr = a + 32 * k := by
  induction n with
  | zero => intro a bs k x h; simp [pieces] at h
  | succ n ih =>
    intro a bs k x h
    simp only [pieces, List.reverse_append, List.reverse_singleton, List.singleton_append] at h
    cases k with
    | zero => simp at h; simp [← h]
    | succ k =>
      have := ih _ _ k x (by simpa using h)
      omega

/-- The first `k` accesses of a run write the record's last `k` runs of bytes. -/
theorem pieces_take (n : Nat) : ∀ (a : Nat) (bs : List Byte) (k : Nat), k ≤ n →
    (pieces n a bs).take k = pieces k (a + 32 * (n - k)) (bs.drop (32 * (n - k))) := by
  induction n with
  | zero =>
    intro a bs k h
    obtain rfl : k = 0 := by omega
    rfl
  | succ n ih =>
    intro a bs k h
    rcases Nat.lt_or_ge n k with hk | hk
    · obtain rfl : k = n + 1 := by omega
      rw [List.take_of_length_le (by rw [pieces_length])]
      simp
    · rw [pieces, List.take_append_of_le_length (by rw [pieces_length]; exact hk), ih _ _ k hk, List.drop_drop]
      have e : 32 + 32 * (n - k) = 32 * (n + 1 - k) := by omega
      rw [Nat.add_assoc, e]

/-- Granting record writes grants them one by one. -/
theorem grantSome_writes (xs : List Piece) : ∀ (k : Nat) (m : Mem),
    (grantSome k m (xs.map fun x => .write x.addr x.bytes)).1 = grantAccesses m ((xs.take k).map fun x => .write x.addr x.bytes) := by
  induction xs with
  | nil => intro k m; simp
  | cons x xs ih =>
    intro k m
    cases k with
    | zero => rfl
    | succ k => exact ih k _

/-- Once `k` accesses of a run are granted, the link meets the record's last `k` runs of bytes new and the others old. -/
theorem grantSome_pieces (a : Nat) (bs : List Byte) {m : Mem} (h : Memory.wf m = true) {k : Nat} (hk : k ≤ (bs.length + 31) / 32) :
    (grantSome k m ((pieces ((bs.length + 31) / 32) a bs).map fun x => .write x.addr x.bytes)).1 =
      memWriteN m (a + 32 * ((bs.length + 31) / 32 - k)) (bs.drop (32 * ((bs.length + 31) / 32 - k))) := by
  rw [grantSome_writes, pieces_take _ _ _ _ hk, pieces_write _ _ _ _ h (by simp; omega)]

theorem memRead_partial_run (a : Nat) (bs : List Byte) {m : Mem} (h : Memory.wf m = true) (d : Nat) :
    agreeOutside (inRecord a bs.length) m (memWriteN m (a + d) (bs.drop d)) ∧
      ∀ j < bs.length, memRead (memWriteN m (a + d) (bs.drop d)) (a + j) = if d ≤ j then byteAt bs j else memRead m (a + j) := by
  refine ⟨(agreeOutside_memWriteN h).mono fun k hk => ?_, fun j hj => ?_⟩
  · simp only [inRecord, List.length_drop] at hk ⊢
    omega
  · split
    next hd =>
      rw [memRead_memWriteN_in _ _ _ _ h (by omega) (by simp; omega)]
      simp [byteAt, List.getD_eq_getElem?_getD, show d + (a + j - (a + d)) = j by omega]
    next hd => exact memRead_memWriteN_out _ _ _ _ h (by omega)

/-! ### What blocks ask for, and what is granted -/

/-- Everything that only asks keeps `Requested`. -/
theorem requested_inputClosed (p : Part) : InputClosed (Requested p) :=
  inputClosed_of_arbiter (Q := fun m r => Requested p { p with exch := m, arb := r }) fun _ _ _ hx h => h.request hx

theorem granted_controlClosed (p : Part) :
    ControlClosed fun q => Granted p q ∧ (q.arb.last = p.arb.last ∨ q.arb.last = .record) :=
  controlClosed_of_arbiter
    (Q := fun m r => Granted p { p with exch := m, arb := r } ∧ (r.last = p.arb.last ∨ r.last = .record))
    (fun _ _ _ hx h => ⟨h.1.request hx, h.2⟩)
    fun m r l hl h => ⟨h.1.grantAll.last l, by rcases hl with rfl | rfl; exacts [h.2, .inr rfl]⟩

/-- The commands that only ask grant nothing while the part runs. -/
theorem execPart_requested {c : Instr} (hc : onlyAsks c) (hl : p.live = true) : Requested p (execPart c p) := by
  have h := requested_inputClosed p
  have hla := h.toLampClosed
  have hp := Requested.refl p
  have set (f : Control → Control) : Requested p (setCtl f p) := hp
  have told (q : Part) (hq : q.live = true) : grantUnlessLive q = q := by simp [grantUnlessLive, onlyIf, hq]
  have hs := live_showsHost.toShowsControl
  cases c with
  | scanTimerExpiry =>
    refine onlyIf_keeps _ ?_ hp
    unfold scanTimerExpiry
    split <;> exact hp
  | testToneEnd => exact onlyIf_keeps _ (stopTestTone_closed hla hp) hp
  | conversionSlot => exact onlyIf_keeps _ (conversionSlot_closed h _ hp) hp
  | conversionComplete => exact onlyIf_keeps _ (conversionComplete_closed h hp) hp
  | pulseEdge => exact pulseEdge_closed h _ _ _ hp
  | windowEnd => exact onlyIf_keeps _ (windowEnd_closed h _ hp) hp
  | switchChange => exact onlyIf_keeps _ (switchChange_closed h _ _ hp) hp
  | coilPeriodBoundary => exact coilBoundary_closed h.toPtrClosed hp
  | onDelayExpiry => exact onlyIf_keeps _ (onDelayExpiry_closed hla _ hp) hp
  | flashPhaseChange => exact onlyIf_keeps _ (flashChange_closed hla _ hp) hp
  | lampPeriodBoundary => exact lampBoundary_closed hla hp
  | senseCheck => exact onlyIf_keeps _ (senseCheck_closed hla _ hp) hp
  | overcurrent => exact onlyIf_keeps _ (overcurrent_closed hla _ hp) hp
  | chimeToneEnd => exact chimeToneEnd_closed hla hp
  | chimeGapEnd => exact chimeGapEnd_closed hla hp
  | secondTick =>
    refine onlyIf_keeps (f := fun q => grantUnlessLive (secondTick q)) _ ?_ hp
    rw [told _ (secondTick_shows hs hl)]
    exact secondTick_closed h.toChanClosed hp
  | journalSubmission sub =>
    refine onlyIf_keeps (f := fun q => grantUnlessLive (submit sub q)) _ ?_ hp
    rw [told _ (submit_shows hs.toShowsJournal sub hl)]
    exact submit_closed h.toJournalClosed _ hp
  | confirmTimerExpiry => exact onlyIf_keeps _ (confirmExpiry_closed h.toAcctClosed hp) hp
  | panelRefresh => exact onlyIf_keeps _ (panelRefresh_closed hla hp) hp
  | messageDisplayTimeout => exact onlyIf_keeps _ (displayTimeout_closed hla hp) hp
  | dipStart =>
    refine onlyIf_keeps _ (forEach_closed (fun i _ hq => freezePtr_closed h.toPtrClosed i hq) _ (forEach_closed
      (fun c _ hq => dipChan_closed h.toChanClosed c hq) _ (muteTestTone_closed hla (chimeSync_closed hla ?_)))) hp
    exact h.notice _ _ (set _)
  | recovery =>
    refine onlyIf_keeps _ (chimeSync_closed hla (composeLamps_closed hla (forEach_closed
      (fun i _ hq => thawPtr_closed h.toPtrClosed i hq) _ ?_))) hp
    exact set _
  | settleTimerExpiry => exact onlyIf_keeps _ (h.notice _ _ (set _)) hp
  | _ => exact absurd hc id

theorem Granted.mem {p q : Part} {new : List RecordAccess}
    (h : (q.exch = p.exch ∧ q.arb.waiting = p.arb.waiting ++ new) ∨
      ∃ k, ∀ ys, grantSome k p.mem (new ++ ys) = (q.exch, q.arb.waiting ++ ys)) : q.mem = grantAccesses p.mem new := by
  rcases h with ⟨h1, h2⟩ | ⟨k, hk⟩
  · rw [Part.mem, h1, h2, grantAccesses_append]
    rfl
  · have e := grantSome_rest k p.mem new
    have hk := hk []
    rw [List.append_nil, List.append_nil] at hk
    rw [hk] at e
    exact e

/-- R7: what any command of the part asks for and grants. -/
theorem execPart_grants {c : Instr} (hl : ¬ linkCommand c) (hc : c ≠ .powerOn) (hi : p.ctl.op ≠ .init) :
    (execPart c p).arb.idx = p.arb.idx ∧ ((execPart c p).arb.last = p.arb.last ∨ (execPart c p).arb.last = .record) ∧
    ∃ new : List RecordAccess, (∀ x ∈ new, blockAccess x) ∧ (execPart c p).mem = grantAccesses p.mem new ∧
      let asked : Prop := (execPart c p).exch = p.exch ∧ (execPart c p).arb.waiting = p.arb.waiting ++ new
      (onlyAsks c → p.live = true → asked ∧ (execPart c p).arb.last = p.arb.last) ∧
      (asked ∨ ∃ k, ((execPart c p).exch, (execPart c p).arb.waiting) = grantSome k p.mem new) := by
  by_cases ha : onlyAsks c ∧ p.live = true
  · obtain ⟨h1, new, h2, h3⟩ := execPart_requested ha.1 ha.2
    have hw : (execPart c p).arb.waiting = p.arb.waiting ++ new := congrArg Arbiter.waiting h3
    have hl : (execPart c p).arb.last = p.arb.last := by rw [h3]
    exact ⟨by rw [h3], .inl hl, new, h2, Granted.mem (.inl ⟨h1, hw⟩), fun _ _ => ⟨⟨h1, hw⟩, hl⟩, .inl ⟨h1, hw⟩⟩
  · obtain ⟨⟨h1, new, h2, h3⟩, h4⟩ := execPart_closed (granted_controlClosed p) (absurd · hi) hl hc ⟨Granted.refl p, .inl rfl⟩
    refine ⟨h1, h4, new, h2, Granted.mem h3, fun ho hv => absurd ⟨ho, hv⟩ ha, h3.imp_right fun ⟨k, hk⟩ => ⟨k, ?_⟩⟩
    simpa using (hk []).symm

/-- The number of grants before a link byte access within the exchange memory (log entry 38). -/
theorem beforeLink_eq (r : Arbiter) : r.beforeLink =
    if r.last = .link ∧ Config.grantProgress r.idx = 0 then 1 else Config.grantProgress r.idx := by
  unfold Arbiter.beforeLink
  by_cases hl : r.last = .link <;> by_cases hn : Config.grantProgress r.idx = 0 <;> simp [hl, hn]
  omega

theorem found_of_memory {a : Nat} (h : a < 0x3FF0) : found p a = (grantSome p.arb.beforeLink p.exch p.arb.waiting).1 := by
  simp [found, grantsBefore, h]

theorem arbAfter_of_memory {a : Nat} (h : a < 0x3FF0) : arbAfter p a =
    { last := .link, waiting := (grantSome p.arb.beforeLink p.exch p.arb.waiting).2, idx := p.arb.idx + 1 } := by
  simp [arbAfter, grantsBefore, h]

theorem storedAddr_lt {a : Nat} (h : storedAddr a) : a < 0x3FF0 := by
  simp only [storedAddr, inRecord] at h
  omega

/-! ### SNAPSHOT (R28, R31) -/

theorem snapshot_eq {page : Byte} (h : page.toNat < 3) (p : Part) :
    snapshot page p = accept (p.storeRun 0x200 (diagWindow page p)) := if_pos (Nat.le_of_lt_succ h)

@[simp] theorem grantReading_mem (p : Part) : p.grantReading.mem = p.mem := by simp [grantReading_eq, Part.mem]

theorem diagWindow_grantReading (page : Byte) (p : Part) : diagWindow page p.grantReading = diagWindow page p := by
  unfold diagWindow
  rw [grantReading_mem]
  rfl

/-- The SNAPSHOT row leaves the pieces of its window waiting, its answer behind them. -/
theorem exec_snapshot {s : State} (i : Fin 8) {page : Byte} (ht : requestTaken i s.toPart = true) (hp : page.toNat < 3) :
    execPart (.snapshot i page) s.toPart = answerTaken i (rowBytes i 11 [page] s.toPart) 0 []
      (s.toPart.grantReading.storeRun 0x200 (diagWindow page s.toPart)) := by
  have h : execPart (.snapshot i page) s.toPart =
      answerReply i (rowBytes i 11 [page] s.toPart) (snapshot page s.toPart.grantReading) := if_pos ht
  rw [h, snapshot_eq hp, diagWindow_grantReading]
  rfl

/-! ### Grants one by one (R7, R24) -/

theorem answerable_iff {m : Mem} {i : Fin 8} :
    answerable m i = true ↔ memRead m (0xC0 + 32 * i.val) = 1 ∨ memRead m (0xC0 + 32 * i.val) = 2 := by
  simp [answerable, slotAddr, slotPosted, slotTaken]

theorem grantSome_answer (k : Nat) {m : Mem} {i : Fin 8} (bs : List Byte) (w : List RecordAccess) (h : answerable m i = true) :
    grantSome (k + 1) m (.answer i bs :: w) = grantSome k (memWriteN m (0xC0 + 32 * i.val) bs) (.notice .reply :: w) := by
  rw [grantSome_cons]
  simp [RecordAccess.pieces, RecordAccess.next, h, memWriteAll, slotAddr]

theorem grantSome_answer_withdrawn (k : Nat) {m : Mem} {i : Fin 8} (bs : List Byte) (w : List RecordAccess)
    (h : answerable m i = false) : grantSome (k + 1) m (.answer i bs :: w) = grantSome k m w := by
  rw [grantSome_cons]
  simp [RecordAccess.pieces, RecordAccess.next, h, memWriteAll]

/-- A run asked for, and what the link meets of it. -/
theorem storeRun_spec (a : Nat) (bs : List Byte) (hm : Memory.wf p.exch = true) :
    memReadN (p.storeRun a bs).mem a bs.length = bs ∧ agreeOutside (inRecord a bs.length) p.mem (p.storeRun a bs).mem ∧
    ∀ k ≤ (bs.length + 31) / 32,
      let after := (grantSome k p.mem ((pieces ((bs.length + 31) / 32) a bs).map fun x => .write x.addr x.bytes)).1
      agreeOutside (inRecord a bs.length) p.mem after ∧
      ∀ j < bs.length, memRead after (a + j) = if 32 * ((bs.length + 31) / 32 - k) ≤ j then byteAt bs j else memRead p.mem (a + j) := by
  have hp := mem_wf p hm
  rw [storeRun_mem p a bs hm]
  refine ⟨memReadN_memWriteN _ _ _ hp, agreeOutside_memWriteN hp, fun k hk => ?_⟩
  rw [grantSome_pieces a bs hp hk]
  exact memRead_partial_run a bs hp _

/-- R10: between two pieces of a long record the trailing edition is the new one and the leading edition still the old one. -/
theorem rewriteLongRecord_editions (a : Nat) (body : List Byte) (hm : Memory.wf p.exch = true) (hb : 31 ≤ body.length) {k : Nat}
    (h1 : 0 < k) (h2 : k < (body.length + 33) / 32) :
    let seen := (grantSome k p.mem ((p.rewriteLongRecord a body).arb.waiting.drop p.arb.waiting.length)).1
    memRead seen (a + body.length + 1) = memRead p.mem a + 1 ∧ memRead seen a = memRead p.mem a := by
  intro seen
  have hl : (editioned p.mem a body).length = body.length + 2 := editioned_length _ _ _
  have hn : ((editioned p.mem a body).length + 31) / 32 = (body.length + 33) / 32 := by rw [hl]
  have hd : (p.rewriteLongRecord a body).arb.waiting.drop p.arb.waiting.length =
      (pieces (((editioned p.mem a body).length + 31) / 32) a (editioned p.mem a body)).map fun x => .write x.addr x.bytes := by
    rw [show p.rewriteLongRecord a body = p.storeRun a (editioned p.mem a body) from rfl, storeRun_eq]
    exact List.drop_left
  obtain ⟨-, hs⟩ := (storeRun_spec a (editioned p.mem a body) hm).2.2 k (by rw [hn]; omega)
  rw [← hd, hn, hl] at hs
  have hlast := hs (body.length + 1) (by omega)
  have hfirst := hs 0 (by omega)
  rw [if_pos (by omega)] at hlast
  rw [if_neg (by omega)] at hfirst
  refine ⟨hlast.trans ?_, hfirst⟩
  simp [byteAt, editioned, List.getD_eq_getElem?_getD]

theorem exec_read_grants {s : State} {a : BitVec 14} (hl : s.live = true) (hs : s.link.state = .data false a) (ha : a.toNat < 0x3FF0) :
    let granted := grantSome s.arb.beforeLink s.exch s.arb.waiting
    ∃ t, exec .dataRead s = .next t ∧ t.exch = granted.1 ∧ t.mem = s.mem ∧ t.link.sdo = some (memRead t.exch a.toNat) ∧
      t.arb = { last := .link, waiting := granted.2, idx := s.arb.idx + 1 } :=
  ⟨_, exec_dataRead hl hs, found_of_memory ha, grantAccesses_found a.toNat, congrArg some (linkRead_mem ha), arbAfter_of_memory ha⟩

theorem exec_write_grants {s : State} {a : BitVec 14} (v : Byte) (hm : Memory.wf s.exch = true) (ho : offersAt s a)
    (ha : storedAddr a.toNat) (hacc : s.ctl.access ≠ .armed) :
    let granted := grantSome s.arb.beforeLink s.exch s.arb.waiting
    ∃ t, exec (.dataWrite v) s = .next t ∧ memRead t.exch a.toNat = v ∧ agreeOutside (· = a.toNat) granted.1 t.exch ∧
      t.arb = { last := .link, waiting := granted.2, idx := s.arb.idx + 1 } := by
  have hf := found_wf a.toNat hm
  obtain ⟨t, h1, -, -, h4, -⟩ := exec_write_elsewhere (r := s.req) ho (.inl rfl) (memWrite_wf _ a.toNat v hf)
    (by simp only [linkWrite, disposition_of_stored ha]; rfl)
  obtain ⟨he, hr⟩ := h4 hacc
  refine ⟨t, h1, ?_, ?_, hr.trans (arbAfter_of_memory (storedAddr_lt ha))⟩
  · rw [he, memRead_memWrite_same _ _ _ hf]
  · rw [he, ← found_of_memory (storedAddr_lt ha)]
    exact agreeOutside_memWrite hf

/-- Settles O10: runs of accesses, what each command asks for and grants, and grants in order. -/
theorem longRecordsAreWrittenInPieces : Obligations.LongRecordsAreWrittenInPieces := by
  refine ⟨fun a bs => ⟨pieces_reverse_flatten _ _ _ (by omega), by simp [pieces_length], fun k x h =>
      ⟨pieces_reverse_getElem? _ _ _ k x h, ?_⟩⟩,
    fun p a bs hm => ⟨storeRun_eq p a bs, by simp [pieces_length], storeRun_spec a bs hm⟩,
    fun p a body hm hb => ⟨rfl, fun k h1 h2 => rewriteLongRecord_editions a body hm hb h1 h2⟩,
    fun p id => ⟨seatBody_length _ _, rfl⟩, fun p f hf => ⟨mirrorBody_length f p hf, fun hn => if_pos (bne_iff_ne.2 hn)⟩,
    fun p page hp => ⟨diagWindow_length page p, by rw [snapshot_eq hp]; rfl⟩, fun c s t hl hc hi he => ?_, fun s a hl hs ha => ?_,
    fun s a v hm ho ha hacc => ?_, fun k m x w => ⟨rfl, grantSome_nil k m, fun a bs hx => ?_, fun n hx => ?_, fun area slot bs hx => ?_,
      fun i bs hx => ?_⟩, fun s i page ht hp => ⟨_, exec_eq _ s, ?_⟩⟩
  · have hx := pieces_within _ a bs rfl x (List.mem_reverse.1 (List.mem_of_getElem? h))
    exact ⟨hx.1, hx.2.1⟩
  · obtain rfl := exec_next he
    exact execPart_grants hl hc hi
  · have h := exec_read_grants hl hs ha
    rwa [beforeLink_eq] at h
  · have h := exec_write_grants v hm ho ha hacc
    rwa [beforeLink_eq] at h
  iterate 3
    subst hx
    rfl
  · subst hx
    exact ⟨fun h => grantSome_answer k bs w (answerable_iff.2 h), fun h1 h2 => grantSome_answer_withdrawn k bs w
      (Bool.eq_false_iff.2 fun h => (answerable_iff.1 h).elim h1 h2)⟩
  · rw [exec_snapshot i ht hp, storeRun_eq, diagWindow_length, grantReading_eq]
    exact ⟨rfl, rfl⟩

end Sys2Proof.Machine
end

section
namespace Sys2Proof.Machine

variable {p : Part}

/-! ## Request slots -/

/-! ### Bytes of a record -/

/-- A run of bytes within a longer one. -/
theorem memReadN_within (m : Mem) (a : Nat) {j k n : Nat} (h : j + k ≤ n) :
    memReadN m (a + j) k = ((memReadN m a n).drop j).take k := by
  obtain ⟨d, rfl⟩ : ∃ d, n = j + (k + d) := ⟨n - (j + k), by omega⟩
  rw [memReadN_append, memReadN_append, List.drop_left' (memReadN_length m j a), List.take_left' (memReadN_length m k (a + j))]

theorem xorBytes_append (bs cs : List Byte) : xorBytes (bs ++ cs) = cs.foldl (· ^^^ ·) (xorBytes bs) := List.foldl_append

/-- R9: the check byte makes the check hold. -/
theorem xorBytes_withCheck (bs : List Byte) : xorBytes (withCheck bs) = 0 := by
  rw [withCheck, xorBytes_append]
  exact BitVec.xor_self

theorem withCheck_length (bs : List Byte) : (withCheck bs).length = bs.length + 1 := by simp [withCheck]

/-! ### Answers (R24) -/

/-- The bytes of an answer. -/
def answerBytes (taken data : List Byte) (status : Byte) : List Byte :=
  withCheck ([3, byteAt taken 1, byteAt taken 2, status] ++ answerTail taken data)

theorem answerTaken_eq (i : Fin 8) (taken data : List Byte) (status : Byte) (p : Part) :
    answerTaken i taken status data p = p.request (.answer i (answerBytes taken data status)) := rfl

/-- The answer data filled up with 0x00, or the bytes as taken. -/
def answerData (taken data : List Byte) : List Byte := if data.isEmpty then (taken.drop 4).take 24 else data ++ zeros (24 - data.length)

theorem answerData_length {taken data : List Byte} (ht : taken.length = 32) (hd : data.length ≤ 24) :
    (answerData taken data).length = 24 := by
  unfold answerData
  split <;> simp <;> omega

theorem answerBytes_eq (taken data : List Byte) (status : Byte) : answerBytes taken data status =
    withCheck ([3, byteAt taken 1, byteAt taken 2, status] ++ (answerData taken data ++ (taken.drop 28).take 3)) := rfl

theorem answerBytes_length {taken data : List Byte} (status : Byte) (ht : taken.length = 32) (hd : data.length ≤ 24) :
    (answerBytes taken data status).length = 32 := by
  rw [answerBytes_eq, withCheck_length]
  simp [answerData_length ht hd]
  omega

/-- R24: an answer that finds its slot waiting: the slot's bytes, REPLY, and nothing else. -/
theorem answer_effect {m : Mem} {i : Fin 8} {bs : List Byte} (hm : Memory.wf m = true) (h : answerable m i = true) :
    let n := (RecordAccess.answer i bs).effect m
    memReadN n (slotAddr i) bs.length = bs ∧ noticeWord n = noticeWord m ||| 1#16 ∧
      agreeOutside (fun k => noticeByte k ∨ inRecord (slotAddr i) bs.length k) m n := by
  intro n
  have hw := memWriteN_wf bs m (slotAddr i) hm
  have hn : n = memWriteN (memWriteN m (slotAddr i) bs) noticeAddr (noticeBytes .reply (memWriteN m (slotAddr i) bs)) := by
    simp only [n, effect_answer, h, if_true]
  have hnotice : agreeOutside noticeByte (memWriteN m (slotAddr i) bs) n :=
    hn ▸ (agreeOutside_memWriteN hw).mono fun k hk => by simpa [noticeByte] using hk
  have clear (k : Nat) (hk : inRecord (slotAddr i) bs.length k) : ¬ noticeByte k := by
    simp only [inRecord, slotAddr, noticeByte_iff] at hk ⊢
    omega
  refine ⟨?_, ?_, ((agreeOutside_memWriteN hm).mono fun k hk => .inr hk).trans (hnotice.mono fun k hk => .inl hk)⟩
  · rw [memReadN_congr fun k hk => hnotice k (clear k hk), memReadN_memWriteN _ _ _ hm]
  · rw [hn, noticeWord_memWriteN _ _ _ hw,
      noticeWord_congr fun k hk => agreeOutside_memWriteN hm k fun hr => clear k hr hk]
    rfl

/-- R24: one that finds its slot withdrawn leaves everything alone. -/
theorem answer_effect_withdrawn {m : Mem} {i : Fin 8} (bs : List Byte) (h : answerable m i = false) :
    (RecordAccess.answer i bs).effect m = m := by
  simp [effect_answer, h]

/-- The fields of an answered slot. -/
theorem answered_fields {m : Mem} {a : Nat} {taken data : List Byte} {status : Byte} (ht : taken.length = 32)
    (hd : data.length ≤ 24) (h : memReadN m a 32 = answerBytes taken data status) :
    memReadN m a 4 = [3, byteAt taken 1, byteAt taken 2, status] ∧ memReadN m (a + 4) 24 = answerData taken data ∧
      memReadN m (a + 28) 3 = (taken.drop 28).take 3 := by
  have hl := answerData_length ht hd
  have h0 := memReadN_within m a (j := 0) (k := 4) (n := 32) (by omega)
  have h4 := memReadN_within m a (j := 4) (k := 24) (n := 32) (by omega)
  have h28 := memReadN_within m a (j := 28) (k := 3) (n := 32) (by omega)
  rw [h, answerBytes_eq, withCheck] at h0 h4 h28
  generalize xorBytes _ = c at h0 h4 h28
  refine ⟨by simpa using h0, h4.trans ?_, h28.trans ?_⟩
  · simp [← hl]
  · simp [hl, ht]

/-- Settles O13: an answer is one access, whose grant tests the state byte. -/
theorem answersAreWrittenWhole : Obligations.AnswersAreWrittenWhole := by
  intro p i taken data status hm ht hd a q
  have hp := mem_wf p hm
  have hl := answerBytes_length (data := data) status ht hd
  have hq : q.mem = (RecordAccess.answer i (answerBytes taken data status)).effect p.mem := request_mem _ _
  refine ⟨fun h => ?_, fun h1 h2 => ⟨rfl, ?_⟩, _, hl, rfl⟩
  · obtain ⟨hr, hw, ho⟩ := answer_effect (bs := answerBytes taken data status) hp (answerable_iff.2 h)
    rw [← hq, hl] at hr
    rw [← hq] at hw ho
    obtain ⟨h1, h2, h3⟩ := answered_fields ht hd hr
    refine ⟨h1, fun e => h2.trans (by simp [answerData, e]), fun e => h2.trans ?_, h3, ?_, hw, hl ▸ ho⟩
    · simp [answerData, e, zeros]
    · rw [show memReadN q.mem a 32 = answerBytes taken data status from hr]
      exact xorBytes_withCheck _
  · rw [hq]
    exact answer_effect_withdrawn _ (Bool.eq_false_iff.2 fun h => (answerable_iff.1 h).elim h1 h2)

/-! ### Failed record checks (R14 to R16) -/

theorem noticeOn_iff (m : Mem) (x : Notice) : noticeOn m x = true ↔ noticeWord m ||| (1#16 <<< x.bit) = noticeWord m := by
  constructor
  · intro h
    refine BitVec.eq_of_getLsbD_eq fun k _ => ?_
    rw [or_notice_getLsbD]
    by_cases e : k = x.bit
    · rw [e, decide_eq_true rfl, Bool.true_or]
      exact h.symm
    · rw [decide_eq_false e, Bool.false_or]
  · intro h
    rw [noticeOn, ← h, or_notice_getLsbD, decide_eq_true rfl, Bool.true_or]

/-- The check record of a first failure. -/
def checkRecordBytes (area : Byte) (slot : Nat) (bytes : List Byte) (m : Mem) : List Byte :=
  [area, BitVec.ofNat 8 slot, memRead m 0x0C, memRead m 0x0D] ++ bytes.take 8 ++ [0, 0, 0, 0]

theorem checkRecordBytes_length (area : Byte) (slot : Nat) {bytes : List Byte} (m : Mem) (h : 8 ≤ bytes.length) :
    (checkRecordBytes area slot bytes m).length = 16 := by
  simp [checkRecordBytes, h]

/-- R14: the first failure fills the check record and sets CHECK. -/
theorem checkFailure_first {m : Mem} (area : Byte) (slot : Nat) {bytes : List Byte} (hm : Memory.wf m = true) (hb : 8 ≤ bytes.length)
    (h : noticeOn m .check = false) :
    let n := (RecordAccess.checkFailure area slot bytes).effect m
    memReadN n 0x1C0 16 = checkRecordBytes area slot bytes m ∧ noticeWord n = noticeWord m ||| 2#16 ∧
      agreeOutside (fun k => noticeByte k ∨ inRecord 0x1C0 16 k) m n := by
  intro n
  have hl := checkRecordBytes_length area slot m hb
  have hn : n = memWriteN (memWriteN m 0x1C0 (checkRecordBytes area slot bytes m)) noticeAddr (noticeBytes .check m) := by
    have e : area :: BitVec.ofNat 8 slot :: (leBytes 2 (scanCount m) ++ bytes.take 8 ++ zeros 4) =
        checkRecordBytes area slot bytes m := by
      rw [scanCount, leBytes_readNat]
      rfl
    simp only [n, effect_checkFailure, checkFailurePieces, h, Bool.false_eq_true, if_false, e]
    rfl
  have hw := memWriteN_wf (checkRecordBytes area slot bytes m) m 0x1C0 hm
  refine ⟨?_, ?_, ((agreeOutside_memWriteN hm).mono fun k hk => .inr (hl ▸ hk)).trans (hn ▸ (agreeOutside_memWriteN hw).mono fun k hk =>
    .inl (by simpa [noticeByte] using hk))⟩
  · rw [hn, ← hl]
    exact memReadN_record_and_notice 0x1C0 _ .check hm (by decide)
  · rw [hn, noticeWord_memWriteN _ _ _ hw]
    rfl

/-- R14: a further failure raises the count of those, at most to 255. -/
theorem checkFailure_further {m : Mem} (area : Byte) (slot : Nat) (bytes : List Byte) (hm : Memory.wf m = true)
    (h : noticeOn m .check = true) :
    let n := (RecordAccess.checkFailure area slot bytes).effect m
    memRead n 0x1CC = BitVec.ofNat 8 (min 255 ((memRead m 0x1CC).toNat + 1)) ∧ agreeOutside (· = 0x1CC) m n := by
  intro n
  have hn : n = memWrite m 0x1CC (saturatingInc (memRead m 0x1CC)) := by
    simp only [n, effect_checkFailure, checkFailurePieces, h, if_true]
    rfl
  rw [hn]
  exact ⟨(memRead_memWrite_same _ _ _ hm).trans (saturatingInc_eq _), agreeOutside_memWrite hm⟩

/-- What a failed check leaves of the notice word, and where it writes. -/
theorem checkFailure_notice {m : Mem} (area : Byte) (slot : Nat) {bytes : List Byte} (hm : Memory.wf m = true) (hb : 8 ≤ bytes.length) :
    let n := (RecordAccess.checkFailure area slot bytes).effect m
    noticeWord n = noticeWord m ||| 2#16 ∧ agreeOutside (fun k => noticeByte k ∨ inRecord 0x1C0 16 k) m n := by
  cases h : noticeOn m .check with
  | false => exact (checkFailure_first area slot hm hb h).2
  | true =>
    obtain ⟨-, ha⟩ := checkFailure_further area slot bytes hm h
    refine ⟨?_, ha.mono fun k hk => .inr (by simp only [hk, inRecord]; omega)⟩
    rw [noticeWord_congr fun k hk => ha k fun e => by simp only [noticeByte_iff, e] at hk; omega]
    exact ((noticeOn_iff m .check).1 h).symm

/-- Intake of a POSTED slot whose check fails (R15, R16). -/
theorem intakeSlot_failed (i : Fin 8) (hh : p.req.halt = false) (hi : p.req.holds[i] = none)
    (h1 : memRead p.mem (slotAddr i) = 1) (hx : xorBytes (slotBytes p.mem i) ≠ 0) :
    intakeSlot i p = failedSlot i (slotBytes p.mem i) p.grantReading := by
  have h0 : byteAt (slotBytes p.mem i) 0 = 1 := h1
  have hc : checkHolds (slotBytes p.mem i) = false := beq_eq_false_iff_ne.2 hx
  simp [intakeSlot, isHeld, hh, hi, h0, slotPosted, hc]

theorem answerBytes_take {taken : List Byte} (status : Byte) (ht : taken.length = 32) :
    (answerBytes taken [] status).take 31 = [3, byteAt taken 1, byteAt taken 2, status] ++ (taken.drop 4).take 27 := by
  have e : (taken.drop 4).take 27 = (taken.drop 4).take 24 ++ (taken.drop 28).take 3 := by
    rw [show (27 : Nat) = 24 + 3 from rfl, List.take_add, List.drop_drop]
  rw [answerBytes_eq, withCheck, e]
  simp [answerData, List.take_append, ht]

/-- R16: what CONTINUE makes of a memory `n` in which the failure has been logged. -/
theorem failed_answer {n : Mem} {i : Fin 8} {bs : List Byte} (hn : Memory.wf n = true) (hl : bs.length = 32)
    (h1 : memRead n (slotAddr i) = 1) :
    let o := (RecordAccess.answer i (answerBytes bs [] checkFail)).effect n
    noticeWord o = noticeWord n ||| 1#16 ∧ agreeOutside (fun k => noticeByte k ∨ inRecord (slotAddr i) 32 k) n o ∧
      memReadN o (slotAddr i) 31 = [3, byteAt bs 1, byteAt bs 2, 0x0A] ++ (bs.drop 4).take 27 ∧
      xorBytes (memReadN o (slotAddr i) 32) = 0 := by
  intro o
  have hb := answerBytes_length (data := []) checkFail hl (Nat.zero_le _)
  obtain ⟨hr, hw, ho⟩ := answer_effect (bs := answerBytes bs [] checkFail) hn (answerable_iff.2 (.inl h1))
  rw [hb] at hr ho
  have h31 := memReadN_within o (slotAddr i) (j := 0) (k := 31) (n := 32) (by omega)
  rw [hr] at h31
  exact ⟨hw, ho, h31.trans (answerBytes_take checkFail hl), hr ▸ xorBytes_withCheck _⟩

/-- R15: under HALT the failure is logged and the halt set. -/
theorem failedSlot_halt (i : Fin 8) (bs : List Byte) (h : policyHalt p.working = true) : failedSlot i bs p.grantReading = { p with
    exch := p.mem, arb := { p.arb with last := .record, waiting := [.checkFailure 2 i bs] }, req := { p.req with halt := true } } := by
  rw [grantReading_eq]
  exact if_pos h

/-- R16: under CONTINUE the failure is logged and the slot answered. -/
theorem failedSlot_continue (i : Fin 8) (bs : List Byte) (h : policyHalt p.working = false) : failedSlot i bs p.grantReading = { p with
    exch := p.mem
    arb := { p.arb with last := .record, waiting := [.checkFailure 2 i bs, .answer i (answerBytes bs [] checkFail)] } } := by
  rw [grantReading_eq]
  exact if_neg (by simp [h])

/-- Settles O11: the failure logged, and then the policy's part. -/
theorem failedSlotsHaltOrAreAnswered : Obligations.FailedSlotsHaltOrAreAnswered := by
  intro p i hm hh hi bs slot h1 hx q
  have hp := mem_wf p hm
  have hl : bs.length = 32 := memReadN_length _ _ _
  have hq : q = failedSlot i bs p.grantReading := intakeSlot_failed i hh hi h1 hx
  -- the failure logged
  generalize hn : (RecordAccess.checkFailure 2 i bs).effect p.mem = n
  have hnw : Memory.wf n = true := hn ▸ effect_wf _ _ hp
  obtain ⟨hword, hout⟩ := hn ▸ checkFailure_notice 2 i.val hp (by omega : 8 ≤ bs.length)
  have hslot : memRead n (slotAddr i) = 1 := (hout _ fun h => by
    simp only [noticeByte_iff, inRecord, slotAddr] at h
    omega).trans h1
  obtain ⟨aword, aout, abytes, acheck⟩ := failed_answer hnw hl hslot
  -- the policy
  have hhalt (h : policyHalt p.working = true) : q.mem = n := by
    rw [hq, failedSlot_halt i bs h, ← hn]
    rfl
  have hcont (h : policyHalt p.working = false) : q.mem = (RecordAccess.answer i (answerBytes bs [] checkFail)).effect n := by
    rw [hq, failedSlot_continue i bs h, ← hn]
    rfl
  have hqn : agreeOutside (fun k => noticeByte k ∨ (policyHalt p.working = false ∧ slot k)) n q.mem := by
    cases hpol : policyHalt p.working with
    | true => exact hhalt hpol ▸ agreeOutside.refl _ _
    | false => exact hcont hpol ▸ aout.mono fun k hk => hk.imp_right fun hs => ⟨rfl, hs⟩
  have hrec (k : Nat) (hk : inRecord 0x1C0 16 k) : memRead q.mem k = memRead n k := hqn k fun h => by
    simp only [noticeByte_iff, slot, inRecord] at h hk
    omega
  refine ⟨?_, fun hc => ?_, fun hc => ?_, (hout.mono fun k hk => hk.imp_right .inl).trans
    (hqn.mono fun k hk => hk.imp_right .inr), fun hpol => ?_, fun hpol => ?_⟩
  · cases hpol : policyHalt p.working with
    | true => rw [hq, failedSlot_halt i bs hpol]
    | false => rw [hq, failedSlot_continue i bs hpol, ← hh]
  · rw [memReadN_congr hrec, ← hn]
    exact (checkFailure_first 2 i.val hp (by omega) hc).1
  · obtain ⟨hcount, hfar⟩ := hn ▸ checkFailure_further 2 i.val bs hp hc
    have far (k : Nat) (hk : inRecord 0x1C0 16 k) (hne : k ≠ 0x1CC) : memRead q.mem k = memRead p.mem k :=
      (hrec k hk).trans (hfar k hne)
    refine ⟨memReadN_congr fun k hk => far k ?_ ?_, (hrec _ (by simp [inRecord])).trans hcount,
      memReadN_congr fun k hk => far k ?_ ?_⟩ <;> simp only [inRecord] at hk ⊢ <;> omega
  · rw [hhalt hpol, hword]
  · rw [hcont hpol]
    exact ⟨by rw [aword, hword, BitVec.or_assoc]; rfl, abytes, acheck⟩

end Sys2Proof.Machine
end

section
namespace Sys2Proof.Machine

variable {p q : Part}

/-! ## Scans -/

/-! ### What a scan's steps leave -/

/-- Operations that leave the part as it is, one after another. -/
theorem forEach_fixed {α : Type} {is : List α} {f : α → Part → Part} (h : ∀ i ∈ is, f i p = p) : forEach is f p = p := by
  induction is with
  | nil => rfl
  | cons i is ih => rw [forEach, List.foldl_cons, h i (by simp)]; exact ih fun j hj => h j (by simp [hj])

/-- Operations that each bring the part to where every one of them leaves it. -/
theorem forEach_settles {α : Type} {i : α} {is : List α} {f : α → Part → Part} (h1 : f i p = q) (h2 : ∀ j, f j q = q) :
    forEach (i :: is) f p = q := by
  rw [forEach, List.foldl_cons, h1]
  exact forEach_fixed fun j _ => h2 j

theorem leBytes_mod (x : Nat) : leBytes 2 (x % 65536) = leBytes 2 x := by
  simp only [leBytes, List.cons.injEq, and_true]
  exact ⟨BitVec.eq_of_toNat_eq (by simp), BitVec.eq_of_toNat_eq (by simp; omega)⟩

/-- R22: the count is one record access of its own. -/
theorem countScan_mem (p : Part) : (countScan p).mem = memWriteN p.mem 0x0C (leBytes 2 (readNat p.mem 0x0C 2 + 1)) := request_mem _ _

theorem countScan_agree (hm : Memory.wf p.exch = true) : agreeOutside (inRecord 0x0C 2) p.mem (countScan p).mem := by
  rw [countScan_mem]
  simpa using agreeOutside_memWriteN (bs := leBytes 2 (readNat p.mem 0x0C 2 + 1)) (mem_wf p hm)

/-- R15: the halt stands on only while CHECK is set. -/
theorem liftHalt_eq (p : Part) : liftHalt p = { p with req := { p.req with halt := p.req.halt && noticeOn p.mem .check } } := by
  unfold liftHalt
  split
  next h => simp [h]
  next h => simp [h, setReq]

/-- R17: an inbox slot whose sequence byte has been seen is left as it is read. -/
theorem intakeInbox_of_seen {i : Fin 16} (h : memRead p.mem (0x40 + 8 * i.val) = p.req.seen[i]) : intakeInbox i p = p.grantReading := by
  have hb : byteAt (memReadN p.grantReading.mem (inboxAddr i) 8) 0 = p.grantReading.req.seen[i] := by
    rw [byteAt, memReadN_getD _ _ _ _ (by decide), grantReading_mem]
    exact h
  exact if_pos hb

/-- R15, R23: a slot that is held, and every slot while the halt stands, stays unread. -/
theorem intakeSlot_of_unread {i : Fin 8} (h : p.req.halt = true ∨ p.req.holds[i].isSome) : intakeSlot i p = p :=
  if_pos (by simpa [isHeld] using h)

/-- R23: a slot that is read. -/
theorem intakeSlot_of_read {i : Fin 8} (hh : p.req.halt = false) (hi : p.req.holds[i] = none) :
    intakeSlot i p =
      if byteAt (slotBytes p.mem i) 0 != slotPosted then p.grantReading
      else if !checkHolds (slotBytes p.mem i) then failedSlot i (slotBytes p.mem i) p.grantReading
      else serve i (slotBytes p.mem i) (onlyIf (longKind (byteAt (slotBytes p.mem i) 1)) (markTaken i (slotBytes p.mem i)) p.grantReading) := by
  rw [← grantReading_mem p]
  exact if_neg (by simp [isHeld, hh, hi])

/-- R23: a slot that is not POSTED is left as it is read. -/
theorem intakeSlot_of_not_posted {i : Fin 8} (hh : p.req.halt = false) (hi : p.req.holds[i] = none)
    (h : byteAt (slotBytes p.mem i) 0 ≠ 1) : intakeSlot i p = p.grantReading :=
  (intakeSlot_of_read hh hi).trans (if_pos (by simpa [slotPosted] using h))

/-! ### A scan that finds nothing to take -/

/-- R22: the inbox walk where every sequence byte has been seen. -/
theorem inboxWalk_of_seen (h : ∀ i : Fin 16, memRead p.mem (0x40 + 8 * i.val) = p.req.seen[i]) :
    forEach allInbox intakeInbox p = p.grantReading := by
  refine forEach_settles (i := 0) (is := (List.finRange 16).tail) (intakeInbox_of_seen (h 0)) fun i => ?_
  rw [intakeInbox_of_seen (by rw [grantReading_mem]; exact h i), grantReading_grantReading]

/-- R15, R23: the slot walk where the halt stands, or no slot that is read is POSTED. -/
theorem slotWalk_of_none (h : p.req.halt = true ∨ ∀ i : Fin 8, p.req.holds[i].isSome ∨ memRead p.mem (0xC0 + 32 * i.val) ≠ 1) :
    forEach allSlots intakeSlot p.grantReading = p.grantReading := by
  refine forEach_fixed fun i _ => ?_
  by_cases hu : p.req.halt = true ∨ p.req.holds[i].isSome
  · exact intakeSlot_of_unread hu
  · simp only [not_or, Bool.not_eq_true, Option.isSome_eq_false_iff, Option.isNone_iff_eq_none] at hu
    obtain ⟨hh, hi⟩ := hu
    refine (intakeSlot_of_not_posted (p := p.grantReading) hh hi ?_).trans (grantReading_grantReading p)
    rw [slotBytes, byteAt, memReadN_getD _ _ _ _ (by decide), grantReading_mem]
    exact (h.resolve_left (by simp [hh]) i).resolve_left (by simp [hi])

/-- R22: no channel ages at a prompted scan, nor while the channels take nothing. -/
theorem onlyIf_advanceAges {sc : PendingScan} (h : sc.periodic = false ∨ p.channelsTake = false) :
    onlyIf sc.periodic (advanceAges sc.time) p = p := by
  rcases h with h | h
  · simp [onlyIf, h]
  · simp [onlyIf, advanceAges, h]

/-- R22: a scan of which nothing comes but the count and the halt that it may lift. -/
theorem runScan_of_nothing {sc : PendingScan} (hm : Memory.wf p.exch = true) (ha : sc.periodic = false ∨ p.channelsTake = false)
    (hr : p.req.restartSlots = []) (hi : ∀ i : Fin 16, memRead p.mem (0x40 + 8 * i.val) = p.req.seen[i])
    (hs : (p.req.halt = true ∧ noticeOn p.mem .check = true) ∨
      ∀ i : Fin 8, p.req.holds[i].isSome ∨ memRead p.mem (0xC0 + 32 * i.val) ≠ 1) :
    runScan sc p = { p with
      exch := (countScan p).mem, arb := { p.arb with last := .record, waiting := [] }
      req := { p.req with pendingScan := none, halt := p.req.halt && noticeOn p.mem .check } } := by
  have hc := countScan_agree hm
  have out (k : Nat) (h : ¬ inRecord 0x0C 2 k) : memRead (countScan p).mem k = memRead p.mem k := hc k h
  have hn : noticeOn (countScan p).mem .check = noticeOn p.mem .check :=
    noticeOn_congr (fun k hk => out k (by simp only [noticeByte_iff, inRecord] at hk ⊢; omega)) _
  have hlift : liftHalt (onlyIf sc.periodic (advanceAges sc.time) (countScan (setReq (fun r => { r with pendingScan := none }) p))) =
      { countScan p with req := { p.req with pendingScan := none, halt := p.req.halt && noticeOn p.mem .check } } := by
    rw [onlyIf_advanceAges (by exact ha), liftHalt_eq, ← hn]
    rfl
  rw [runScan, hlift, inboxWalk_of_seen, slotWalk_of_none, grantReading_eq]
  · exact if_pos (by simpa using hr)
  · refine hs.imp (fun h => by simp [h]) fun h i => (h i).imp id fun h1 => ?_
    exact (out _ (by simp only [inRecord]; omega)).trans_ne h1
  · intro i
    exact (out _ (by simp only [inRecord]; omega)).trans (hi i)

/-- R22: EXCHANGE_SCAN runs the scan asked for. -/
theorem exec_exchangeScan {s : State} {sc : PendingScan} (hl : s.live = true) (hp : s.req.pendingScan = some sc) :
    exec .exchangeScan s = .next { s with toPart := runScan sc s.toPart } := by
  have hx : execPart .exchangeScan s.toPart = runScan sc s.toPart := (if_pos hl).trans (by simp [exchangeScan, hp])
  rw [exec_eq, hx]

/-! ### Scans asked for -/

/-- R20: a PROMPT byte. -/
theorem exec_prompt {s : State} (v : Byte) (hm : Memory.wf s.exch = true) (ho : offersAt s 0x3FF4) :
    ∃ t, exec (.prompt v) s = .next t ∧
      t = { s with link := { s.link with state := .data true 0x3FF5 }, ctl := t.ctl, exch := t.exch, arb := t.arb,
                   req := { s.req with pendingScan := some (joinScan false 0 s.req.pendingScan) } } ∧
      elsewhereSeen s t ∧ landed s.toPart t.toPart 0x3FF4 s.exch :=
  exec_write_elsewhere ho (.inr rfl) hm rfl

theorem joinScan_none (b : Bool) (n : Nat) : joinScan b n none = { periodic := b, time := n } := rfl

theorem joinScan_prompted (x : PendingScan) : joinScan false 0 (some x) = x := by simp [joinScan]

theorem joinScan_periodic (n : Nat) (x : PendingScan) : joinScan true n (some x) = { periodic := true, time := x.time + n } := by
  simp [joinScan]

/-- Settles O7: scans asked for join, and one that finds nothing counts. -/
theorem scansAreAskedForAndRun : Obligations.ScansAreAskedForAndRun := by
  refine ⟨fun s v hm ho => ?_, fun s n hl hn => ?_, fun s sc hm hl hp ha hr hi hs => ?_⟩
  · obtain ⟨t, h1, h2, h3, h4⟩ := exec_prompt v hm ho
    have hq : t.req.pendingScan = some (joinScan false 0 s.req.pendingScan) := by rw [h2]
    refine ⟨t, h1, hq ▸ h2, h3, h4, fun h => by rw [hq, h, joinScan_none], fun x h => by rw [hq, h, joinScan_prompted]⟩
  · have hx : execPart .scanTimerExpiry s.toPart = askScan true n s.toPart := (if_pos hl).trans (by simp [scanTimerExpiry, hn])
    refine ⟨{ s with toPart := askScan true n s.toPart }, by rw [exec_eq, hx], rfl, fun h => ?_, fun x h => ?_⟩
    · exact congrArg some ((congrArg (joinScan true n) h).trans (joinScan_none true n))
    · exact congrArg some ((congrArg (joinScan true n) h).trans (joinScan_periodic n x))
  · refine ⟨_, (exec_exchangeScan hl hp).trans (by rw [runScan_of_nothing hm ha hr hi hs]), rfl, ?_, countScan_agree hm⟩
    have hb := memReadN_memWriteN s.mem 0x0C (leBytes 2 (readNat s.mem 0x0C 2 + 1)) (mem_wf _ hm)
    exact ((congrArg (memReadN · 0x0C 2) (countScan_mem s.toPart)).trans (by simpa using hb)).trans (leBytes_mod _).symm

end Sys2Proof.Machine
end

section
namespace Sys2Proof.Machine

variable {P : Part → Prop} {p q : Part}

/-! ## The course of a scan -/

/-! ### What the consumers of a channel leave -/

/-- A record access of the Channel Table and of those it tells: above the check record and the read mark, or a notice other than
CHECK. -/
def toldAccess : RecordAccess → Prop
  | .write a bs => 0x1E0 ≤ a ∧ a + bs.length ≤ 0x1000
  | .notice n => n ≠ .check
  | .checkFailure _ _ _ => False
  | .answer _ _ => False

/-- What such accesses keep of the memory is kept by the Channel Table and by those it tells. -/
theorem showsLoose_of_told {Q : Mem → Prop} (h : ∀ m x, toldAccess x → Q m → Q (x.effect m)) : ShowsLoose fun p => Q p.mem := by
  have request {p : Part} (x : RecordAccess) (hx : toldAccess x) (hp : Q p.mem) : Q (p.request x).mem := by
    rw [request_mem]
    exact h _ _ hx hp
  have store {p : Part} {a : Nat} {bs : List Byte} (h1 : 0x1E0 ≤ a) (h2 : a + bs.length ≤ 0x1000) (hp : Q p.mem) : Q (p.store a bs).mem :=
    request (.write a bs) ⟨h1, h2⟩ hp
  have lamp (i : Fin 32) {p : Part} (hp : Q p.mem) : Q (rewriteLamp i p).mem :=
    store (by simp only [lampResultAddr]; omega) (by simp only [editioned_length, lampBody_length, lampResultAddr]; omega) hp
  have seat (id : SeatId) {p : Part} (hp : Q p.mem) : Q (rewriteSeat id p).mem :=
    storeRun_keeps (P := fun q => Q q.mem) (fun q b cs h1 h2 h3 h4 hq => by
      simp only [editioned_length, seatBody_length] at h4
      cases id <;> simp only [seatAddr] at h3 h4 <;> exact store (by omega) (by omega) hq) hp
  exact {
    aside := fun p a bs ⟨h1, h2, h3⟩ hp => store (by omega) (by omega) hp
    notice := fun p n hn hp => request (.notice n) hn hp
    lamp := fun _ _ _ _ hp => hp
    lampShown := fun p i _ hp => lamp i hp
    lampsShown := fun p _ hp => forEach_closed (P := fun q => Q q.mem) (fun i _ hq => lamp i hq) _ hp
    lampU := fun _ _ hp => hp
    chime := fun _ _ hp => hp
    panel := fun _ _ hp => hp
    ptr := fun _ _ _ _ hp => hp
    ptrShown := fun p i _ hp =>
      store (by simp only [ptrResultAddr]; omega) (by simp only [editioned_length, ptrBody_length, ptrResultAddr]; omega) hp
    chan := fun _ _ _ _ hp => hp
    chanShown := fun p c _ hp =>
      store (by simp only [chanResultAddr]; omega) (by simp only [editioned_length, chanBody_length, chanResultAddr]; omega) hp
    jour := fun p _ hp => store (by decide) (by simp [journalControlAddr]) hp
    acct := fun _ _ _ _ hp => hp
    records := fun p a seats summary hp => by
      have summaries {q : Part} (hq : Q q.mem) : Q (rewriteSummary q).mem :=
        store (by decide) (by simp [editioned_length, summaryAddr]) hq
      exact onlyIf_closed (P := fun q => Q q.mem) (fun q hq => request (.notice .drivetime) nofun hq) _
        (onlyIf_closed (P := fun q => Q q.mem) (fun _ hq => summaries hq) _
          (onlyIf_closed (P := fun q => Q q.mem) (fun _ hq => seat _ hq) _
            (onlyIf_closed (P := fun q => Q q.mem) (fun _ hq => seat _ hq) _ hp))) }

/-- The memory is canonical, CHECK is as in `m`, and so is every byte up to the read mark but the notice word. -/
def CheckStands (m n : Mem) : Prop :=
  Memory.wf n = true ∧ noticeOn n .check = noticeOn m .check ∧ ∀ k, k < 0x1E0 → ¬ noticeByte k → memRead n k = memRead m k

theorem CheckStands.refl {m : Mem} (h : Memory.wf m = true) : CheckStands m m := ⟨h, rfl, fun _ _ _ => rfl⟩

/-- R11: a notice other than CHECK leaves CHECK. -/
theorem noticeOn_check_of_notice {m : Mem} {n : Notice} (hm : Memory.wf m = true) (hn : n ≠ .check) :
    noticeOn (memWriteN m noticeAddr (noticeBytes n m)) .check = noticeOn m .check := by
  have hb : Notice.check.bit ≠ n.bit := by
    cases n with
    | check => exact absurd rfl hn
    | _ => decide
  rw [noticeOn, noticeWord_memWriteN _ _ _ hm, or_notice_getLsbD, decide_eq_false hb, Bool.false_or]
  rfl

theorem CheckStands.effect {m n : Mem} {x : RecordAccess} (hx : toldAccess x) (h : CheckStands m n) : CheckStands m (x.effect n) := by
  obtain ⟨hn, hc, hb⟩ := h
  cases x with
  | write a bs =>
    obtain ⟨h1, h2⟩ := hx
    have out (k : Nat) (hk : k < 0x1E0) : memRead ((RecordAccess.write a bs).effect n) k = memRead n k :=
      memRead_effect_out _ _ _ hn (by simp only [RecordAccess.avoids]; omega)
    refine ⟨effect_wf _ _ hn, (noticeOn_congr (fun k hk => out k ?_) _).trans hc, fun k hk hk' => (out k hk).trans (hb k hk hk')⟩
    simp only [noticeByte_iff] at hk
    omega
  | notice x =>
    refine ⟨effect_wf _ _ hn, (noticeOn_check_of_notice hn hx).trans hc, fun k hk hk' => ?_⟩
    refine (memRead_effect_out _ _ _ hn ?_).trans (hb k hk hk')
    simp only [RecordAccess.avoids, noticeByte_iff] at hk' ⊢
    omega
  | checkFailure => exact hx.elim
  | answer => exact hx.elim

theorem checkStands_showsLoose (m : Mem) : ShowsLoose fun p => CheckStands m p.mem := showsLoose_of_told fun _ _ hx h => h.effect hx

/-- The Request Unit and the working configuration stand while the Channel Table and those it tells act. -/
theorem requests_chanClosed (r : ReqUnit) (w : Mem) : ChanClosed fun p => p.req = r ∧ p.working = w where
  store _ _ _ _ hp := hp
  notice _ _ hp := hp
  check _ _ _ _ _ hp := hp
  jour _ _ hp := hp
  lamps _ _ hp := hp
  lampU _ _ hp := hp
  chime _ _ hp := hp
  panel _ _ hp := hp
  ptrs _ _ hp := hp
  acct _ _ hp := hp
  chans _ _ hp := hp

/-! ### The halt within a scan -/

/-- R15, R22: the halt is lifted as CHECK stands before the scan. -/
theorem liftHalt_aged (sc : PendingScan) (hm : Memory.wf p.exch = true) :
    let counted : Part := countScan { p with req := { p.req with pendingScan := none } }
    let aged : Part := if sc.periodic then advanceAges sc.time counted else counted
    liftHalt aged = { aged with req := { aged.req with halt := p.req.halt && noticeOn p.mem .check } } := by
  intro counted aged
  have hw : Memory.wf counted.mem = true := mem_wf counted hm
  have hc : noticeOn counted.mem .check = noticeOn p.mem .check :=
    noticeOn_congr (fun k hk => countScan_agree hm k (by simp only [noticeByte_iff, inRecord] at hk ⊢; omega)) _
  have ha : CheckStands counted.mem aged.mem ∧ aged.req = counted.req := by
    have aged_of (c : Bool) : CheckStands counted.mem (onlyIf c (advanceAges sc.time) counted).mem ∧
        (onlyIf c (advanceAges sc.time) counted).req = counted.req :=
      ⟨onlyIf_closed (P := fun q => CheckStands counted.mem q.mem)
          (fun _ hq => advanceAges_shows (checkStands_showsLoose _).toShowsTold _ hq) _ (.refl hw),
        (onlyIf_closed (P := fun q => q.req = counted.req ∧ q.working = counted.working)
          (fun _ hq => advanceAges_closed (requests_chanClosed _ _) _ hq) c ⟨rfl, rfl⟩).1⟩
    exact aged_of sc.periodic
  obtain ⟨⟨-, hn, -⟩, hr⟩ := ha
  rw [liftHalt_eq, hn, hc, hr]
  rfl

/-- R17: inbox intake leaves the halt. -/
theorem intakeInbox_halt (i : Fin 16) (p : Part) : (intakeInbox i p).req.halt = p.req.halt := by
  have told (q : Part) (f : InboxFlag) (v : Int) : (deliverTo .inbox i (inboxChan f v) q).req = q.req :=
    (deliverTo_closed (P := fun r => r.req = q.req ∧ r.working = q.working)
      (fun c _ hp => inboxChan_closed (requests_chanClosed _ _) f v c hp) _ _ ⟨rfl, rfl⟩).1
  have hr : p.grantReading.req = p.req := by rw [grantReading_eq]
  unfold intakeInbox
  dsimp only
  split
  · rw [hr]
  · split
    · rw [told, setReq_req, hr]
    · rw [← hr]
      rfl

/-- R15: inbox intake goes on while the halt stands, and no request slot is read. -/
theorem walks_of_halt (h : p.req.halt = true) : forEach allSlots intakeSlot (forEach allInbox intakeInbox p) = forEach allInbox intakeInbox p := by
  have hh : (forEach allInbox intakeInbox p).req.halt = true :=
    forEach_closed (P := fun q => q.req.halt = true) (fun i q hq => (intakeInbox_halt i q).trans hq) _ h
  exact forEach_fixed fun i _ => intakeSlot_of_unread (.inl hh)

theorem scanTaken_eq (sc : PendingScan) (hm : Memory.wf p.exch = true) :
    let counted : Part := countScan { p with req := { p.req with pendingScan := none } }
    let aged : Part := if sc.periodic then advanceAges sc.time counted else counted
    scanTaken sc p = forEach allSlots intakeSlot (forEach allInbox intakeInbox
      { aged with req := { aged.req with halt := p.req.halt && noticeOn p.mem .check } }) := by
  intro counted aged
  rw [← liftHalt_aged sc hm]
  rfl

/-- R22: the course of a scan. -/
theorem exec_scan {s : State} {sc : PendingScan} (hm : Memory.wf s.exch = true) (hl : s.live = true) (hp : s.req.pendingScan = some sc) :
    let counted : Part := countScan { s.toPart with req := { s.req with pendingScan := none } }
    let aged : Part := if sc.periodic then advanceAges sc.time counted else counted
    let inbox : Part := (List.finRange 16).foldl (fun q i => intakeInbox i q)
      { aged with req := { aged.req with halt := s.req.halt && noticeOn s.mem .check } }
    let walked : Part := (List.finRange 8).foldl (fun q i => intakeSlot i q) inbox
    exec .exchangeScan s = .next { s with toPart := if walked.req.restartSlots = [] then walked else restartCause .request walked } ∧
      (s.req.halt = true → noticeOn s.mem .check = true → walked = inbox) := by
  intro counted aged inbox walked
  refine ⟨?_, fun hh hc => walks_of_halt (p := { aged with req := { aged.req with halt := s.req.halt && noticeOn s.mem .check } })
    (by rw [hh, hc]; rfl)⟩
  have hs : scanTaken sc s.toPart = walked := scanTaken_eq sc hm
  have hr : handRestarts walked = if walked.req.restartSlots = [] then walked else restartCause .request walked := by
    simp only [handRestarts, List.isEmpty_iff]
  rw [exec_exchangeScan hl hp, runScan_eq, hs, hr]

/-! ### The row that a slot spells (R23, Table 2-4) -/

theorem drop_take_byte {bs : List Byte} {k : Nat} (n : Nat) (h : k < bs.length) :
    (bs.drop k).take (n + 1) = byteAt bs k :: (bs.drop (k + 1)).take n := by
  rw [List.drop_eq_getElem_cons h, List.take_succ_cons, byteAt, List.getD_eq_getElem _ _ h]

theorem drop_take_add (bs : List Byte) (k i j : Nat) : (bs.drop k).take (i + j) = (bs.drop k).take i ++ (bs.drop (k + i)).take j := by
  rw [List.take_add, List.drop_drop]

/-- A number within a record, written out again. -/
theorem leBytes_fieldNat {bs : List Byte} {k n : Nat} (h : k + n ≤ bs.length) : leBytes n (fieldNat bs k n) = (bs.drop k).take n := by
  have hl : ((bs.drop k).take n).length = n := by simp; omega
  have e := leBytes_leNat ((bs.drop k).take n)
  rwa [hl] at e

theorem fieldNat_lt (bs : List Byte) (k n : Nat) : fieldNat bs k n < 256 ^ n :=
  Nat.lt_of_lt_of_le (leNat_lt _) (Nat.pow_le_pow_right (by decide) (by simp))

theorem leBytes_param {bs : List Byte} {k n : Nat} (h : k + n ≤ bs.length) :
    leBytes n (BitVec.ofNat (8 * n) (fieldNat bs k n)).toNat = (bs.drop k).take n := by
  rw [BitVec.toNat_ofNat, Nat.pow_mul, Nat.mod_eq_of_lt (fieldNat_lt bs k n), leBytes_fieldNat h]

/-- The parameters of CARD_IN, as its slot holds them. -/
theorem cardParams {bs : List Byte} (h : bs.length = 32) :
    byteAt bs 4 :: byteAt bs 5 :: (identityBytes (paramIdentity bs 6) ++ leBytes 2 (paramHalf bs 22).toNat ++
      leBytes 2 (paramHalf bs 24).toNat) = (bs.drop 4).take 22 := by
  rw [drop_take_byte 21 (by omega), drop_take_byte 20 (by omega), drop_take_add bs 6 18 2, drop_take_add bs 6 16 2]
  have e (k n : Nat) (hk : k + n ≤ 32) := leBytes_param (bs := bs) (k := k) (n := n) (by omega)
  exact congrArg _ (congrArg _ (congrArg₂ _ (congrArg₂ _ (e 6 16 (by decide)) (e 22 2 (by decide))) (e 24 2 (by decide))))

/-- Table 2-4. -/
theorem kindCodes : kindSetActivity = 1 ∧ kindCardIn = 2 ∧ kindCardOut = 3 ∧ kindSwapSeats = 4 ∧ kindSetTime = 5 ∧ kindAckLamp = 6 ∧
    kindSetLamp = 7 ∧ kindProve = 8 ∧ kindHomePointer = 9 ∧ kindShowPage = 10 ∧ kindSnapshot = 11 ∧ kindRestart = 12 := by decide

theorem slotBytes_length (m : Mem) (i : Fin 8) : (slotBytes m i).length = 32 := memReadN_length _ _ _

theorem overBytes_self {bs ps : List Byte} {k : Nat} (h : ps = (bs.drop k).take ps.length) : overBytes bs k ps = bs := by
  rw [overBytes]
  nth_rewrite 1 [h]
  rw [← List.drop_drop, List.append_assoc, List.take_append_drop, List.take_append_drop]

/-- A row whose kind and parameters are those of its slot takes the bytes that intake takes. -/
theorem rowBytes_self {i : Fin 8} {kind : Byte} {params : List Byte} (hk : byteAt (slotBytes p.mem i) 1 = kind)
    (hp : params = ((slotBytes p.mem i).drop 4).take params.length) : rowBytes i kind params p = slotBytes p.mem i := by
  have h1 : overBytes (slotBytes p.mem i) 1 [kind] = slotBytes p.mem i := overBytes_self (by
    rw [List.length_singleton, drop_take_byte 0 (by rw [slotBytes_length]; decide), List.take_zero, hk])
  rw [rowBytes, h1, overBytes_self hp]

section
variable {i : Fin 8} (hl : p.live = true) (hh : p.req.halt = false) (hi : p.req.holds[i] = none) {kind : Byte} {params : List Byte}
  (hk : byteAt (slotBytes p.mem i) 1 = kind) (hp : params = ((slotBytes p.mem i).drop 4).take params.length)
include hh hi

/-- R23: intake of a POSTED slot whose check holds. -/
theorem intakeSlot_of_posted (h0 : byteAt (slotBytes p.mem i) 0 = 1) (hx : xorBytes (slotBytes p.mem i) = 0) :
    intakeSlot i p =
      serve i (slotBytes p.mem i) (onlyIf (longKind (byteAt (slotBytes p.mem i) 1)) (markTaken i (slotBytes p.mem i)) p.grantReading) := by
  rw [intakeSlot_of_read hh hi, if_neg (by simp [h0, slotPosted]), if_neg (by simp [checkHolds, hx])]

include hl hk hp

theorem shortRow_of_slot (act : Part → Reply) :
    shortRow i kind params act p = answerReply i (slotBytes p.mem i) (act p.grantReading) := by
  rw [shortRow, rowBytes_self hk hp]
  exact if_pos (by simp [requestTaken, isHeld, hl, hh, hi])

theorem longRow_of_slot (h0 : byteAt (slotBytes p.mem i) 0 = 1) (act : List Byte → Part → Part) :
    longRow i kind params act p = act (slotBytes p.mem i) (markTaken i (slotBytes p.mem i) p.grantReading) := by
  have hs : memRead p.mem (slotAddr i) = slotPosted := by rwa [byteAt, slotBytes, memReadN_getD _ _ _ _ (by decide)] at h0
  rw [longRow, rowBytes_self hk hp, hs]
  exact if_pos (by simp [requestTaken, isHeld, hl, hh, hi])

end

/-- The RESTART row hands over what its slot asks for; the others leave that to the end of a scan. -/
def afterRow : Instr → Part → Part
  | .restart _, q => handRestarts q
  | _, q => q

theorem execPart_requestRow {i : Fin 8} {c : Instr} (hl : p.live = true) (hh : p.req.halt = false) (hi : p.req.holds[i] = none)
    (h0 : byteAt (slotBytes p.mem i) 0 = 1) (hx : xorBytes (slotBytes p.mem i) = 0) (hc : requestRow i (slotBytes p.mem i) = some c) :
    execPart c p = afterRow c (intakeSlot i p) := by
  have hb := slotBytes_length p.mem i
  have one (k : Nat) (h : k < 32) : [byteAt (slotBytes p.mem i) k] = ((slotBytes p.mem i).drop k).take 1 :=
    (drop_take_byte 0 (by rwa [hb])).symm
  have two (k : Nat) (h : k + 1 < 32) : [byteAt (slotBytes p.mem i) k, byteAt (slotBytes p.mem i) (k + 1)] = ((slotBytes p.mem i).drop k).take 2 :=
    ((drop_take_byte 1 (by rw [hb]; omega)).trans (congrArg _ (one (k + 1) h).symm)).symm
  rw [intakeSlot_of_posted hh hi h0 hx]
  generalize hbs : slotBytes p.mem i = bs at *
  unfold requestRow at hc
  have kind {n : Nat} (h : (byteAt bs 1).toNat = n) : byteAt bs 1 = BitVec.ofNat 8 n := by rw [← h, BitVec.ofNat_toNat, BitVec.setWidth_eq]
  have short {k : Byte} {ps : List Byte} {act : Part → Reply} (hk : byteAt bs 1 = k) (hp : ps = (bs.drop 4).take ps.length)
      (hn : longKind k = false) (hs : ∀ q, serve i bs q = answerReply i bs (act q)) :
      shortRow i k ps act p = serve i bs (onlyIf (longKind (byteAt bs 1)) (markTaken i bs) p.grantReading) := by
    rw [hk, hn, hs]
    subst hbs
    exact shortRow_of_slot hl hh hi hk hp act
  have long {k : Byte} {ps : List Byte} {act : List Byte → Part → Part} (hk : byteAt bs 1 = k) (hp : ps = (bs.drop 4).take ps.length)
      (hn : longKind k = true) : longRow i k ps act p = act bs (onlyIf (longKind (byteAt bs 1)) (markTaken i bs) p.grantReading) := by
    rw [hk, hn]
    subst hbs
    exact longRow_of_slot hl hh hi hk hp h0 act
  split at hc <;> simp only [Option.some.injEq, reduceCtorEq] at hc <;> subst hc
  next h => exact short (kind h) (two 4 (by decide)) rfl fun q => by simp [serve, kind h, kindCodes]
  next h =>
    refine short (kind h) ?_ rfl fun q => by simp [serve, kind h, kindCodes]
    have hc := cardParams hb
    have hn := congrArg List.length hc
    rw [show ((bs.drop 4).take 22).length = 22 by simp [hb]] at hn
    rw [hn, hc]
  next h => exact short (kind h) (one 4 (by decide)) rfl fun q => by simp [serve, kind h, kindCodes]
  next h => exact short (kind h) rfl rfl fun q => by simp [serve, kind h, kindCodes]
  next h =>
    refine short (act := fun q => accept (setTime (paramWord bs 4) q)) (kind h) ?_ rfl fun q => by simp [serve, kind h, kindCodes]
    rw [leBytes_length]
    exact leBytes_param (by rw [hb]; decide)
  next h => exact short (kind h) (one 4 (by decide)) rfl fun q => by simp [serve, kind h, kindCodes]
  next h => exact short (kind h) (two 4 (by decide)) rfl fun q => by simp [serve, kind h, kindCodes]
  next h => exact (long (act := prove i) (kind h) rfl rfl).trans (by simp [serve, kind h, kindCodes, afterRow])
  next h => exact (long (act := fun t => homePointer i t (byteAt bs 4)) (kind h) (one 4 (by decide)) rfl).trans (by simp [serve, kind h, kindCodes, afterRow])
  next h => exact short (kind h) (one 4 (by decide)) rfl fun q => by simp [serve, kind h, kindCodes]
  next h => exact short (kind h) (one 4 (by decide)) rfl fun q => by simp [serve, kind h, kindCodes]
  next h => exact (long (act := fun t q => handRestarts (restartRequest i t q)) (kind h) rfl rfl).trans (by simp [serve, kind h, kindCodes, afterRow])

/-- A slot that asks for RESTART spells the row of its own. -/
theorem requestRow_restart {i j : Fin 8} {bs : List Byte} (h : requestRow i bs = some (.restart j)) : j = i := by
  unfold requestRow at h
  split at h <;> simp only [Option.some.injEq, reduceCtorEq, Instr.restart.injEq] at h
  exact h.symm

/-- R23: a kind of no request is answered BAD_KIND. -/
theorem serve_of_no_row {i : Fin 8} {bs : List Byte} (h : requestRow i bs = none) (p : Part) :
    serve i bs p = answerTaken i bs 1 [] p ∧ longKind (byteAt bs 1) = false := by
  unfold requestRow at h
  split at h <;> simp only [reduceCtorEq] at h
  next h1 h2 h3 h4 h5 h6 h7 h8 h9 h10 h11 h12 =>
    have code {n : Nat} (h : (byteAt bs 1).toNat = n → False) (hn : n < 256 := by decide) : byteAt bs 1 ≠ BitVec.ofNat 8 n :=
      fun e => h (by rw [e, BitVec.toNat_ofNat, Nat.mod_eq_of_lt hn])
    simp [serve, longKind, kindCodes, badKind, code h1, code h2, code h3, code h4, code h5, code h6, code h7,
      code h8, code h9, code h10, code h11, code h12]

/-- Settles O12: the scan step by step, and each row against the intake of its slot. -/
theorem intakeRunsTheRowOfTheKind : Obligations.IntakeRunsTheRowOfTheKind := by
  refine ⟨fun s sc hm hl hp => exec_scan hm hl hp, fun p i => ⟨fun h => intakeSlot_of_unread h, fun hh hi h0 => ?_⟩,
    fun s i hl hh hi h0 hx => ⟨fun c hc hn => ?_, fun hc => ?_, fun hc => ?_⟩⟩
  · rw [intakeSlot_of_not_posted hh hi h0, grantReading_eq]
  · have e := execPart_requestRow (p := s.toPart) hl hh hi h0 hx hc
    rw [exec_eq, e]
    unfold afterRow
    split
    next j => exact absurd (congrArg Instr.restart (requestRow_restart hc)) hn
    next => rfl
  · rw [exec_eq, execPart_requestRow (p := s.toPart) hl hh hi h0 hx hc]
    rfl
  · obtain ⟨hs, hn⟩ := serve_of_no_row hc s.toPart.grantReading
    rw [intakeSlot_of_posted hh hi h0 hx, ← hs]
    exact congrArg (serve i _) (if_neg (Bool.eq_false_iff.1 hn))

end Sys2Proof.Machine
end

section
namespace Sys2Proof.Machine

/-! ## The state at reset -/

theorem reset_pulse (i : Fin 4) : State.reset.pulse[i] = PulseIn.reset := Vector.getElem_replicate _
theorem reset_sw (i : Fin 8) : State.reset.sw[i] = Switch.reset := Vector.getElem_replicate _
theorem reset_chan (c : Fin 32) : State.reset.chans[c] = Chan.reset := Vector.getElem_replicate _
theorem reset_ptr (i : Fin 6) : State.reset.ptrs[i] = Ptr.reset := Vector.getElem_replicate _
theorem reset_lamp (i : Fin 32) : State.reset.lamps[i] = Lamp.reset := Vector.getElem_replicate _

/-! ### The laws there -/

theorem reset_controlLaw : ControlLaw State.reset.toPart :=
  ⟨nofun, fun _ => ⟨rfl, rfl, rfl, rfl, rfl⟩, nofun, fun _ => ⟨nofun, nofun⟩, nofun⟩

/-- R141: nothing sounds, and no lamp has a demand. -/
theorem reset_chimeLaw : ChimeLaw State.reset.toPart :=
  ⟨rfl, fun _ => rfl, nofun, fun _ h => absurd h List.not_mem_nil, fun i h => absurd h (by rw [reset_lamp]; decide), nofun⟩

/-- R105: clear memory names no pointer as used. -/
theorem reset_pointersWithinTravel : PointersWithinTravel State.reset.toPart := by
  have unused (i : Fin 6) : ptrUsed [] i = false := by
    fin_cases i <;> rfl
  exact fun i h => absurd h (by rw [show State.reset.working = [] from rfl, unused]; decide)

theorem reset_seatLaws : SeatLaws State.reset.acct :=
  ⟨nofun, fun id _ h => by cases id <;> exact absurd h nofun⟩

/-- R181: the stack is empty, and no lamp has a message. -/
theorem reset_stackLaw : StackLaw State.reset.toPart := by
  have msg (i : Fin 32) : State.reset.lamps[i].msg = .none := by rw [reset_lamp]; rfl
  refine ⟨by decide, List.nodup_nil, List.Pairwise.nil, fun _ h => absurd h List.not_mem_nil, nofun, fun _ h => absurd h List.not_mem_nil,
    fun i h => ?_, fun i h => ?_, fun i h => absurd (msg i) h⟩
  · rw [msg] at h
    exact absurd h (by decide)
  · rw [msg] at h
    exact absurd h (by decide)

theorem reset_channelsWithinRange : ChannelsWithinRange State.reset.toPart := fun c h => by
  rw [reset_chan] at h
  exact absurd h (by decide)

/-- R170: the journal is empty, and none is lost. -/
theorem reset_journalLaw : JournalLaw State.reset.toPart :=
  ⟨fun h => absurd rfl h, fun _ h => absurd h (Nat.not_lt_zero _)⟩

theorem reset_noticeWordLaw : NoticeWordLaw State.reset.toPart :=
  ⟨fun _ _ => BitVec.getLsbD_zero, fun _ _ h => absurd h List.not_mem_nil⟩

/-- Settles O2: the values of the State's definition, and each law there. -/
theorem resetState : Obligations.ResetState := by
  obtain ⟨⟨hm, hw⟩, hh, hr⟩ := allShown_iff.1 (reset_allShown State.reset.link 0 0 false false)
  have hn : State.reset.attn = false := by decide
  refine ⟨rfl, rfl, rfl, rfl, rfl, rfl, rfl, rfl, rfl, rfl, fun _ => rfl, fun _ => rfl, hn, rfl, fun _ => Vector.getElem_replicate _,
    fun _ => Vector.getElem_replicate _, rfl, rfl, fun _ => Vector.getElem_replicate _, rfl, rfl, fun i => ?_, fun i => ?_, fun i => ?_,
    fun i => ?_, fun i => ?_, rfl, rfl, rfl, rfl, rfl, rfl, rfl, rfl, rfl, rfl, rfl, rfl, rfl, rfl, ⟨hm, rfl, nofun⟩, reset_controlLaw,
    reset_chimeLaw, reset_pointersWithinTravel, reset_seatLaws, reset_stackLaw, reset_channelsWithinRange, reset_journalLaw, hh, hr,
    reset_noticeWordLaw, hw⟩
  · rw [reset_pulse]
    exact ⟨rfl, rfl, rfl⟩
  · rw [reset_sw]
    exact ⟨rfl, rfl, rfl⟩
  · rw [reset_chan]
    exact ⟨rfl, rfl, rfl, rfl, rfl, rfl⟩
  · rw [reset_ptr]
    exact ⟨rfl, rfl, rfl, rfl, rfl, rfl⟩
  · rw [reset_lamp]
    exact ⟨rfl, rfl, rfl, rfl, rfl, rfl, rfl, rfl, rfl, rfl, rfl⟩

end Sys2Proof.Machine
end

section
namespace Sys2Proof.Machine

variable {p : Part}

/-! ## Restarts -/

/-! ### Pointers, chime and access where a restart begins -/

/-- R119: a pointer as the start of a restart leaves it. -/
def Ptr.stopped (x : Ptr) : Ptr := { x with state := .released, stepsLeft := 0, sweep := .waiting, pending := undriven }

theorem updPtr_ptrs (i : Fin 6) (f : Ptr → Ptr) (p : Part) : (updPtr i f p).ptrs = updAt i f p.ptrs :=
  onlyIf_closed (P := fun q => q.ptrs = updAt i f p.ptrs) (f := rewritePtr i) (p := setPtr i f p) (fun _ hq => hq) _ rfl

theorem restartPtr_ptrs (i : Fin 6) (p : Part) : (restartPtr i p).ptrs = updAt i Ptr.stopped p.ptrs := by
  rw [restartPtr, releaseCoils, setPtr, updPtr_ptrs]
  simp [updAt, Ptr.stopped]

/-- Between `p` and `q` only pointers have changed, and their records, which are asked for behind what waits. -/
def PtrsOnly (p q : Part) : Prop :=
  q = { p with ptrs := q.ptrs, arb := { p.arb with waiting := q.arb.waiting } } ∧ agreeOutside (inRecord 0x500 0x60) p.mem q.mem

theorem PtrsOnly.store {q : Part} {a : Nat} {bs : List Byte} (hm : Memory.wf p.exch = true) (h1 : 0x500 ≤ a)
    (h2 : a + bs.length ≤ 0x560) (h : PtrsOnly p q) : PtrsOnly p (q.store a bs) := by
  obtain ⟨he, hb⟩ := h
  have hq : Memory.wf q.exch = true := by rw [he]; exact hm
  refine ⟨congrArg (fun r : Part => r.store a bs) he, hb.trans ?_⟩
  rw [Part.store_mem]
  refine (agreeOutside_memWriteN (mem_wf q hq)).mono fun k hk => ?_
  simp only [inRecord] at hk ⊢
  omega

theorem PtrsOnly.rewritePtr {q : Part} (hm : Memory.wf p.exch = true) (i : Fin 6) (h : PtrsOnly p q) : PtrsOnly p (rewritePtr i q) :=
  h.store hm (by simp only [ptrResultAddr]; omega) (by simp only [editioned_length, ptrBody_length, ptrResultAddr]; omega)

theorem PtrsOnly.restartPtr {q : Part} (hm : Memory.wf p.exch = true) (i : Fin 6) (h : PtrsOnly p q) : PtrsOnly p (restartPtr i q) := by
  have set (f : Ptr → Ptr) {r : Part} (hr : PtrsOnly p r) : PtrsOnly p (setPtr i f r) :=
    ⟨congrArg (setPtr i f) hr.1, hr.2⟩
  exact set _ (onlyIf_closed (fun _ hr => hr.rewritePtr hm i) _ (set _ h))

theorem restartPtrs_ptrs (p : Part) : (forEach allPtrs restartPtr p).ptrs = p.ptrs.map Ptr.stopped := by
  have fold (is : List (Fin 6)) : ∀ p : Part,
      (forEach is restartPtr p).ptrs = is.foldl (fun v i => updAt i Ptr.stopped v) p.ptrs := by
    induction is with
    | nil => intro p; rfl
    | cons i is ih => intro p; exact (ih _).trans (by rw [restartPtr_ptrs, List.foldl_cons])
  rw [fold, allPtrs, foldl_updAt_all]
  ext j hj : 1
  simp

/-- R119: the pointers where a restart begins. -/
theorem restartPtrs_eq (hm : Memory.wf p.exch = true) : ∃ w, forEach allPtrs restartPtr p =
    { p with ptrs := p.ptrs.map Ptr.stopped, arb := { p.arb with waiting := w } } ∧
      agreeOutside (inRecord 0x500 0x60) p.mem (grantAccesses p.exch w) := by
  have h : PtrsOnly p (forEach allPtrs restartPtr p) :=
    forEach_closed (fun i _ hq => hq.restartPtr hm i) allPtrs ⟨rfl, agreeOutside.refl _ _⟩
  have hp := restartPtrs_ptrs p
  generalize forEach allPtrs restartPtr p = q at h hp ⊢
  obtain ⟨he, hb⟩ := h
  rw [hp] at he
  exact ⟨q.arb.waiting, he, by rw [he] at hb; exact hb⟩

/-- A lamp with another demand owed, or none. -/
def sameButOwed (ls ms : Vector Lamp 32) : Prop := ∀ i : Fin 32, ms[i] = { ls[i] with owed := ms[i].owed }

theorem satisfyServed_eq (p : Part) : ∃ ls, satisfyServed p = { p with chime := { p.chime with served := [] }, lamps := ls } ∧
    sameButOwed p.lamps ls := by
  refine ⟨(satisfyServed p).lamps, ?_, ?_⟩
  · rw [satisfyServed, forEach_setLamp]
    rfl
  · refine forEach_closed (P := fun q => sameButOwed p.lamps q.lamps) (fun i q hq j => ?_) _ fun _ => rfl
    by_cases e : i = j
    · subst e
      rw [setLamp_lamps, updAt_self, hq i]
    · rw [setLamp_lamps, updAt_other i j _ _ e]
      exact hq j

/-- R142: serving stops. -/
theorem chimeStop_eq (p : Part) : ∃ x ls, chimeStop p = { p with chime := x, lamps := ls } ∧ x.phase = .idle ∧ x.deferred = true ∧
    x.test = p.chime.test ∧ sameButOwed p.lamps ls := by
  unfold chimeStop
  split
  · obtain ⟨ls, he, hl⟩ := satisfyServed_eq p
    rw [he]
    exact ⟨_, ls, rfl, rfl, rfl, rfl, hl⟩
  · exact ⟨_, p.lamps, rfl, rfl, rfl, rfl, fun _ => rfl⟩

/-- R32: a change of the access state, and the header's state bytes with it. -/
theorem setAccess_eq (a : Access) (hm : Memory.wf p.exch = true) : ∃ m l w, setAccess a p =
    { p with ctl := { p.ctl with access := a }, exch := m, arb := { p.arb with last := l, waiting := w } } ∧ Memory.wf m = true ∧
      (p.ctl.access ≠ a → memReadN (grantAccesses m w) 2 2 = [p.ctl.op.code, a.code]) ∧
      agreeOutside (fun k => p.ctl.access ≠ a ∧ stateByte k) p.mem (grantAccesses m w) := by
  unfold setAccess
  split
  next h => exact ⟨p.exch, p.arb.last, p.arb.waiting, by rw [← h], hm, absurd h, agreeOutside.refl _ _⟩
  next h =>
    have hw := mem_wf p hm
    refine ⟨memWriteN p.mem 2 [p.ctl.op.code, a.code], .record, [], ?_, memWriteN_wf _ _ _ hw,
      fun _ => memReadN_memWriteN _ _ _ hw, (agreeOutside_memWriteN hw).mono fun k hk => ⟨h, hk⟩⟩
    rw [writeStateBytes, grantAll_eq, Part.store_mem]
    simp [Part.store, Part.request, Part.mem]

/-! ### What the start of a restart leaves -/

/-- A lamp as the start of a restart leaves it, but for the demand that it may owe. -/
def Lamp.out (l : Lamp) : Lamp := { l with lit := false, pending := 0, active := 0, onDelay := none }

theorem lampsOff_eq (p : Part) : lampsOff p = { p with lamps := p.lamps.map Lamp.out } := by
  have hv : (Vector.ofFn fun i : Fin 32 => p.lamps[i].out) = p.lamps.map Lamp.out := by
    ext j hj : 1
    simp
  rw [← hv]
  exact forEach_setLamp_all (fun _ => Lamp.out) p

theorem forgetFrameIfIdle_of_restart (hr : p.ctl.restart.isSome) :
    forgetFrameIfIdle p = { p with panel := { p.panel with lastSent := none, sinceSend := 0 } } := by
  have hl : p.lineActive = false := by simp [Part.lineActive, Option.isNone_eq_false_iff.2 hr]
  rw [forgetFrameIfIdle, hl]
  rfl

/-- R55: the measuring units stop, the confirm timer too, the panel line is idle, and what waits is granted. -/
def unitsOff (p : Part) : Part := (forgetFrameIfIdle (idleConfirm (unitsStop (setIgn { p.ign with count := 0 } p)))).grantAll

theorem unitsOff_eq (hr : p.ctl.restart.isSome) : unitsOff p = { p with
    exch := p.mem, arb := { p.arb with last := if p.arb.waiting.isEmpty then p.arb.last else .record, waiting := [] }
    pulse := p.pulse.map fun x => { x with win := Edges.none, next := Edges.none, tref := none, lastEdge := none }
    sw := p.sw.map fun x => { x with count := 0, taken := false }, conv := { p.conv with busy := none, sref := false }
    ign := { p.ign with count := 0 }, panel := { p.panel with lastSent := none, sinceSend := 0 }
    acct := { p.acct with confirm := none } } := by
  have hi : forgetFrameIfIdle (idleConfirm (unitsStop (setIgn { p.ign with count := 0 } p))) =
      setPanel (fun x => { x with lastSent := none, sinceSend := 0 }) (idleConfirm (unitsStop (setIgn { p.ign with count := 0 } p))) :=
    forgetFrameIfIdle_of_restart hr
  rw [unitsOff, hi, grantAll_eq]
  simp only [setPanel, idleConfirm, setAcct, unitsStop, setConv, setPulses, switchesAfresh, setSwitches, setIgn, Part.mem]
  congr 1

/-- R55: the outputs go off and what is in flight stops. -/
def outputsOff (p : Part) : Part := unitsOff (lampsOff (forEach allPtrs restartPtr (requestsLost (chimeStop (stopTestTone p)))))

theorem restartBegin_eq (cause : Cause) (p : Part) : restartBegin cause p = outputsOff (setAccess .locked (setCtl (fun c =>
    { c with restart := some cause, proving := none, commit := none, settle := none }) p)) := rfl

theorem outputsOff_eq (hm : Memory.wf p.exch = true) (hr : p.ctl.restart.isSome) : ∃ m l x ls, outputsOff p = { p with
    exch := m, arb := { p.arb with last := l, waiting := [] }, ptrs := p.ptrs.map Ptr.stopped, lamps := ls.map Lamp.out, chime := x
    pulse := p.pulse.map fun x => { x with win := Edges.none, next := Edges.none, tref := none, lastEdge := none }
    sw := p.sw.map fun x => { x with count := 0, taken := false }, homeReqs := []
    req := { p.req with holds := Vector.replicate 8 none, halt := false, pendingScan := none, scanTimer := none }
    conv := { p.conv with busy := none, sref := false }, ign := { p.ign with count := 0 }
    panel := { p.panel with lastSent := none, sinceSend := 0 }, acct := { p.acct with confirm := none } } ∧
      agreeOutside (inRecord 0x500 0x60) p.mem m ∧ x.phase = .idle ∧ x.deferred = true ∧ x.test = none ∧ sameButOwed p.lamps ls := by
  obtain ⟨x, ls, hc, h1, h2, h3, h4⟩ := chimeStop_eq (stopTestTone p)
  obtain ⟨w, hp, hb⟩ := restartPtrs_eq (p := requestsLost (chimeStop (stopTestTone p))) (by rw [hc]; exact hm)
  rw [hc] at hp hb
  refine ⟨_, if w.isEmpty then p.arb.last else .record, x, ls, ?_, hb, h1, h2, h3, h4⟩
  rw [outputsOff, hc, hp, lampsOff_eq, unitsOff_eq (by exact hr)]
  rfl

/-- R55: a restart has begun on the part. -/
structure RestartBegun (cause : Cause) (p q : Part) : Prop where
  part : q = { p with
    exch := q.exch, arb := { q.arb with idx := p.arb.idx, waiting := [] }, ptrs := q.ptrs, lamps := q.lamps, chime := q.chime
    pulse := q.pulse, sw := q.sw, homeReqs := []
    ctl := { p.ctl with access := .locked, restart := some cause, proving := none, commit := none, settle := none }
    req := { p.req with holds := Vector.replicate 8 none, halt := false, pendingScan := none, scanTimer := none }
    conv := { p.conv with busy := none, sref := false }, ign := { p.ign with count := 0 }
    panel := { p.panel with lastSent := none, sinceSend := 0 }, acct := { p.acct with confirm := none } }
  phase : q.chime.phase = .idle
  test : q.chime.test = none
  deferred : q.chime.deferred = true
  ptrs : q.ptrs = p.ptrs.map Ptr.stopped
  lamps : ∀ i : Fin 32, q.lamps[i] =
    { p.lamps[i] with lit := false, pending := 0, active := 0, onDelay := none, owed := q.lamps[i].owed }
  pulse : q.pulse = p.pulse.map fun x => { x with win := Edges.none, next := Edges.none, tref := none, lastEdge := none }
  sw : q.sw = p.sw.map fun x => { x with count := 0, taken := false }
  header : p.ctl.access ≠ .locked → memReadN q.mem 2 2 = [p.ctl.op.code, 0]
  bytes : agreeOutside (fun k => (p.ctl.access ≠ .locked ∧ stateByte k) ∨ inRecord 0x500 0x60 k) p.mem q.mem

theorem restartBegin_begun (cause : Cause) (hm : Memory.wf p.exch = true) : RestartBegun cause p (restartBegin cause p) := by
  obtain ⟨m, l, w, ha, hm', hh, hb⟩ := setAccess_eq .locked (p := setCtl (fun c =>
    { c with restart := some cause, proving := none, commit := none, settle := none }) p) hm
  obtain ⟨n, l', x, ls, ho, hn, h1, h2, h3, h4⟩ := outputsOff_eq (p := setAccess .locked (setCtl (fun c =>
    { c with restart := some cause, proving := none, commit := none, settle := none }) p)) (by rw [ha]; exact hm') (by rw [ha]; rfl)
  rw [ha] at hn h4
  rw [restartBegin_eq, ho, ha]
  exact {
    part := rfl
    phase := h1
    test := h3
    deferred := h2
    ptrs := rfl
    lamps := fun i => (Vector.getElem_map Lamp.out i.isLt).trans ((congrArg Lamp.out (h4 i)).trans (by simp [Lamp.out]))
    pulse := rfl
    sw := rfl
    header := fun h => (memReadN_congr fun k hk => hn k (by simp only [inRecord] at hk ⊢; omega)).trans (hh h)
    bytes := (hb.mono fun _ hk => .inl hk).trans (hn.mono fun _ hk => .inr hk) }

/-! ### The causes of a restart -/

/-- R55: a cause arrives outside INIT and restarts. -/
theorem restartCause_begun (cause : Cause) (hm : Memory.wf p.exch = true) (hi : p.ctl.op ≠ .init) (hr : p.ctl.restart = none) :
    RestartBegun cause p (restartCause cause p) := by
  rw [restartCause, if_neg hi, if_neg (by simp [hr])]
  exact restartBegin_begun cause hm

/-- R26: a RESTART request taken, its slot held and kept for the end of the restart. -/
def restartTaken (i : Fin 8) (taken : List Byte) (p : Part) : Part :=
  restartRequest i taken (onlyIf (memRead p.mem (slotAddr i) == slotPosted) (markTaken i taken) p.grantReading)

theorem execPart_restart {i : Fin 8} (h : requestTaken i p = true) :
    execPart (.restart i) p = handRestarts (restartTaken i (rowBytes i kindRestart [] p) p) := if_pos h

/-- R23: the slot of a long request, once it is taken. -/
theorem restartTaken_eq (i : Fin 8) {taken : List Byte} (hm : Memory.wf p.exch = true) (ht : taken.length = 32) : ∃ m h,
    restartTaken i taken p = { p with
      exch := m, arb := { p.arb with last := .record, waiting := [] }
      req := { p.req with holds := h, restartSlots := p.req.restartSlots ++ [i] } } ∧ Memory.wf m = true ∧
    slotMarked i taken p.mem m ∧ agreeOutside (inRecord (0xC0 + 32 * i.val) 32) p.mem m := by
  have hw := mem_wf p hm
  have he : restartTaken i taken p = restartRequest i taken (onlyIf (memRead p.mem (slotAddr i) == slotPosted) (markTaken i taken) p.grantReading) := rfl
  by_cases hs : memRead p.mem (slotAddr i) = slotPosted
  · have hl : (markState slotTaken taken).length = 32 := by simp [markState, withCheck, ht]
    have hm' : (markTaken i taken p.grantReading) = { p with
        exch := memWriteN p.mem (slotAddr i) (markState slotTaken taken), arb := { p.arb with last := .record, waiting := [] } } := by
      rw [markTaken, grantAll_eq, Part.store_mem, grantReading_eq]
      simp [Part.store, Part.request, Part.mem]
    rw [hs, beq_self_eq_true, onlyIf_true, hm'] at he
    refine ⟨_, _, he, memWriteN_wf _ _ _ hw, ⟨fun _ => ?_, fun h => absurd hs h⟩, ?_⟩
    · have hb : memReadN (memWriteN p.mem (slotAddr i) (markState slotTaken taken)) (slotAddr i) 32 = markState slotTaken taken := by
        rw [← hl]
        exact memReadN_memWriteN _ _ _ hw
      exact ⟨(List.append_inj ((memReadN_append _ 31 1 _).symm.trans hb) (by simp [ht])).1, (congrArg xorBytes hb).trans (xorBytes_withCheck _)⟩
    · have ha := agreeOutside_memWriteN (a := slotAddr i) (bs := markState slotTaken taken) hw
      rwa [hl] at ha
  · rw [beq_eq_false_iff_ne.2 hs, onlyIf_false, grantReading_eq] at he
    exact ⟨_, _, he, hw, ⟨fun h => absurd h hs, fun _ => rfl⟩, agreeOutside.refl _ _⟩

/-- A cause of a restart arrives by the command `c` (R55). -/
def bringsCause (s : State) (c : Instr) (cause : Cause) : Prop :=
  c = .resetAssert ∧ s.ctl.resetLine = false ∧ cause = .reset ∨ c = .supplyBelowReset ∧ s.ctl.supplyLow = false ∧ cause = .supply ∨
    (∃ i, c = .restart i ∧ requestTaken i s.toPart = true) ∧ cause = .request

/-- The part as a cause of a restart finds it: its level set, or the slot of a RESTART row marked and kept. -/
structure CauseBrought (s : State) (c : Instr) (cause : Cause) (q : Part) : Prop where
  part : q = { s.toPart with
    exch := q.exch, arb := { q.arb with idx := s.arb.idx }
    ctl := { s.ctl with
      resetLine := s.ctl.resetLine || decide (cause = .reset), supplyLow := s.ctl.supplyLow || decide (cause = .supply) }
    req := { s.req with holds := q.req.holds, restartSlots := q.req.restartSlots } }
  row : ∀ i, c = .restart i →
    q.req.restartSlots = s.req.restartSlots ++ [i] ∧ slotMarked i (rowBytes i 12 [] s.toPart) s.mem q.mem
  slots : cause ≠ .request → q.req.restartSlots = s.req.restartSlots
  bytes : agreeOutside (fun k => ∃ i, c = .restart i ∧ inRecord (0xC0 + 32 * i.val) 32 k) s.mem q.mem

/-- A level leaves all but itself. -/
theorem CauseBrought.of_level {s : State} {c : Instr} {cause : Cause} {x : Control} (hx : x = { s.ctl with
      resetLine := s.ctl.resetLine || decide (cause = .reset), supplyLow := s.ctl.supplyLow || decide (cause = .supply) })
    (hc : ∀ i, c ≠ .restart i) : CauseBrought s c cause { s.toPart with ctl := x } where
  part := by rw [hx]
  row i h := absurd h (hc i)
  slots _ := rfl
  bytes _ _ := rfl

section
variable {s : State} {c : Instr} {cause : Cause} (hm : Memory.wf s.exch = true) (hi : s.ctl.op ≠ .init) (hr : s.ctl.restart = none)
include hm hi hr

theorem execPart_restart_row {i : Fin 8} (h : requestTaken i s.toPart = true) : ∃ q, CauseBrought s (.restart i) .request q ∧
    RestartBegun .request q (execPart (.restart i) s.toPart) := by
  have hl : (rowBytes i kindRestart [] s.toPart).length = 32 := by simp [rowBytes, overBytes, slotBytes]
  obtain ⟨m, hs, he, hw, h1, h2⟩ := restartTaken_eq i hm hl
  have hc : execPart (.restart i) s.toPart = restartCause .request (restartTaken i (rowBytes i kindRestart [] s.toPart) s.toPart) := by
    rw [execPart_restart h, handRestarts, he]
    simp
  rw [hc, he]
  refine ⟨_, ⟨by simp, fun j hj => ?_, fun hn => absurd rfl hn, h2.mono fun k hk => ⟨i, rfl, hk⟩⟩, restartCause_begun .request hw hi hr⟩
  obtain rfl := Instr.restart.inj hj
  exact ⟨rfl, h1⟩

/-- R55: what a cause finds, and the restart that it begins. -/
theorem execPart_restart_begun (hc : bringsCause s c cause) :
    ∃ q, CauseBrought s c cause q ∧ RestartBegun cause q (execPart c s.toPart) := by
  rcases hc with ⟨rfl, hl, rfl⟩ | ⟨rfl, hl, rfl⟩ | ⟨⟨i, rfl, h⟩, rfl⟩
  · have he : execPart .resetAssert s.toPart = restartCause .reset (setCtl (fun c => { c with resetLine := true }) s.toPart) :=
      if_pos (by rw [hl]; rfl)
    rw [he]
    exact ⟨_, .of_level (by simp [hl]) nofun, restartCause_begun .reset hm hi hr⟩
  · have he : execPart .supplyBelowReset s.toPart = restartCause .supply (setCtl (fun c => { c with supplyLow := true }) s.toPart) :=
      if_pos (by rw [hl]; rfl)
    rw [he]
    exact ⟨_, .of_level (by simp [hl]) nofun, restartCause_begun .supply hm hi hr⟩
  · exact execPart_restart_row hm hi hr h

end

theorem RestartBegun.restartSlots {cause : Cause} {p q : Part} (h : RestartBegun cause p q) :
    q.req.restartSlots = p.req.restartSlots := by rw [h.part]

/-- The whole of it, from what the cause found. -/
theorem RestartBegun.of_brought {s : State} {c : Instr} {cause : Cause} {p q : Part} (hp : CauseBrought s c cause p)
    (hq : RestartBegun cause p q) : q = { s.toPart with
        exch := q.exch, arb := { q.arb with idx := s.arb.idx, waiting := [] }, ptrs := q.ptrs, lamps := q.lamps, chime := q.chime
        pulse := q.pulse, sw := q.sw, homeReqs := []
        ctl := { s.ctl with
          access := .locked, restart := some cause, proving := none, commit := none, settle := none
          resetLine := s.ctl.resetLine || decide (cause = .reset), supplyLow := s.ctl.supplyLow || decide (cause = .supply) }
        req := { s.req with
          holds := Vector.replicate 8 none, halt := false, pendingScan := none, scanTimer := none
          restartSlots := q.req.restartSlots }
        conv := { s.conv with busy := none, sref := false }, ign := { s.ign with count := 0 }
        panel := { s.panel with lastSent := none, sinceSend := 0 }, acct := { s.acct with confirm := none } } := by
  rw [hq.restartSlots]
  refine hq.part.trans ?_
  rw [hp.part]

/-- Bytes outside the slot leave it marked. -/
theorem slotMarked_of_agree {i : Fin 8} {taken : List Byte} {m n o : Mem} {A : Nat → Prop} (h : slotMarked i taken m n)
    (ha : agreeOutside A n o) (hA : ∀ k, A k → ¬ inRecord (0xC0 + 32 * i.val) 32 k) : slotMarked i taken m o := by
  have hb (k : Nat) (hk : inRecord (0xC0 + 32 * i.val) 32 k) : memRead o k = memRead n k := ha k fun h => hA k h hk
  have h32 : memReadN o (0xC0 + 32 * i.val) 32 = memReadN n (0xC0 + 32 * i.val) 32 := memReadN_congr hb
  have h31 : memReadN o (0xC0 + 32 * i.val) 31 = memReadN n (0xC0 + 32 * i.val) 31 :=
    memReadN_congr fun k hk => hb k (by simp only [inRecord] at hk ⊢; omega)
  simp only [slotMarked, h32, h31]
  exact h

/-- What a cause leaves as it finds it. -/
theorem CauseBrought.kept {s : State} {c : Instr} {cause : Cause} {p : Part} (h : CauseBrought s c cause p) :
    p.ptrs = s.ptrs ∧ p.lamps = s.lamps ∧ p.pulse = s.pulse ∧ p.sw = s.sw ∧ p.ctl.access = s.ctl.access ∧ p.ctl.op = s.ctl.op := by
  rw [h.part]
  exact ⟨rfl, rfl, rfl, rfl, rfl, rfl⟩

/-- R55: a restart begins. -/
theorem restart_begins {s : State} {c : Instr} {cause : Cause} {p q : Part} (hp : CauseBrought s c cause p) (hq : RestartBegun cause p q) :
    (∀ i, c = .restart i → q.req.restartSlots = s.req.restartSlots ++ [i] ∧ slotMarked i (rowBytes i 12 [] s.toPart) s.mem q.mem) ∧
    (∀ i : Fin 6, q.ptrs[i] = (s.ptrs[i]).stopped) ∧
    (∀ i : Fin 4, q.pulse[i] = { s.pulse[i] with win := Edges.none, next := Edges.none, tref := none, lastEdge := none }) ∧
    (∀ i : Fin 8, q.sw[i] = { s.sw[i] with taken := false, count := 0 }) ∧
    agreeOutside (fun k => (s.ctl.access ≠ .locked ∧ stateByte k) ∨ inRecord 0x500 0x60 k ∨
      ∃ i, c = .restart i ∧ inRecord (0xC0 + 32 * i.val) 32 k) s.mem q.mem := by
  obtain ⟨hptrs, -, hpulse, hsw, hacc, -⟩ := hp.kept
  refine ⟨fun i h => ?_, fun i => ?_, fun i => ?_, fun i => ?_, ?_⟩
  · obtain ⟨h1, h2⟩ := hp.row i h
    refine ⟨hq.restartSlots.trans h1, slotMarked_of_agree h2 hq.bytes fun k hk => ?_⟩
    simp only [stateByte, inRecord] at hk ⊢
    omega
  · rw [hq.ptrs, hptrs]
    exact Vector.getElem_map _ i.isLt
  · rw [hq.pulse, hpulse]
    exact Vector.getElem_map _ i.isLt
  · rw [hq.sw, hsw]
    exact Vector.getElem_map _ i.isLt
  · rw [← hacc]
    exact (hp.bytes.mono fun _ hk => .inr (.inr hk)).trans (hq.bytes.mono fun _ hk => hk.imp id .inl)

/-- R55: a cause goes on with the restart in progress. -/
theorem restartCause_of_restart (cause : Cause) (hi : p.ctl.op ≠ .init) (hr : p.ctl.restart.isSome) : restartCause cause p = p :=
  (if_neg hi).trans (if_pos hr)

/-- R33: a cause in INIT makes INIT begin again. -/
theorem restartCause_of_init (cause : Cause) (hi : p.ctl.op = .init) :
    restartCause cause p = setCtl (fun c => { c with initDone := false }) p := if_pos hi

theorem initAgain_of_not_init (hi : p.ctl.op ≠ .init) : initAgain p = p := if_neg fun h => hi h.1

theorem exec_resetAssert {s : State} (h : s.ctl.resetLine = false) :
    exec .resetAssert s = .next { s with toPart := restartCause .reset (setCtl (fun c => { c with resetLine := true }) s.toPart) } := by
  rw [exec_eq, execPart, h]
  rfl

theorem exec_supplyBelowReset {s : State} (h : s.ctl.supplyLow = false) :
    exec .supplyBelowReset s = .next { s with toPart := restartCause .supply (setCtl (fun c => { c with supplyLow := true }) s.toPart) } := by
  rw [exec_eq, execPart, h]
  rfl

theorem exec_resetRelease {s : State} (h : s.ctl.resetLine = true) :
    exec .resetRelease s = .next { s with toPart := initAgain (setCtl (fun c => { c with resetLine := false }) s.toPart) } := by
  rw [exec_eq, execPart, h]
  rfl

theorem exec_supplyAboveReset {s : State} (h : s.ctl.supplyLow = true) :
    exec .supplyAboveReset s = .next { s with toPart := initAgain (setCtl (fun c => { c with supplyLow := false }) s.toPart) } := by
  rw [exec_eq, execPart, h]
  rfl

/-- Settles O22: what a cause finds, what the start of a restart leaves of it, and the causes that begin none. -/
theorem restartsBegin : Obligations.RestartsBegin := by
  refine ⟨fun s c cause hm hi hr hc => ?_, fun s hi hr => ⟨fun h => ?_, fun h => ?_⟩, fun s hi => ⟨fun h => ?_, fun h => ?_⟩,
    fun s hi => ⟨fun h => ?_, fun h => ?_⟩⟩
  · obtain ⟨p, hp, hq⟩ := execPart_restart_begun hm hi hr hc
    have hx := exec_eq c s
    generalize execPart c s.toPart = q at hq hx
    obtain ⟨h1, h2, h3, h4, h5⟩ := restart_begins hp hq
    obtain ⟨-, hlamps, -, -, hacc, hop⟩ := hp.kept
    have hsound : q.chimeSounds = false := by simp [Part.chimeSounds, hq.phase, hq.test]
    exact ⟨_, hx, congrArg (fun r : Part => { s with toPart := r }) (hq.of_brought hp), h1, fun h => hq.restartSlots.trans (hp.slots h),
      hsound, hq.phase, hq.test, hq.deferred, h2, hlamps ▸ hq.lamps, h3, h4, fun h => hop ▸ hq.header (hacc ▸ h), h5⟩
  · rw [exec_resetAssert h, restartCause_of_restart _ (by exact hi) (by exact hr), setCtl]
  · rw [exec_supplyBelowReset h, restartCause_of_restart _ (by exact hi) (by exact hr), setCtl]
  · rw [exec_resetRelease h, initAgain_of_not_init (by exact hi), setCtl]
  · rw [exec_supplyAboveReset h, initAgain_of_not_init (by exact hi), setCtl]
  · rw [exec_resetAssert h, restartCause_of_init _ (by exact hi), setCtl, setCtl]
  · rw [exec_supplyBelowReset h, restartCause_of_init _ (by exact hi), setCtl, setCtl]

end Sys2Proof.Machine
end

section
namespace Sys2Proof.Machine

variable {p : Part}

/-! ## Power-on and INIT -/

/-! ### INIT begins -/

/-- R33: the POWER_ON entry, at clock 0 with the clock not valid. -/
def powerOnEntry : List Byte := [0, 0, 1] ++ List.replicate 29 0

/-- R33: the record accesses of INIT's work: the identity copy, the POWER_ON entry and the control record. -/
def initAccesses : List RecordAccess :=
  [.write 0 [0x6B, 0x1E], .write 0x800 powerOnEntry, .write 0x1E0 ([1, 0, 0, 0, 1, 0] ++ List.replicate 10 0)]

theorem initWork_eq (hw : p.arb.waiting = []) (hj : p.jour = { wm := 0, rm := 0, seq := 0, lost := 0 }) (hc : p.acct.clock = 0)
    (hv : p.acct.timeValid = false) : initWork p = { p with
      exch := grantAccesses p.exch initAccesses, arb := { p.arb with last := .record, waiting := [] }
      ctl := { p.ctl with initDone := true }, jour := { wm := 1, rm := 0, seq := 1, lost := 0 } } := by
  have he : entryBytes 0 0 false (entryBody .powerOn) = powerOnEntry := by decide
  have hz : leBytes 2 partIdentity = [0x6B, 0x1E] := by decide
  simp only [initWork, recordEntry, writeJournalControl, Part.store, Part.request, grantAll_eq, Part.mem, setCtl, hw, hj, hc, hv, he, hz]
  rfl

/-- R33: INIT begins with no cause that holds it. -/
theorem initBegin_eq (link : Link) (h : causesPassed p = true) : initBegin link p = { Part.reset with
    exch := grantAccesses [] initAccesses, arb := { last := .record, waiting := [], idx := p.arb.idx }, link := link, freeIdx := p.freeIdx
    ctl := { Part.reset.ctl with initDone := true }, jour := { wm := 1, rm := 0, seq := 1, lost := 0 } } := by
  obtain ⟨h1, h2⟩ : p.ctl.resetLine = false ∧ p.ctl.supplyLow = false := by simpa [causesPassed] using h
  rw [initBegin, h1, h2]
  exact initWork_eq rfl rfl rfl rfl

/-- R33: INIT begins, and a cause holds it. -/
theorem initBegin_held (link : Link) (h : causesPassed p = false) : initBegin link p = { Part.reset with
    arb := { Arbiter.reset with idx := p.arb.idx }, link := link, freeIdx := p.freeIdx
    ctl := { Part.reset.ctl with resetLine := p.ctl.resetLine, supplyLow := p.ctl.supplyLow } } := by
  have hc : (!p.ctl.resetLine && !p.ctl.supplyLow) = false := h
  unfold initBegin
  exact if_neg (Bool.eq_false_iff.1 hc)

theorem initAccesses_agree (k : Nat) (h1 : 2 ≤ k) (h2 : ¬ inRecord 0x1E0 6 k) (h3 : ¬ inRecord 0x800 32 k) :
    memRead (grantAccesses [] initAccesses) k = 0 := by
  by_cases hk : inRecord 0x1E0 16 k
  · obtain ⟨hk1, hk2⟩ := hk
    simp only [inRecord] at h2
    have spare : ∀ d : Fin 10, memRead (grantAccesses [] initAccesses) (0x1E6 + d.val) = 0 := by decide
    rw [show k = 0x1E6 + (k - 0x1E6) by omega]
    exact spare ⟨k - 0x1E6, by omega⟩
  · refine (memRead_grantAccesses_out initAccesses k [] rfl fun x hx => ?_).trans rfl
    simp only [initAccesses, List.mem_cons, List.not_mem_nil, or_false] at hx
    simp only [inRecord] at hk h3
    rcases hx with rfl | rfl | rfl <;> simp [RecordAccess.avoids, powerOnEntry] <;> omega

/-- R13, R33, R172: the memory that INIT's work leaves. -/
theorem initAccesses_bytes : memReadN (grantAccesses [] initAccesses) 0 2 = [0x6B, 0x1E] ∧ noticeWord (grantAccesses [] initAccesses) = 0 ∧
    noticeMask (grantAccesses [] initAccesses) = 0 ∧
    controlRecordShows { wm := 1, rm := 0, seq := 1, lost := 0 } (grantAccesses [] initAccesses) ∧
    memReadN (grantAccesses [] initAccesses) 0x800 32 = powerOnEntry := by
  unfold controlRecordShows
  decide

/-! ### The commands of power-on -/

/-- R33: a cause that held INIT has passed. -/
theorem initAgain_of_passed (hi : p.ctl.op = .init) (hd : p.ctl.initDone = false) (h : causesPassed p = true) :
    initAgain p = initBegin p.link p := by
  rw [initAgain, if_pos ⟨hi, by rw [hd]; rfl⟩, h]
  rfl

/-- Log entry 2: INIT begun again is INIT begun at power-on, but for the link. -/
theorem initBegin_again {q : Part} (h : causesPassed p = true) (l : Link) (hq : causesPassed q = true) (hx : q.arb.idx = p.arb.idx)
    (hf : q.freeIdx = p.freeIdx) : initBegin l p = { initBegin Part.reset.link q with link := l } := by
  rw [initBegin_eq l h, initBegin_eq _ hq, hx, hf]

theorem powerOn_begins {s : State} (h : s.ctl.resetLine = false) : ∃ t, exec .powerOn s = .next t ∧
    t = { State.reset with
      pending := s.pending, freeIdx := s.freeIdx, exch := t.exch, arb := { last := .record, waiting := [], idx := s.arb.idx }
      ctl := { State.reset.ctl with initDone := true }, jour := { wm := 1, rm := 0, seq := 1, lost := 0 } } ∧
    t.exch = grantAccesses [] initAccesses := by
  have he : execPart .powerOn s.toPart = _ :=
    initBegin_eq Part.reset.link (p := setCtl (fun c => { c with supplyLow := false }) s.toPart) (by simp [causesPassed, setCtl, h])
  exact ⟨_, (exec_eq _ _).trans (by rw [he]), rfl, rfl⟩

/-! ### INIT ends -/

/-- R11: notices set one after another: the bits that they add, and the bytes that they leave. -/
theorem notices_effect (ns : List Notice) : ∀ {m : Mem}, Memory.wf m = true →
    noticeWord (grantAccesses m (ns.map .notice)) = ns.foldl (fun x n => x ||| 1#16 <<< n.bit) (noticeWord m) ∧
      agreeOutside noticeByte m (grantAccesses m (ns.map .notice)) := by
  induction ns with
  | nil => exact fun _ => ⟨rfl, agreeOutside.refl _ _⟩
  | cons n ns ih =>
    intro m hm
    obtain ⟨h1, h2⟩ := ih (effect_wf (.notice n) m hm)
    have he : RecordAccess.effect m (.notice n) = memWriteN m noticeAddr (noticeBytes n m) := rfl
    refine ⟨h1.trans (by rw [he, noticeWord_memWriteN _ _ _ hm]; rfl), agreeOutside.trans (fun k hk => ?_) h2⟩
    refine memRead_effect_out _ _ _ hm ?_
    simp only [RecordAccess.avoids, noticeByte_iff] at hk ⊢
    omega

/-- R32: UNCONFIGURED is entered: the header at once, the STATE notice behind it, and the scan timer. -/
theorem setOp_unconfigured_eq (p : Part) : setOp .unconfigured p = { p with
    ctl := { p.ctl with op := .unconfigured }, req := { p.req with scanTimer := some 20 }
    panel := { p.panel with lastSent := none, sinceSend := 0 }, exch := memWriteN p.mem 2 [1, p.ctl.access.code]
    arb := { p.arb with last := .record, waiting := [.notice .state] } } := by
  have hl : (setReq (fun r => { r with scanTimer := some 20 })
      (setNotice .state (writeStateBytes (setCtl (fun c => { c with op := .unconfigured }) p)))).lineActive = false := by
    simp [Part.lineActive, setNotice, writeStateBytes]
  have hs : setOp .unconfigured p = forgetFrameIfIdle (setReq (fun r => { r with scanTimer := some 20 })
      (setNotice .state (writeStateBytes (setCtl (fun c => { c with op := .unconfigured }) p)))) := rfl
  rw [hs, forgetFrameIfIdle, hl]
  simp [onlyIf, setPanel, setReq, setNotice, writeStateBytes, setCtl, grantAll_eq, Part.store, Part.request, Part.mem]
  exact grantAccesses_append _ _ _

/-- R142: nothing to bring in line while demands are deferred and not served. -/
theorem chimeSync_of_deferred (hd : p.chime.deferred = true) (hs : chimeServes p = false) : chimeSync p = p := by
  rw [chimeSync, hd, hs]
  rfl

/-- Clear memory uses no channel and no pointer. -/
theorem chanKind_empty (c : Fin 32) : chanKind [] c = .none := by
  fin_cases c <;> rfl

theorem ptrUsed_empty (i : Fin 6) : ptrUsed [] i = false := by
  fin_cases i <;> rfl

theorem dipChan_of_empty (c : Fin 32) (hw : p.working = []) : dipChan c p = p := by
  rw [dipChan, hw, chanKind_empty]
  rfl

theorem freezePtr_of_empty (i : Fin 6) (hw : p.working = []) : freezePtr i p = p := by
  rw [freezePtr, hw, ptrUsed_empty]
  rfl

theorem dipUnits_of_empty (hw : p.working = []) : forEach allPtrs freezePtr (forEach allChans dipChan p) = p := by
  rw [forEach_fixed (is := allChans) fun c _ => dipChan_of_empty c hw, forEach_fixed fun i _ => freezePtr_of_empty i hw]

/-- R52: at a dip start with an empty configuration and nothing to sound no channel and no pointer changes. -/
theorem dipStart_of_empty (hw : p.working = []) (hd : p.chime.deferred = true) : dipStart p =
    muteTestTone (setNotice .dip (setCtl (fun c => { c with supply := .dip, settle := none }) p)) := by
  have hq : chimeSync (setNotice .dip (setCtl (fun c => { c with supply := .dip, settle := none }) p)) =
      setNotice .dip (setCtl (fun c => { c with supply := .dip, settle := none }) p) :=
    chimeSync_of_deferred hd (by simp [chimeServes, Part.inDip, setNotice])
  have he : dipStart p = forEach allPtrs freezePtr (forEach allChans dipChan (muteTestTone (chimeSync
    (setNotice .dip (setCtl (fun c => { c with supply := .dip, settle := none }) p))))) := rfl
  rw [he, hq]
  exact dipUnits_of_empty hw

/-- R33: the part as the units have started at the end of INIT, the supply still to be judged. -/
def unitsStarted (strap ign : Bool) (now : Word) (p : Part) : Part :=
  unitsStart (seenFromSlots (setNotice .journal (setOp .unconfigured (takeSamples strap ign now p))))

/-- R18, R33, R61, R67, R74. -/
theorem unitsStarted_eq (strap ign : Bool) (now : Word) (p : Part) : ∃ m, unitsStarted strap ign now p = { p with
      exch := memWriteN p.mem 2 [1, p.ctl.access.code], arb := { p.arb with last := .record, waiting := [.notice .state, .notice .journal] }
      sw := p.sw.map fun x => { x with count := 0, taken := false }
      pulse := Vector.ofFn fun i => { p.pulse[i] with start := now, len := windowLength p.working i, win := Edges.none, next := Edges.none }
      free := now, ign := { on := ign, count := 0 }
      ctl := { p.ctl with op := .unconfigured, strap := strap, supply := .normal, settle := none }
      req := { p.req with scanTimer := some 20, seen := Vector.ofFn fun i : Fin 16 => memRead m (inboxAddr i) }
      conv := { p.conv with pos := 0, busy := none, sref := true }, panel := { p.panel with lastSent := none, sinceSend := 0 } } ∧
    m = grantAccesses (memWriteN p.mem 2 [1, p.ctl.access.code]) [.notice .state, .notice .journal] := by
  refine ⟨_, ?_, rfl⟩
  rw [unitsStarted, setOp_unconfigured_eq]
  rfl

/-- The notices that INIT's end sets (R13, R33, R52). -/
def initNotices (belowDip : Bool) : List Notice := [.state, .journal] ++ if belowDip then [.dip] else []

/-- R33: what INIT leaves at its end. -/
theorem initEnd_eq (strap ign belowDip : Bool) (now : Word) (hc : ChimeLaw p) (hi : p.ctl.op = .init) (hd : p.ctl.initDone = true)
    (h : causesPassed p = true) (hw : p.working = []) : ∃ m x, initEnd strap ign belowDip now p = { p with
      exch := grantAccesses (memWriteN p.mem 2 [1, p.ctl.access.code]) ((initNotices belowDip).map .notice)
      arb := { p.arb with last := .record, waiting := [] }, sw := p.sw.map fun x => { x with count := 0, taken := false }
      pulse := Vector.ofFn fun i => { p.pulse[i] with start := now, len := windowLength p.working i, win := Edges.none, next := Edges.none }
      chime := x, free := now, ign := { on := ign, count := 0 }
      ctl := { p.ctl with op := .unconfigured, strap := strap, supply := if belowDip then .dip else .normal, settle := none }
      req := { p.req with scanTimer := some 20, seen := Vector.ofFn fun i : Fin 16 => memRead m (inboxAddr i) }
      conv := { p.conv with pos := 0, busy := none, sref := true }, panel := { p.panel with lastSent := none, sinceSend := 0 } } ∧
    m = grantAccesses (memWriteN p.mem 2 [1, p.ctl.access.code]) [.notice .state, .notice .journal] := by
  obtain ⟨m, hu, hm⟩ := unitsStarted_eq strap ign now p
  have he : initEnd strap ign belowDip now p = (onlyIf belowDip dipStart (unitsStarted strap ign now p)).grantAll :=
    if_pos ⟨hi, hd, h⟩
  have hdef : p.chime.deferred = true := by
    obtain ⟨hdef, -⟩ := hc
    rw [hdef, chimeServes, hi]
    rfl
  rw [he, hu]
  cases belowDip with
  | false => exact ⟨m, p.chime, by rw [onlyIf_false, grantAll_eq]; rfl, hm⟩
  | true =>
    rw [onlyIf_true, dipStart_of_empty (by exact hw) (by exact hdef), grantAll_eq]
    exact ⟨m, _, rfl, hm⟩

/-- R13, R33: the bytes that INIT leaves at its end. -/
theorem initEnd_bytes {m : Mem} (a : Access) (belowDip : Bool) (hm : Memory.wf m = true) :
    let n := grantAccesses (memWriteN m 2 [1, a.code]) ((initNotices belowDip).map .notice)
    memReadN n 2 2 = [1, a.code] ∧ noticeWord n = noticeWord m ||| (if belowDip then 0x218#16 else 0x18#16) ∧
      agreeOutside (fun k => stateByte k ∨ noticeByte k) m n := by
  have hw := memWriteN_wf [1, a.code] m 2 hm
  have hs := agreeOutside_memWriteN (a := 2) (bs := [1, a.code]) hm
  obtain ⟨h1, h2⟩ := notices_effect (initNotices belowDip) hw
  refine ⟨(memReadN_congr fun k hk => h2 k ?_).trans (memReadN_memWriteN m 2 [1, a.code] hm), h1.trans ?_,
    (hs.mono fun k hk => .inl hk).trans (h2.mono fun _ hk => .inr hk)⟩
  · simp only [inRecord, noticeByte_iff] at hk ⊢
    omega
  · rw [noticeWord_congr (m := m) fun k hk => hs k (by simp only [inRecord, noticeByte_iff] at hk ⊢; simp; omega)]
    cases belowDip <;> simp [initNotices, Notice.bit, BitVec.or_assoc]

/-- Settles O21: what INIT's work leaves, when it begins again, and its end step by step. -/
theorem initBeginsAndEnds : Obligations.InitBeginsAndEnds := by
  refine ⟨fun s h => ?_, fun s h => ?_, fun s hi hd hl hs => ?_, fun s hi hd hl hs => ?_,
    fun s strap ign belowDip now hm hc hi hd hl hs hw => ?_⟩
  · obtain ⟨t, h1, h2, h3⟩ := powerOn_begins h
    obtain ⟨b1, b2, b3, b4, b5⟩ := initAccesses_bytes
    rw [← h3] at b1 b2 b3 b4 b5
    exact ⟨t, h1, h2, b1, b2, b3, by rw [h2]; exact b4, b5, fun a h4 h5 h6 => h3 ▸ initAccesses_agree a h4 h5 h6⟩
  · have he : execPart .powerOn s.toPart = _ :=
      initBegin_held Part.reset.link (p := setCtl (fun c => { c with supplyLow := false }) s.toPart) (by simp [causesPassed, h])
    rw [exec_eq, he, setCtl_ctl, h]
    rfl
  · have hp : causesPassed (setCtl (fun c => { c with resetLine := false }) s.toPart) = true := by simp [causesPassed, hs]
    refine ⟨_, exec_eq _ _, ?_⟩
    rw [exec_resetRelease hl, initAgain_of_passed (by exact hi) (by exact hd) hp, initBegin_again hp _
      (q := setCtl (fun c => { c with supplyLow := false }) { s.toPart with ctl := { s.ctl with resetLine := false } })
      (by simp [causesPassed]) rfl rfl]
    rfl
  · have hp : causesPassed (setCtl (fun c => { c with supplyLow := false }) s.toPart) = true := by simp [causesPassed, hl]
    refine ⟨_, exec_eq _ _, ?_⟩
    rw [exec_supplyAboveReset hs, initAgain_of_passed (by exact hi) (by exact hd) hp, initBegin_again hp _ hp rfl rfl]
    rfl
  · obtain ⟨m, x, he, hseen⟩ := initEnd_eq strap ign belowDip now hc hi hd (by simp [causesPassed, hl, hs]) hw
    obtain ⟨h1, h2, h3⟩ := initEnd_bytes s.ctl.access belowDip (mem_wf _ hm)
    have hx : exec (.initEnd strap ign belowDip now) s = .next { s with toPart := initEnd strap ign belowDip now s.toPart } := rfl
    rw [he] at hx
    have hb (i : Fin 16) : memRead m (0x40 + 8 * i.val) = memRead s.mem (0x40 + 8 * i.val) := by
      rw [hseen]
      exact (initEnd_bytes s.ctl.access false (mem_wf _ hm)).2.2 _ (by simp only [stateByte, noticeByte_iff, inRecord]; omega)
    exact ⟨_, hx, by simp, fun i => by simpa [inboxAddr] using hb i, fun i => by simp, fun i => by simp [Edges.none], h1, h2, h3⟩

end Sys2Proof.Machine
end

section
namespace Sys2Proof.Machine

variable {b p q : Part}

/-! ## What a notification leaves of the lamps -/

/-! ### The course of a lamp's event -/

/-- What the evaluation of a lamp's condition reads and writes of the lamp. -/
structure LampInputs where
  cond : Bool
  hyst : Bool
  requested : Bool
  chanLast : Result
  gateLast : Result
  diag : Diag

def Lamp.inputs (l : Lamp) : LampInputs :=
  { cond := l.cond, hyst := l.hyst, requested := l.requested, chanLast := l.chanLast, gateLast := l.gateLast, diag := l.diag }

/-- Since `b` lamps have changed their states, their outputs, their messages and their demands: none has been told of anything,
and no condition has been evaluated. -/
def LampEvents (b p : Part) : Prop :=
  p = { b with exch := p.exch, arb := p.arb, lamps := p.lamps, chime := p.chime, panel := { b.panel with stack := p.panel.stack } } ∧
    ∀ i : Fin 32, p.lamps[i].inputs = b.lamps[i].inputs

theorem LampEvents.refl (p : Part) : LampEvents p p := ⟨rfl, fun _ => rfl⟩

theorem LampEvents.trans (h : LampEvents b p) (h' : LampEvents p q) : LampEvents b q := by
  obtain ⟨he, hi⟩ := h
  obtain ⟨he', hi'⟩ := h'
  refine ⟨he'.trans ?_, fun i => (hi' i).trans (hi i)⟩
  rw [he]

theorem setLamp_events (i : Fin 32) (f : Lamp → Lamp) (hf : ∀ l, (f l).inputs = l.inputs := by exact fun _ => rfl) (h : LampEvents b p) :
    LampEvents b (setLamp i f p) := by
  obtain ⟨he, hi⟩ := h
  refine ⟨congrArg (setLamp i f) he, fun j => ?_⟩
  rw [setLamp_lamps]
  by_cases e : i = j
  · subst e
    rw [updAt_self, hf, hi]
  · rw [updAt_other i j _ _ e, hi]

theorem store_events (a : Nat) (bs : List Byte) (h : LampEvents b p) : LampEvents b (p.store a bs) :=
  ⟨congrArg (fun q : Part => q.store a bs) h.1, h.2⟩

theorem rewriteLamp_events (i : Fin 32) (h : LampEvents b p) : LampEvents b (rewriteLamp i p) := store_events _ _ h

theorem updLamp_events (i : Fin 32) (f : Lamp → Lamp) (hf : ∀ l, (f l).inputs = l.inputs := by exact fun _ => rfl) (h : LampEvents b p) :
    LampEvents b (updLamp i f p) := onlyIf_closed (fun _ hq => rewriteLamp_events i hq) _ (setLamp_events i f hf h)

theorem setChime_events (f : Chime → Chime) (h : LampEvents b p) : LampEvents b (setChime f p) := ⟨congrArg (setChime f) h.1, h.2⟩

theorem setStack_events (f : Part → List Entry) (h : LampEvents b p) : LampEvents b (setPanel (fun x => { x with stack := f p }) p) := by
  obtain ⟨he, hi⟩ := h
  exact ⟨congrArg (fun q : Part => { q with panel := { q.panel with stack := f p } }) he, hi⟩

theorem satisfyServed_events (h : LampEvents b p) : LampEvents b (satisfyServed p) :=
  setChime_events _ (forEach_closed (fun i _ hq => setLamp_events i _ (h := hq)) _ h)

theorem startTone_events (h : LampEvents b p) : LampEvents b (startTone p) := setChime_events _ h

theorem chimeIdle_events (h : LampEvents b p) : LampEvents b (chimeIdle p) :=
  ite_closed (startTone_events (setChime_events _ h)) (setChime_events _ h)

theorem chimeDemand_events (i : Fin 32) (h : LampEvents b p) : LampEvents b (chimeDemand i p) := by
  unfold chimeDemand
  refine ite_closed h ?_
  split
  next => exact chimeIdle_events h
  next => exact ite_closed (startTone_events (satisfyServed_events h)) h
  next => exact ite_closed (startTone_events h) h

theorem chimeWithdraw_events (i : Fin 32) (h : LampEvents b p) : LampEvents b (chimeWithdraw i p) := by
  have hq := setChime_events (fun c => { c with served := c.served.filter (· != i) }) (setLamp_events i (fun l => { l with owed := false }) (h := h))
  unfold chimeWithdraw
  dsimp only
  split
  next => exact ite_closed (setChime_events _ hq) hq
  next => exact hq

theorem setMsg_events (i : Fin 32) (m : MsgState) (h : LampEvents b p) : LampEvents b (setMsg i m p) := updLamp_events i _ (h := h)

theorem syncShown_events (h : LampEvents b p) : LampEvents b (syncShown p) := by
  unfold syncShown
  split
  next => exact h
  next => exact forEach_closed (fun _ _ hq => setMsg_events _ _ hq) _ (setMsg_events _ _ h)

theorem pushEntry_events (i : Fin 32) (h : LampEvents b p) : LampEvents b (pushEntry i p) :=
  setStack_events (fun p => stackInsert { lamp := i, cls := lampClassOf p i, shown := 0 } p.panel.stack) h

theorem admitMessage_events (i : Fin 32) (h : LampEvents b p) : LampEvents b (admitMessage i p) := by
  unfold admitMessage
  refine ite_closed (syncShown_events (pushEntry_events i h)) ?_
  split
  next =>
    exact ite_closed (syncShown_events (pushEntry_events i (setMsg_events _ _ (setStack_events (fun p => p.panel.stack.dropLast) h))))
      (setMsg_events _ _ h)
  next => exact h

theorem leaveStack_events (i : Fin 32) (m : MsgState) (h : LampEvents b p) : LampEvents b (leaveStack i m p) := by
  have hq := setMsg_events i m (setStack_events (fun p => p.panel.stack.filter fun e => e.lamp != i) h)
  unfold leaveStack
  refine syncShown_events ?_
  split
  next => exact pushEntry_events _ hq
  next => exact hq

theorem panelReport_events (i : Fin 32) (before after : LampState) (h : LampEvents b p) : LampEvents b (panelReport i before after p) := by
  cases after with
  | on => exact ite_closed (admitMessage_events i h) h
  | acked => exact ite_closed h (ite_closed (leaveStack_events i _ h) (setMsg_events i _ h))
  | off => exact ite_closed h (ite_closed (leaveStack_events i _ h) (setMsg_events i _ h))
  | latched => exact h
  | pending => exact h

theorem driveLamp_events (i : Fin 32) (h : LampEvents b p) : LampEvents b (driveLamp i p) :=
  ite_closed h (setLamp_events i _ (h := h))

theorem composeLamp_events (i : Fin 32) (h : LampEvents b p) : LampEvents b (composeLamp i p) :=
  driveLamp_events i (updLamp_events i _ (fun _ => by split <;> rfl) h)

theorem lampEntersOn_events (i : Fin 32) (h : LampEvents b p) : LampEvents b (lampEntersOn i p) := by
  unfold lampEntersOn
  refine ite_closed h ?_
  split
  next => exact chimeDemand_events i h
  next => exact chimeDemand_events i (setLamp_events i _ (h := h))
  next => exact h

theorem lampChange_events (i : Fin 32) (after : LampState) (h : LampEvents b p) : LampEvents b (lampChange i after p) := by
  have hq : LampEvents b (composeLamp i (updLamp i (fun l => { l with
      state := after, onDelay := if after = .pending then some (onDelayTime (lampRec p.working i)) else none }) p)) :=
    composeLamp_events i (updLamp_events i _ (h := h))
  have hr := ite_closed (c := after = .on) (lampEntersOn_events i hq)
    (ite_closed (c := p.lamps[i].state = .on) (chimeWithdraw_events i hq) hq)
  exact ite_closed (panelReport_events i _ _ hr) hr

/-- Table 7-4: what follows a new truth of a condition. -/
theorem conditionEvent_events (i : Fin 32) (truth : Bool) (h : LampEvents b p) : LampEvents b (conditionEvent i truth p) := by
  unfold conditionEvent
  dsimp only
  split
  iterate 5 exact lampChange_events i _ h
  exact h

end Sys2Proof.Machine
end

section
namespace Sys2Proof.Machine

variable {p q r : Part}

/-! ### Conditions evaluated (R122 to R128) -/

/-- Between `p` and `q` nothing has changed but the lamps, the chime, the message stack and the memory. -/
def LampsOnly (p q : Part) : Prop :=
  q = { p with exch := q.exch, arb := q.arb, lamps := q.lamps, chime := q.chime, panel := { p.panel with stack := q.panel.stack } }

theorem LampsOnly.refl (p : Part) : LampsOnly p p := rfl

theorem LampsOnly.trans (h : LampsOnly p q) (h' : LampsOnly q r) : LampsOnly p r := by
  refine Eq.trans h' ?_
  rw [h]

theorem LampsOnly.same (h : LampsOnly p q) : q.working = p.working ∧ q.lampU = p.lampU := by
  rw [h]
  exact ⟨rfl, rfl⟩

/-- R123: a hysteresis truth taken again from the same result stays. -/
theorem hysteresis_again (d : LampRec) (x : Result) (held : Bool) : hysteresis d x (hysteresis d x held) = hysteresis d x held := by
  unfold hysteresis
  split
  next => grind
  next => grind
  next => rfl

theorem kindTruth_congr (i : Fin 32) (hyst : Bool) (hw : q.working = p.working)
    (hu : (lampRec p.working i).kind = .drivetime →
      q.lampU.warn.getLsbD (lampRec p.working i).selector = p.lampU.warn.getLsbD (lampRec p.working i).selector)
    (hr : q.lamps[i].requested = p.lamps[i].requested) (hc : q.lamps[i].chanLast = p.lamps[i].chanLast)
    (hd : ∀ j : Fin 32, q.lamps[j].diag = p.lamps[j].diag) : kindTruth q i hyst = kindTruth p i hyst := by
  have hf : anyLampFault q = anyLampFault p := by simp only [anyLampFault, hw, hd]
  simp only [kindTruth, hw, hr, hc, hf]
  split
  case h_7 h => exact hu h
  all_goals rfl

theorem gateOpen_congr (i : Fin 32) (hw : q.working = p.working) (hg : q.lamps[i].gateLast = p.lamps[i].gateLast) :
    gateOpen q i = gateOpen p i := by simp only [gateOpen, hw, hg]

/-- R122: a condition stands on while its lamp's inputs stay, if it is not one of a warning that has changed. -/
theorem conditionStands_warn {i : Fin 32} (hw : q.working = p.working)
    (hu : (lampRec p.working i).kind = .drivetime →
      q.lampU.warn.getLsbD (lampRec p.working i).selector = p.lampU.warn.getLsbD (lampRec p.working i).selector)
    (hi : q.lamps[i].inputs = p.lamps[i].inputs) (hd : ∀ j : Fin 32, q.lamps[j].diag = p.lamps[j].diag) (h : conditionStands p i) :
    conditionStands q i := by
  obtain ⟨h1, h2⟩ := h
  obtain ⟨e1, e2, e3, e4, e5, -⟩ := LampInputs.mk.inj hi
  refine ⟨?_, ?_⟩
  · rw [hw, e2, e4]
    exact h1
  · rw [kindTruth_congr i _ hw hu e3 e4 hd, gateOpen_congr i hw e5, e1, e2]
    exact h2

/-- R122: a condition stands on while its inputs, the warnings and the diagnoses stay. -/
theorem conditionStands_congr {i : Fin 32} (hw : q.working = p.working) (hu : q.lampU.warn = p.lampU.warn)
    (hi : q.lamps[i].inputs = p.lamps[i].inputs) (hd : ∀ j : Fin 32, q.lamps[j].diag = p.lamps[j].diag) (h : conditionStands p i) :
    conditionStands q i := conditionStands_warn hw (fun _ => by rw [hu]) hi hd h

/-- A lamp with its last results, of its channel and of its gate channel, replaced. -/
def Lamp.store (u v : Result → Result) (l : Lamp) : Lamp := { l with chanLast := u l.chanLast, gateLast := v l.gateLast }

/-- The lamps `A` have stored results by `u` and `v`, and have been evaluated. -/
structure Evaluated (A : Fin 32 → Prop) (u v : Fin 32 → Result → Result) (p q : Part) : Prop where
  frame : LampsOnly p q
  aside : ∀ i : Fin 32, ¬ A i → q.lamps[i].inputs = p.lamps[i].inputs
  stored : ∀ i : Fin 32, A i → q.lamps[i].inputs =
    { (p.lamps[i].store (u i) (v i)).inputs with cond := q.lamps[i].cond, hyst := q.lamps[i].hyst }
  idle : ∀ i : Fin 32, lampUsed p.working i = false ∨ conditionFrozen p i = true → q.lamps[i].cond = p.lamps[i].cond
  stands : ∀ i : Fin 32, A i → lampUsed p.working i = true → conditionFrozen p i = false → conditionStands q i

section
variable {A B : Fin 32 → Prop} {u v : Fin 32 → Result → Result}

theorem Evaluated.refl (u v : Fin 32 → Result → Result) (p : Part) : Evaluated (fun _ => False) u v p p where
  frame := .refl p
  aside _ _ := rfl
  stored _ h := h.elim
  idle _ _ := rfl
  stands _ h := h.elim

theorem Evaluated.diag (h : Evaluated A u v p q) (i : Fin 32) : q.lamps[i].diag = p.lamps[i].diag := by
  by_cases hA : A i
  · exact congrArg LampInputs.diag (h.stored i hA)
  · exact congrArg LampInputs.diag (h.aside i hA)

theorem Evaluated.congr (h : Evaluated A u v p q) (hAB : ∀ i, A i ↔ B i) : Evaluated B u v p q := by
  obtain rfl : A = B := funext fun i => propext (hAB i)
  exact h

/-- Lamps told and evaluated one after another, none twice. -/
theorem Evaluated.trans (h : Evaluated A u v p q) (h' : Evaluated B u v q r) (hd : ∀ i, A i → ¬ B i) :
    Evaluated (fun i => A i ∨ B i) u v p r := by
  obtain ⟨hw, hu⟩ := h.frame.same
  obtain ⟨hw', hu'⟩ := h'.frame.same
  have frozen (i : Fin 32) : conditionFrozen q i = conditionFrozen p i := by simp only [conditionFrozen, hw, hu]
  refine ⟨h.frame.trans h'.frame, fun i hi => ?_, fun i hi => ?_, fun i hi => ?_, fun i hi hl hf => ?_⟩
  · rw [h'.aside i fun hb => hi (.inr hb), h.aside i fun ha => hi (.inl ha)]
  · by_cases hb : B i
    · have e := h'.stored i hb
      obtain ⟨-, -, e3, e4, e5, e6⟩ := LampInputs.mk.inj (h.aside i fun ha => hd i ha hb)
      simp only [Lamp.store, Lamp.inputs, e3, e4, e5, e6] at e ⊢
      exact e
    · have ha : A i := hi.resolve_right hb
      have e := h.stored i ha
      have e' := h'.aside i hb
      obtain ⟨e1, e2, -⟩ := LampInputs.mk.inj e'
      rw [e', e, e1, e2]
  · exact (h'.idle i (by rw [hw, frozen]; exact hi)).trans (h.idle i hi)
  · by_cases hb : B i
    · exact h'.stands i hb (by rw [hw]; exact hl) ((frozen i).trans hf)
    · exact conditionStands_congr hw' (congrArg LampUnit.warn hu') (h'.aside i hb) h'.diag (h.stands i (hi.resolve_right hb) hl hf)

/-- What lamp events follow leaves the evaluation as it was. -/
theorem Evaluated.events (h : Evaluated A u v p q) (he : LampEvents q r) : Evaluated A u v p r := by
  obtain ⟨hf, hi⟩ := he
  have hq : LampsOnly q r := hf
  have hcond (i : Fin 32) : r.lamps[i].cond = q.lamps[i].cond := congrArg LampInputs.cond (hi i)
  obtain ⟨hw, hu⟩ := hq.same
  refine ⟨h.frame.trans hq, fun i ha => (hi i).trans (h.aside i ha), fun i ha => ?_, fun i ha => (hcond i).trans (h.idle i ha),
    fun i ha hl hc => conditionStands_congr hw (congrArg LampUnit.warn hu) (hi i) (fun j => congrArg LampInputs.diag (hi j))
      (h.stands i ha hl hc)⟩
  obtain ⟨e1, e2, -⟩ := LampInputs.mk.inj (hi i)
  rw [hi i, h.stored i ha, e1, e2]

end

theorem setLamp_self (i : Fin 32) (f : Lamp → Lamp) (p : Part) : (setLamp i f p).lamps[i] = f p.lamps[i] := by
  rw [setLamp_lamps, updAt_self]

theorem setLamp_other {i j : Fin 32} (f : Lamp → Lamp) (p : Part) (h : ¬ j = i) : (setLamp i f p).lamps[j] = p.lamps[j] := by
  rw [setLamp_lamps, updAt_other i j _ _ (Ne.symm h)]

/-- A lamp's condition and its hysteresis truth as its inputs give them (R122). -/
def judgedLamp (p : Part) (i : Fin 32) (l : Lamp) : Lamp :=
  let h := hysteresis (lampRec p.working i) p.lamps[i].chanLast p.lamps[i].hyst
  { l with hyst := h, cond := kindTruth p i h && gateOpen p i }

theorem judgedLamp_stands (p : Part) (i : Fin 32) : conditionStands (setLamp i (judgedLamp p i) p) i := by
  have hd (j : Fin 32) : (setLamp i (judgedLamp p i) p).lamps[j].diag = p.lamps[j].diag := by
    by_cases e : j = i
    · subst e
      rw [setLamp_self]
      rfl
    · rw [setLamp_other _ _ e]
  have hl := setLamp_self i (judgedLamp p i) p
  refine ⟨?_, ?_⟩
  · rw [hl]
    exact (hysteresis_again _ _ _).symm
  · rw [kindTruth_congr (q := setLamp i (judgedLamp p i) p) (p := p) i _ rfl (fun _ => rfl) (by rw [hl]; rfl) (by rw [hl]; rfl) hd,
      gateOpen_congr (q := setLamp i (judgedLamp p i) p) (p := p) i rfl (by rw [hl]; rfl), hl]
    rfl

theorem setLamp_congr {i : Fin 32} {f g : Lamp → Lamp} (h : f p.lamps[i] = g p.lamps[i]) : setLamp i f p = setLamp i g p := by
  simp only [setLamp, updAt, h]

theorem setLamp_setLamp (i : Fin 32) (f g : Lamp → Lamp) (p : Part) : setLamp i g (setLamp i f p) = setLamp i (fun l => g (f l)) p := by
  simp [setLamp, updAt]

/-- R122: an evaluation leaves the condition as judged; what follows is a lamp's event. -/
theorem evalLamp_events {i : Fin 32} (hu : lampUsed p.working i = true) (hf : conditionFrozen p i = false) :
    LampEvents (setLamp i (judgedLamp p i) p) (evalLamp i p) := by
  have he : evalLamp i p =
      if (judgedLamp p i p.lamps[i]).cond = p.lamps[i].cond then setLamp i (fun l => { l with hyst := (judgedLamp p i p.lamps[i]).hyst }) p
      else conditionEvent i (judgedLamp p i p.lamps[i]).cond
        (updLamp i (fun l => { l with cond := (judgedLamp p i p.lamps[i]).cond })
          (setLamp i (fun l => { l with hyst := (judgedLamp p i p.lamps[i]).hyst }) p)) :=
    if_neg (by rw [hu, hf]; decide)
  rw [he]
  split
  next h =>
    have e : setLamp i (fun l => { l with hyst := (judgedLamp p i p.lamps[i]).hyst }) p = setLamp i (judgedLamp p i) p :=
      setLamp_congr (congrArg (fun c => { judgedLamp p i p.lamps[i] with cond := c }) h.symm)
    rw [e]
    exact .refl _
  next =>
    refine conditionEvent_events i _ (onlyIf_closed (fun _ hq => rewriteLamp_events i hq) _ ?_)
    rw [setLamp_setLamp]
    exact .refl _

theorem evalLamp_of_idle {i : Fin 32} (h : lampUsed p.working i = false ∨ conditionFrozen p i = true) : evalLamp i p = p :=
  if_pos (by simpa using h)

/-- R122: one lamp stores its last results and is evaluated. -/
theorem evalLamp_stored (i : Fin 32) (u v : Fin 32 → Result → Result) (p : Part) :
    Evaluated (· = i) u v p (evalLamp i (setLamp i (Lamp.store (u i) (v i)) p)) := by
  generalize hq : setLamp i (Lamp.store (u i) (v i)) p = q
  have hqi : q.lamps[i] = p.lamps[i].store (u i) (v i) := by rw [← hq, setLamp_self]
  have hqj (j : Fin 32) (h : ¬ j = i) : q.lamps[j] = p.lamps[j] := by rw [← hq, setLamp_other _ _ h]
  have hqf : LampsOnly p q := by
    rw [← hq]
    rfl
  obtain ⟨hw, hu⟩ := hqf.same
  have hc : conditionFrozen q i = conditionFrozen p i := by simp only [conditionFrozen, hw, hu]
  by_cases hi : lampUsed p.working i = true ∧ conditionFrozen p i = false
  · obtain ⟨h1, h2⟩ := hi
    refine Evaluated.events ?_ (evalLamp_events (by rw [hw]; exact h1) (hc.trans h2))
    have hl := setLamp_self i (judgedLamp q i) q
    have ho (j : Fin 32) (h : ¬ j = i) := setLamp_other (judgedLamp q i) q h
    refine ⟨hqf.trans rfl, fun j hj => by rw [ho j hj, hqj j hj], fun j hj => ?_, fun j hj => ?_, fun j hj _ _ => ?_⟩
    · subst hj
      rw [hl, hqi]
      rfl
    · by_cases e : j = i
      · subst e
        simp [h1, h2] at hj
      · rw [ho j e, hqj j e]
    · subst hj
      exact judgedLamp_stands q j
  · rw [evalLamp_of_idle (by rw [hw, hc]; simpa [or_iff_not_imp_left] using hi)]
    refine ⟨hqf, fun j hj => by rw [hqj j hj], fun j hj => ?_, fun j _ => ?_, fun j hj hl hf => ?_⟩
    · subst hj
      rw [hqi]
      rfl
    · by_cases e : j = i
      · subst e
        rw [hqi]
        rfl
      · rw [hqj j e]
    · subst hj
      exact absurd ⟨hl, hf⟩ hi

/-! ### Lamps told of a result (R97) -/

/-- Lamps evaluated one after another. -/
theorem forEach_evaluated {A : Fin 32 → Bool} {u v : Fin 32 → Result → Result} {f : Fin 32 → Part → Part} {w : Mem}
    (hf : ∀ i p, p.working = w → f i p = if A i then evalLamp i (setLamp i (Lamp.store (u i) (v i)) p) else p)
    (is : List (Fin 32)) (hn : is.Nodup) :
    ∀ p, p.working = w → Evaluated (fun i => i ∈ is ∧ A i = true) u v p (forEach is f p) := by
  induction is with
  | nil => exact fun p _ => (Evaluated.refl u v p).congr (by simp)
  | cons i is ih =>
    intro p hp
    obtain ⟨hi, hn⟩ := List.nodup_cons.1 hn
    have step : Evaluated (fun j => j = i ∧ A j = true) u v p (f i p) := by
      rw [hf i p hp]
      split
      next h => exact (evalLamp_stored i u v p).congr fun j => ⟨fun e => ⟨e, e ▸ h⟩, And.left⟩
      next h => exact (Evaluated.refl u v p).congr fun j => ⟨False.elim, fun ⟨e, ha⟩ => h (e ▸ ha)⟩
    have hq : (f i p).working = w := step.frame.same.1.trans hp
    exact (step.trans (ih hn (f i p) hq) fun j ⟨e, _⟩ ⟨hj, _⟩ => hi (e ▸ hj)).congr fun j => by
      simp only [List.mem_cons]
      tauto

theorem lampStore_id (i : Fin 32) (p : Part) : setLamp i (Lamp.store id id) p = p := by
  have h : updAt i (Lamp.store id id) p.lamps = p.lamps := Vector.set_getElem_self _
  rw [setLamp, h]

/-- Lamps evaluated one after another, as they stand. -/
theorem forEach_evalLamp (is : List (Fin 32)) (hn : is.Nodup) (p : Part) :
    Evaluated (· ∈ is) (fun _ => id) (fun _ => id) p (forEach is evalLamp p) :=
  (forEach_evaluated (A := fun _ => true) (fun i p _ => by rw [lampStore_id]; rfl) is hn p rfl).congr (by simp)

/-- The lamp names the channel as its own, or as its gate's (R97). -/
def ownsChan (w : Mem) (c i : Fin 32) : Bool := (lampRec w i).kind.usesChannel && (lampRec w i).chan == c.val
def gatesChan (w : Mem) (c i : Fin 32) : Bool := (lampRec w i).gate == some c.val

/-- A result takes the place of another where it is told. -/
def told (b : Bool) (x y : Result) : Result := if b then x else y

/-- The lamp hears of the channel. -/
def hearsChan (w : Mem) (c i : Fin 32) : Bool := (lampRec w i).kind != .none && (ownsChan w c i || gatesChan w c i)

theorem notifyLamp_eq (c : Fin 32) (x : Result) (i : Fin 32) (p : Part) : notifyLamp c x i p =
    if hearsChan p.working c i then
      evalLamp i (setLamp i (Lamp.store (told (ownsChan p.working c i) x) (told (gatesChan p.working c i) x)) p)
    else p := rfl

theorem notifyLamps_evaluated (c : Fin 32) (x : Result) (p : Part) :
    Evaluated (fun i => hearsChan p.working c i = true) (fun i => told (ownsChan p.working c i) x)
      (fun i => told (gatesChan p.working c i) x) p (forEach allLamps (notifyLamp c x) p) :=
  (forEach_evaluated (fun i q hq => by rw [notifyLamp_eq, hq]) allLamps (List.nodup_finRange 32) p rfl).congr fun i => by
    simp [allLamps]

end Sys2Proof.Machine
end

section
namespace Sys2Proof.Machine

variable {p q r : Part}

/-! ### What the lamps hear (R97, R122) -/

/-- Between `p` and `q` the lamps `own` and `gate` have stored the result `x` as their channel's and as their gate's, and have been
evaluated; a DRIVETIME lamp may have been evaluated besides. -/
structure LampsHeard (own gate : Fin 32 → Bool) (x : Result) (p q : Part) : Prop where
  chanLast : ∀ i : Fin 32, q.lamps[i].chanLast = told (own i) x p.lamps[i].chanLast
  gateLast : ∀ i : Fin 32, q.lamps[i].gateLast = told (gate i) x p.lamps[i].gateLast
  idle : ∀ i : Fin 32, lampUsed p.working i = false ∨ conditionFrozen p i = true → q.lamps[i].cond = p.lamps[i].cond
  stands : ∀ i : Fin 32, lampUsed p.working i = true → conditionFrozen p i = false →
    own i = true ∨ gate i = true ∨ conditionStands p i → conditionStands q i
  aside : ∀ i : Fin 32, own i = false → gate i = false →
    q.lamps[i].cond = p.lamps[i].cond ∨ ((lampRec p.working i).kind = .drivetime ∧ conditionStands q i)

/-- No lamp has been told of a result; DRIVETIME lamps may have been evaluated. -/
def LampsSettled (p q : Part) : Prop := ∀ x, LampsHeard (fun _ => false) (fun _ => false) x p q

/-- What conditions are judged by, besides the lamps themselves. -/
def SameRules (p q : Part) : Prop := q.working = p.working ∧ q.lampU.frozen = p.lampU.frozen

theorem conditionFrozen_same (h : SameRules p q) (i : Fin 32) : conditionFrozen q i = conditionFrozen p i := by
  obtain ⟨hw, hf⟩ := h
  simp only [conditionFrozen, hw, hf]

theorem lampUsed_of_drivetime {w : Mem} {i : Fin 32} (h : (lampRec w i).kind = .drivetime) : lampUsed w i = true := by
  have hk : lampKind (readByte w (lampAddr i)) = .drivetime := h
  simp [lampUsed, hk]

theorem LampsHeard.settled {own gate : Fin 32 → Bool} {x : Result} (h : LampsHeard own gate x p q) (hs : SameRules p q)
    (h' : LampsSettled q r) : LampsHeard own gate x p r := by
  have h' := h' x
  have hw := hs.1
  have hf := conditionFrozen_same hs
  refine ⟨fun i => (h'.chanLast i).trans (h.chanLast i), fun i => (h'.gateLast i).trans (h.gateLast i),
    fun i hi => (h'.idle i (by rw [hw, hf]; exact hi)).trans (h.idle i hi),
    fun i hu hc ho => h'.stands i (by rw [hw]; exact hu) ((hf i).trans hc) (.inr (.inr (h.stands i hu hc ho))), fun i ho hg => ?_⟩
  rcases h'.aside i rfl rfl with hq | ⟨hk, hq⟩
  · rcases h.aside i ho hg with hp | ⟨hk, hp⟩
    · exact .inl (hq.trans hp)
    · by_cases hc : conditionFrozen p i = true
      · exact .inl (hq.trans (h.idle i (.inr hc)))
      · have hu := lampUsed_of_drivetime hk
        exact .inr ⟨hk, h'.stands i (by rw [hw]; exact hu) ((hf i).trans (by simpa using hc)) (.inr (.inr hp))⟩
  · exact .inr ⟨by rw [← hw]; exact hk, hq⟩

theorem LampsSettled.of_same (hs : q.lamps = p.lamps) (hw : q.working = p.working) (hu : q.lampU.warn = p.lampU.warn) :
    LampsSettled p q := fun x => by
  refine ⟨fun i => by rw [hs]; rfl, fun i => by rw [hs]; rfl, fun i _ => by rw [hs], fun i _ _ h => ?_, fun i _ _ => .inl (by rw [hs])⟩
  exact conditionStands_congr hw hu (by rw [hs]) (fun j => by rw [hs]) ((h.resolve_left (by simp)).resolve_left (by simp))

theorem LampEvents.settled (h : LampEvents p q) : LampsSettled p q := fun x => by
  obtain ⟨hf, hi⟩ := h
  obtain ⟨hw, hu⟩ := LampsOnly.same (p := p) (q := q) hf
  have hc (i : Fin 32) : q.lamps[i].cond = p.lamps[i].cond := congrArg LampInputs.cond (hi i)
  refine ⟨fun i => congrArg LampInputs.chanLast (hi i), fun i => congrArg LampInputs.gateLast (hi i), fun i _ => hc i,
    fun i _ _ h => ?_, fun i _ _ => .inl (hc i)⟩
  exact conditionStands_congr hw (congrArg LampUnit.warn hu) (hi i) (fun j => congrArg LampInputs.diag (hi j))
    ((h.resolve_left (by simp)).resolve_left (by simp))

/-- A set of warnings in which SPEED_LOST has begun or ended. -/
def putBit (b : Bool) (w : BitVec 6) : BitVec 6 := if b then w ||| (1#6 <<< 5) else w &&& ~~~(1#6 <<< 5)

theorem putBit_self (b : Bool) (w : BitVec 6) : (putBit b w).getLsbD 5 = b := by
  unfold putBit
  split
  next h => simp [h]
  next h => simp [h]

theorem putBit_other (b : Bool) (w : BitVec 6) {k : Nat} (hk : k ≠ 5) : (putBit b w).getLsbD k = w.getLsbD k := by
  have h5 : (1#6 <<< 5).getLsbD k = false := (BitVec.getLsbD_twoPow 5 k).trans (by simp [Ne.symm hk])
  unfold putBit
  split
  next => rw [BitVec.getLsbD_or, h5, Bool.or_false]
  next =>
    by_cases h6 : k < 6
    · rw [BitVec.getLsbD_and, BitVec.getLsbD_not, h5, decide_eq_true h6, Bool.not_false, Bool.and_self, Bool.and_true]
    · rw [BitVec.getLsbD_of_ge _ _ (by omega), BitVec.getLsbD_of_ge _ _ (by omega)]

/-- R162: the Lamp Unit is told of SPEED_LOST. -/
theorem tellWarning_settled (b : Bool) (p : Part) : LampsSettled p (tellWarning 5 b p) ∧
    tellWarning 5 b p = { p with
      exch := (tellWarning 5 b p).exch, arb := (tellWarning 5 b p).arb, lamps := (tellWarning 5 b p).lamps
      chime := (tellWarning 5 b p).chime, lampU := { p.lampU with warn := (tellWarning 5 b p).lampU.warn }
      panel := { p.panel with stack := (tellWarning 5 b p).panel.stack } } := by
  have he : tellWarning 5 b p = forEach
      (allLamps.filter fun (i : Fin 32) => (lampRec p.working i).kind == .drivetime && (lampRec p.working i).selector == 5) evalLamp
      { p with lampU := { p.lampU with warn := if b then p.lampU.warn ||| (1#6 <<< 5) else p.lampU.warn &&& ~~~(1#6 <<< 5) } } := rfl
  have hbit (k : Nat) (hk : k ≠ 5) := putBit_other b p.lampU.warn hk
  unfold putBit at hbit
  rw [he]
  generalize (if b then p.lampU.warn ||| (1#6 <<< 5) else p.lampU.warn &&& ~~~(1#6 <<< 5)) = bits at hbit
  have hn : (allLamps.filter fun (i : Fin 32) =>
      (lampRec p.working i).kind == .drivetime && (lampRec p.working i).selector == 5).Nodup := (List.nodup_finRange 32).filter _
  have h := forEach_evalLamp _ hn { p with lampU := { p.lampU with warn := bits } }
  generalize hq : forEach _ evalLamp _ = q at h
  have hA (i : Fin 32) : i ∈ (allLamps.filter fun (i : Fin 32) =>
      (lampRec p.working i).kind == .drivetime && (lampRec p.working i).selector == 5) ↔
      (lampRec p.working i).kind = .drivetime ∧ (lampRec p.working i).selector = 5 := by
    simp [allLamps]
  generalize (allLamps.filter fun (i : Fin 32) =>
      (lampRec p.working i).kind == .drivetime && (lampRec p.working i).selector == 5) = is at h hA
  have hf := h.frame
  obtain ⟨hw, hu⟩ := hf.same
  refine ⟨fun x => ?_, ?_⟩
  · have inputs (i : Fin 32) : q.lamps[i].chanLast = p.lamps[i].chanLast ∧ q.lamps[i].gateLast = p.lamps[i].gateLast := by
      by_cases hi : i ∈ is
      · exact ⟨congrArg LampInputs.chanLast (h.stored i hi), congrArg LampInputs.gateLast (h.stored i hi)⟩
      · exact ⟨congrArg LampInputs.chanLast (h.aside i hi), congrArg LampInputs.gateLast (h.aside i hi)⟩
    refine ⟨fun i => (inputs i).1, fun i => (inputs i).2, fun i hi => h.idle i hi, fun i hl hc ho => ?_, fun i _ _ => ?_⟩
    · by_cases hi : i ∈ is
      · exact h.stands i hi hl hc
      · refine conditionStands_warn (p := p) hw (fun hk => ?_) (h.aside i hi) h.diag
          ((ho.resolve_left (by simp)).resolve_left (by simp))
        rw [hu]
        exact hbit _ fun e => hi ((hA i).2 ⟨hk, e⟩)
    · by_cases hi : i ∈ is
      · by_cases hc : conditionFrozen p i = true
        · exact .inl (h.idle i (.inr hc))
        · have hk := ((hA i).1 hi).1
          exact .inr ⟨hk, h.stands i hi (lampUsed_of_drivetime hk) (Bool.eq_false_iff.2 hc)⟩
      · exact .inl (congrArg LampInputs.cond (h.aside i hi))
  · rw [hu]
    exact hf

/-- R97: the lamps are told of a channel's result. -/
theorem notifyLamps_heard (c : Fin 32) (x : Result) (p : Part) :
    LampsHeard (ownsChan p.working c) (fun i => lampUsed p.working i && gatesChan p.working c i) x p (forEach allLamps (notifyLamp c x) p) ∧
      LampsOnly p (forEach allLamps (notifyLamp c x) p) := by
  have h := notifyLamps_evaluated c x p
  generalize forEach allLamps (notifyLamp c x) p = q at h ⊢
  have used (i : Fin 32) : lampUsed p.working i = ((lampRec p.working i).kind != .none) := rfl
  have own (i : Fin 32) (ho : ownsChan p.working c i = true) : lampUsed p.working i = true := by
    rw [used]
    simp only [ownsChan, Bool.and_eq_true] at ho
    generalize (lampRec p.working i).kind = k at ho ⊢
    cases k <;> simp [LampKind.usesChannel] at ho ⊢
  have hears (i : Fin 32) : hearsChan p.working c i = true ↔
      ownsChan p.working c i = true ∨ (lampUsed p.working i && gatesChan p.working c i) = true := by
    have := own i
    simp only [hearsChan, ← used, Bool.and_eq_true, Bool.or_eq_true]
    tauto
  refine ⟨⟨fun i => ?_, fun i => ?_, h.idle, fun i hu hf ho => ?_, fun i ho hg => ?_⟩, h.frame⟩
  · by_cases hi : hearsChan p.working c i = true
    · exact congrArg LampInputs.chanLast (h.stored i hi)
    · have ho : ownsChan p.working c i = false := by simpa using fun e => hi ((hears i).2 (.inl e))
      rw [ho]
      exact congrArg LampInputs.chanLast (h.aside i hi)
  · by_cases hi : hearsChan p.working c i = true
    · have hu : lampUsed p.working i = true := ((hears i).1 hi).elim (own i) fun e => (Bool.and_eq_true_iff.1 e).1
      rw [hu, Bool.true_and]
      exact congrArg LampInputs.gateLast (h.stored i hi)
    · have hg : (lampUsed p.working i && gatesChan p.working c i) = false := by
        rw [Bool.eq_false_iff]
        exact fun e => hi ((hears i).2 (.inr e))
      rw [hg]
      exact congrArg LampInputs.gateLast (h.aside i hi)
  · by_cases hi : hearsChan p.working c i = true
    · exact h.stands i hi hu hf
    · have hs : conditionStands p i := by
        rcases ho with ho | ho | ho
        · exact absurd ((hears i).2 (.inl ho)) hi
        · exact absurd ((hears i).2 (.inr ho)) hi
        · exact ho
      obtain ⟨hw, hu⟩ := h.frame.same
      exact conditionStands_congr hw (congrArg LampUnit.warn hu) (h.aside i hi) h.diag hs
  · refine .inl (congrArg LampInputs.cond (h.aside i fun hi => ?_))
    rcases (hears i).1 hi with e | e
    · simp [ho] at e
    · exact absurd e (by rw [hg]; decide)

end Sys2Proof.Machine
end

section
namespace Sys2Proof.Machine

variable {b p q r : Part}

/-! ### What the pointers, the dimming level and the motion detector hear (R97) -/

/-- Between `p` and `q` nothing has changed but the memory and the record accesses that wait. -/
def MemoryOnly (p q : Part) : Prop := q = { p with exch := q.exch, arb := q.arb }

theorem MemoryOnly.refl (p : Part) : MemoryOnly p p := rfl

theorem MemoryOnly.trans (h : MemoryOnly p q) (h' : MemoryOnly q r) : MemoryOnly p r := by
  refine Eq.trans h' ?_
  rw [h]

theorem memoryOnly_closed (p : Part) : MemClosed (MemoryOnly p) where
  store _ _ _ _ h := h.trans rfl
  notice _ _ h := h.trans rfl
  check _ _ _ _ _ h := h.trans rfl

/-- A pointer told of its channel's result (R104). -/
def Ptr.told (r : PtrRec) (x : Result) (y : Ptr) : Ptr :=
  { y with last := x, target := if y.state = .follow then followTarget r { y with last := x } else y.target }

/-- The pointer is used and names the channel. -/
def ptrHears (w : Mem) (c : Fin 32) (i : Fin 6) : Bool := ptrUsed w i && (ptrRec w i).chan == c.val

theorem notifyPtr_eq (c : Fin 32) (x : Result) (i : Fin 6) (p : Part) :
    notifyPtr c x i p = if ptrHears p.working c i then updPtr i (Ptr.told (ptrRec p.working i) x) p else p := by
  have h : (fun y : Ptr => let z := { y with last := x }
      if y.state = .follow then { z with target := followTarget (ptrRec p.working i) z } else z) = Ptr.told (ptrRec p.working i) x := by
    funext y
    simp only [Ptr.told]
    split <;> rfl
  rw [← h]
  rfl

/-- Between `p` and `q` nothing has changed but the pointers and the memory. -/
def PtrsTold (p q : Part) : Prop := q = { p with exch := q.exch, arb := q.arb, ptrs := q.ptrs }

theorem PtrsTold.trans (h : PtrsTold p q) (h' : PtrsTold q r) : PtrsTold p r := by
  refine Eq.trans h' ?_
  rw [h]

theorem updPtr_frame (i : Fin 6) (f : Ptr → Ptr) (p : Part) : PtrsTold p (updPtr i f p) :=
  onlyIf_closed (P := PtrsTold p) (fun q h => h.trans (r := rewritePtr i q) rfl) _ rfl

/-- R97, R104: the pointers are told of a channel's result. -/
theorem notifyPtrs_told (c : Fin 32) (x : Result) (p : Part) : PtrsTold p (forEach allPtrs (notifyPtr c x) p) ∧
    ∀ i : Fin 6, (forEach allPtrs (notifyPtr c x) p).ptrs[i] =
      if ptrHears p.working c i then Ptr.told (ptrRec p.working i) x p.ptrs[i] else p.ptrs[i] := by
  have step (is : List (Fin 6)) : ∀ q : Part, q.working = p.working → PtrsTold q (forEach is (notifyPtr c x) q) ∧
      (forEach is (notifyPtr c x) q).ptrs = is.foldl (fun v i => updAt i (fun y =>
        if ptrHears p.working c i then Ptr.told (ptrRec p.working i) x y else y) v) q.ptrs := by
    induction is with
    | nil => exact fun q _ => ⟨rfl, rfl⟩
    | cons i is ih =>
      intro q hq
      have h1 : PtrsTold q (notifyPtr c x i q) ∧ (notifyPtr c x i q).ptrs = updAt i (fun y =>
          if ptrHears p.working c i then Ptr.told (ptrRec p.working i) x y else y) q.ptrs := by
        rw [notifyPtr_eq, hq]
        split
        next => exact ⟨updPtr_frame i _ q, updPtr_ptrs i _ q⟩
        next => exact ⟨rfl, (Vector.set_getElem_self _).symm⟩
      obtain ⟨hf, hv⟩ := h1
      have hw : (notifyPtr c x i q).working = q.working := by rw [hf]
      obtain ⟨hf', hv'⟩ := ih _ (hw.trans hq)
      exact ⟨hf.trans hf', hv'.trans (by rw [hv, List.foldl_cons])⟩
  obtain ⟨hf, hv⟩ := step allPtrs p rfl
  refine ⟨hf, fun i => ?_⟩
  rw [hv, allPtrs, foldl_updAt_all]
  simp

/-- R97, R135: the dimming level hears of its channel. -/
theorem notifyDimming_settled (c : Fin 32) (x : Result) (p : Part) :
    LampsSettled p (notifyDimming c x p) ∧
      (notifyDimming c x p).lampU.dim = (if dimmingChannel p.working = some c then x else p.lampU.dim) ∧
      notifyDimming c x p = { p with
        exch := (notifyDimming c x p).exch, arb := (notifyDimming c x p).arb, lamps := (notifyDimming c x p).lamps
        chime := (notifyDimming c x p).chime, lampU := { p.lampU with dim := (notifyDimming c x p).lampU.dim }
        panel := { p.panel with stack := (notifyDimming c x p).panel.stack } } := by
  unfold notifyDimming
  split
  next =>
    have h : LampEvents { p with lampU := { p.lampU with dim := x } } (forEach allLamps driveLamp { p with lampU := { p.lampU with dim := x } }) :=
      forEach_closed (P := LampEvents _) (fun i _ hq => driveLamp_events i hq) allLamps (.refl _)
    generalize forEach allLamps driveLamp { p with lampU := { p.lampU with dim := x } } = q at h
    obtain ⟨-, hu⟩ := LampsOnly.same (q := q) h.1
    have h0 : LampsSettled p { p with lampU := { p.lampU with dim := x } } := .of_same rfl rfl rfl
    refine ⟨fun y => (h0 y).settled ⟨rfl, rfl⟩ h.settled, congrArg LampUnit.dim hu, ?_⟩
    rw [congrArg LampUnit.dim hu]
    exact h.1
  next => exact ⟨.of_same rfl rfl rfl, rfl, rfl⟩

/-- Between `p` and `q` SPEED_LOST may have begun or ended, and nothing else has changed but what follows that. -/
def WarningOnly (p q : Part) : Prop :=
  q = { p with
    exch := q.exch, arb := q.arb, lamps := q.lamps, chime := q.chime, jour := q.jour
    lampU := { p.lampU with warn := q.lampU.warn }, acct := { p.acct with warnings := q.acct.warnings }
    panel := { p.panel with stack := q.panel.stack } }

theorem WarningOnly.trans (h : WarningOnly p q) (h' : WarningOnly q r) : WarningOnly p r := by
  refine Eq.trans h' ?_
  rw [h]

theorem MemoryOnly.settled (h : MemoryOnly p q) : LampsSettled p q := by
  rw [h]
  exact .of_same rfl rfl rfl

theorem submit_frame (e : Submission) (p : Part) : submit e p = { p with exch := (submit e p).exch, arb := (submit e p).arb, jour := (submit e p).jour } := by
  have hc : JournalClosed fun q : Part => q = { p with exch := q.exch, arb := q.arb, jour := q.jour } := {
    store := fun q a bs _ h => congrArg (fun r : Part => r.store a bs) h
    notice := fun q n h => congrArg (setNotice n) h
    check := fun q area slot bytes _ h => congrArg (logCheckFailure area slot bytes) h
    jour := fun q x h => congrArg (fun r : Part => { r with jour := x }) h }
  exact submit_closed hc e rfl

theorem submit_settled (e : Submission) (p : Part) : LampsSettled p (submit e p) := by
  rw [submit_frame]
  exact .of_same rfl rfl rfl

/-- R151, R162, R165: SPEED_LOST is put to begin or to end. -/
theorem putSpeedLost_effect (b : Bool) (p : Part) : WarningOnly p (putSpeedLost b p) ∧ LampsSettled p (putSpeedLost b p) ∧
    (putSpeedLost b p).acct.warnings.getLsbD 5 = b := by
  have hr := rewriteAccounting_closed (memoryOnly_closed (putWarning 5 b p)) p.acct false false (.refl _)
  have hp : putSpeedLost b p = rewriteAccounting p.acct false false (putWarning 5 b p) := rfl
  rw [← hp] at hr
  have hw : WarningOnly p (putWarning 5 b p) ∧ LampsSettled p (putWarning 5 b p) ∧ (putWarning 5 b p).acct.warnings.getLsbD 5 = b := by
    unfold putWarning
    split
    next h => exact ⟨rfl, .of_same rfl rfl rfl, h⟩
    next =>
      let a : Part := { p with acct := { p.acct with warnings := putBit b p.acct.warnings } }
      have he : changeWarning 5 b p = submit (.speedLost (!b)) (onlyIf p.ctl.restart.isNone (tellWarning 5 b) a) := rfl
      obtain ⟨hs, hf⟩ := tellWarning_settled b a
      have ha : WarningOnly p (onlyIf p.ctl.restart.isNone (tellWarning 5 b) a) ∧
          LampsSettled p (onlyIf p.ctl.restart.isNone (tellWarning 5 b) a) ∧
          (onlyIf p.ctl.restart.isNone (tellWarning 5 b) a).acct.warnings = putBit b p.acct.warnings := by
        have h0 : LampsSettled p a := .of_same rfl rfl rfl
        unfold onlyIf
        split
        next =>
          refine ⟨WarningOnly.trans (q := a) rfl ?_, fun x => (h0 x).settled ⟨rfl, rfl⟩ hs, ?_⟩
          · generalize tellWarning 5 b a = t at hf ⊢
            rw [hf]
            rfl
          · rw [hf]
        next => exact ⟨rfl, h0, rfl⟩
      rw [he]
      generalize onlyIf p.ctl.restart.isNone (tellWarning 5 b) a = t at ha ⊢
      obtain ⟨h1, h2, h3⟩ := ha
      have hj := submit_frame (.speedLost (!b)) t
      have hl := submit_settled (.speedLost (!b)) t
      generalize submit (.speedLost (!b)) t = u at hj hl ⊢
      refine ⟨h1.trans (by rw [hj]; rfl), fun x => (h2 x).settled ?_ hl, ?_⟩
      · rw [h1]
        exact ⟨rfl, rfl⟩
      · rw [hj]
        exact (congrArg (·.getLsbD 5) h3).trans (putBit_self b _)
  obtain ⟨h1, h2, h3⟩ := hw
  generalize putWarning 5 b p = t at hr h1 h2 h3
  generalize putSpeedLost b p = u at hr ⊢
  refine ⟨h1.trans (by rw [hr]; rfl), fun x => (h2 x).settled ?_ hr.settled, ?_⟩
  · rw [h1]
    exact ⟨rfl, rfl⟩
  · rw [hr]
    exact h3

/-- Between `p` and `q` the motion detector may have acted. -/
def MotionOnly (p q : Part) : Prop :=
  q = { p with
    exch := q.exch, arb := q.arb, lamps := q.lamps, chime := q.chime, jour := q.jour
    lampU := { p.lampU with warn := q.lampU.warn }
    acct := { p.acct with confirm := q.acct.confirm, warnings := q.acct.warnings }
    panel := { p.panel with stack := q.panel.stack } }

/-- What a notification leaves of SPEED_LOST (R151). -/
def speedLostHeard (w : Mem) (moving : Bool) (x : Result) (lost : Bool) : Bool := (speedLostAfter moving x (motionClass w x)).getD lost

/-- R149, R151: the motion detector hears of its channel. -/
theorem notifyMotion_effect (c : Fin 32) (x : Result) (reset : Bool) (p : Part) :
    MotionOnly p (notifyMotion c x reset p) ∧ LampsSettled p (notifyMotion c x reset p) ∧
      (notifyMotion c x reset p).acct.confirm = (if motionChannel p.working = some c ∧ (reset ∨ p.channelsTake)
        then confirmAfter p.working p.acct.moving (motionClass p.working x) p.acct.confirm else p.acct.confirm) ∧
      (notifyMotion c x reset p).acct.warnings.getLsbD 5 = (if motionChannel p.working = some c ∧ (reset ∨ p.channelsTake)
        then speedLostHeard p.working p.acct.moving x (p.acct.warnings.getLsbD 5) else p.acct.warnings.getLsbD 5) := by
  unfold notifyMotion
  by_cases h : motionChannel p.working = some c ∧ (reset = true ∨ p.channelsTake = true)
  · rw [if_pos h, if_pos h, if_pos h]
    dsimp only
    let a : Part := setAcct (fun a => { a with confirm := confirmAfter p.working a.moving (motionClass p.working x) a.confirm }) p
    have h0 : LampsSettled p a := .of_same rfl rfl rfl
    cases hs : speedLostAfter p.acct.moving x (motionClass p.working x) with
    | none =>
      refine ⟨rfl, h0, rfl, ?_⟩
      rw [speedLostHeard, hs]
      rfl
    | some b =>
      obtain ⟨h1, h2, h3⟩ := putSpeedLost_effect b a
      show MotionOnly p (putSpeedLost b a) ∧ LampsSettled p (putSpeedLost b a) ∧ (putSpeedLost b a).acct.confirm = _ ∧
        (putSpeedLost b a).acct.warnings.getLsbD 5 = _
      generalize putSpeedLost b a = t at h1 h2 h3 ⊢
      have hc : t.acct.confirm = a.acct.confirm := by rw [h1]
      refine ⟨?_, fun y => (h0 y).settled ⟨rfl, rfl⟩ h2, hc, ?_⟩
      · rw [MotionOnly, hc]
        exact h1
      · rw [h3, speedLostHeard, hs]
        rfl
  · rw [if_neg h, if_neg h, if_neg h]
    exact ⟨rfl, .of_same rfl rfl rfl, rfl, rfl⟩

end Sys2Proof.Machine
end

section
namespace Sys2Proof.Machine

variable {b p q r : Part}

/-! ### A channel's change (R94 to R97) -/

/-- Between `p` and `q` nothing has changed but the channels, what their consumers hold, the records, and the Request Unit. -/
def ConsumersOnly (p q : Part) : Prop :=
  q = { p with
    exch := q.exch, arb := q.arb, chans := q.chans, ptrs := q.ptrs, lamps := q.lamps, chime := q.chime, jour := q.jour, req := q.req
    lampU := { p.lampU with warn := q.lampU.warn, dim := q.lampU.dim }
    acct := { p.acct with confirm := q.acct.confirm, warnings := q.acct.warnings }
    panel := { p.panel with stack := q.panel.stack } }

theorem ConsumersOnly.refl (p : Part) : ConsumersOnly p p := rfl

theorem ConsumersOnly.trans (h : ConsumersOnly p q) (h' : ConsumersOnly q r) : ConsumersOnly p r := by
  refine Eq.trans h' ?_
  rw [h]

theorem ConsumersOnly.same (h : ConsumersOnly p q) : SameRules p q ∧ q.ctl = p.ctl ∧ q.acct.moving = p.acct.moving := by
  rw [h]
  exact ⟨⟨rfl, rfl⟩, rfl, rfl⟩

/-- The result of the channel `c`, which is `x`, has been told. -/
structure ResultTold (c : Fin 32) (x : Result) (p q : Part) : Prop where
  frame : ConsumersOnly p q
  req : q.req = p.req
  chans : q.chans = p.chans
  ptrs : ∀ i : Fin 6, q.ptrs[i] = if ptrHears p.working c i then Ptr.told (ptrRec p.working i) x p.ptrs[i] else p.ptrs[i]
  lamps : LampsHeard (ownsChan p.working c) (fun i => lampUsed p.working i && gatesChan p.working c i) x p q
  dim : q.lampU.dim = if dimmingChannel p.working = some c then x else p.lampU.dim
  confirm : q.acct.confirm = if motionChannel p.working = some c ∧ p.channelsTake
    then confirmAfter p.working p.acct.moving (motionClass p.working x) p.acct.confirm else p.acct.confirm
  lost : q.acct.warnings.getLsbD 5 = if motionChannel p.working = some c ∧ p.channelsTake
    then speedLostHeard p.working p.acct.moving x (p.acct.warnings.getLsbD 5) else p.acct.warnings.getLsbD 5

theorem LampsHeard.of_same {own gate : Fin 32 → Bool} {x : Result} (h : LampsHeard own gate x q r) (hs : q.lamps = p.lamps)
    (hw : q.working = p.working) (hu : q.lampU = p.lampU) : LampsHeard own gate x p r := by
  have hf (i : Fin 32) : conditionFrozen q i = conditionFrozen p i := conditionFrozen_same ⟨hw, by rw [hu]⟩ i
  refine ⟨fun i => ?_, fun i => ?_, fun i hi => ?_, fun i hi hc ho => ?_, fun i ho hg => ?_⟩
  · rw [h.chanLast, hs]
  · rw [h.gateLast, hs]
  · rw [h.idle i (by rw [hw, hf]; exact hi), hs]
  · refine h.stands i (by rw [hw]; exact hi) ((hf i).trans hc) (ho.imp_right (.imp_right fun e => ?_))
    exact conditionStands_congr hw (congrArg LampUnit.warn hu) (by rw [hs]) (fun j => by rw [hs]) e
  · have := h.aside i ho hg
    rwa [hs, hw] at this

theorem notifyChan_told (c : Fin 32) (p : Part) : ResultTold c (chanResult p.chans[c]) p (notifyChan c false p) := by
  generalize hx : chanResult p.chans[c] = x
  have he : notifyChan c false p =
      notifyMotion c x false (notifyDimming c x (forEach allLamps (notifyLamp c x) (forEach allPtrs (notifyPtr c x) p))) := by
    rw [← hx]
    rfl
  rw [he]
  obtain ⟨p1, p2⟩ := notifyPtrs_told c x p
  generalize forEach allPtrs (notifyPtr c x) p = t at p1 p2 ⊢
  obtain ⟨l1, l2⟩ := notifyLamps_heard c x t
  generalize forEach allLamps (notifyLamp c x) t = u at l1 l2 ⊢
  obtain ⟨d1, d2, d3⟩ := notifyDimming_settled c x u
  generalize notifyDimming c x u = v at d1 d2 d3 ⊢
  obtain ⟨m1, m2, m3, m4⟩ := notifyMotion_effect c x false v
  generalize notifyMotion c x false v = w at m1 m2 m3 m4 ⊢
  have f1 : ConsumersOnly p t := by rw [p1]; rfl
  have f2 : ConsumersOnly t u := by rw [l2]; rfl
  have f3 : ConsumersOnly u v := by rw [d3]; rfl
  have f4 : ConsumersOnly v w := by rw [m1]; rfl
  have tw : t.working = p.working := f1.same.1.1
  have uw : u.working = p.working := f2.same.1.1.trans tw
  have vw : v.working = p.working := f3.same.1.1.trans uw
  have vt : v.channelsTake = p.channelsTake := congrArg (fun ctl => ({ p with ctl } : Part).channelsTake)
    (f3.same.2.1.trans (f2.same.2.1.trans f1.same.2.1))
  have va : v.acct = p.acct := by rw [d3, l2, p1]
  have lamps : LampsHeard (ownsChan p.working c) (fun i => lampUsed p.working i && gatesChan p.working c i) x t w := by
    rw [← tw]
    exact (l1.settled f2.same.1 d1).settled (by rw [d3, l2]; exact ⟨rfl, rfl⟩) m2
  refine ⟨f1.trans (f2.trans (f3.trans f4)), ?_, ?_, fun i => ?_, lamps.of_same ?_ tw ?_, ?_, ?_, ?_⟩
  · rw [m1, d3, l2, p1]
  · rw [m1, d3, l2, p1]
  · rw [← p2, m1, d3, l2]
  · rw [p1]
  · rw [p1]
  · have hd : u.lampU.dim = p.lampU.dim := by rw [l2, p1]
    rw [m1]
    exact d2.trans (by rw [uw, hd])
  · rw [m3, vw, vt, va]
    simp
  · rw [m4, vw, vt, va]
    simp

/-- A channel as a change leaves it. -/
def Chan.changed (new x : Chan) : Chan := { new with update := x.update + 1 }

theorem putChan_effect (c : Fin 32) (new : Chan) (p : Part) :
    putChan c new p = { p with
      exch := (putChan c new p).exch, arb := (putChan c new p).arb, chans := updAt c (Chan.changed new) p.chans } := by
  have h : MemoryOnly { p with chans := updAt c (Chan.changed new) p.chans } (putChan c new p) :=
    onlyIf_closed (P := MemoryOnly _) (fun q hq => setNotice_closed (memoryOnly_closed _) _ hq) _
      (rewriteChan_closed (memoryOnly_closed _) c (p := { p with chans := updAt c (Chan.changed new) p.chans }) (.refl _))
  exact h

/-- R95, R97: a channel has changed, and its consumers are told. -/
theorem changeChan_told (c : Fin 32) (new : Chan) (p : Part) :
    ∃ t : Part, t = { p with exch := t.exch, arb := t.arb, chans := updAt c (Chan.changed new) p.chans } ∧
      ResultTold c (chanResult (new.changed p.chans[c])) t (changeChan c new p) := by
  refine ⟨putChan c new p, putChan_effect c new p, ?_⟩
  have h := notifyChan_told c (putChan c new p)
  have hc : (putChan c new p).chans[c] = new.changed p.chans[c] := by
    rw [putChan_effect]
    exact updAt_self _ _ _
  rw [hc] at h
  exact h

/-! ### Changes of several channels -/

/-- Since `b` the channel has not changed, or has once, to STALE. -/
def Fresh (b p : Part) (c : Fin 32) : Prop :=
  p.chans[c].update = b.chans[c].update ∨ (p.chans[c].update = b.chans[c].update + 1 ∧ p.chans[c].quality = .stale)

/-- A pointer told of a second result, after one of a STALE channel, is as told of the second alone. -/
theorem Ptr.told_told (r : PtrRec) {x : Result} (x' : Result) (h : x.quality = .stale) (y : Ptr) : (y.told r x).told r x' = y.told r x' := by
  by_cases hs : y.state = .follow
  · have ht (t : Nat) (ht : t = if r.hold then y.target else 0) :
        followTarget r { y with last := x', target := t } = followTarget r { y with last := x' } := by
      unfold followTarget
      split <;> simp_all
    have told (z : Ptr) (hz : z.state = .follow) (x : Result) : z.told r x = { z with last := x, target := followTarget r { z with last := x } } := by
      rw [Ptr.told, if_pos hz]
    rw [told (y.told r x) hs, told y hs, told y hs]
    exact congrArg (fun t => { y with last := x', target := t }) (ht (followTarget r { y with last := x }) (by rw [followTarget, h]))
  · simp [Ptr.told, hs]

section
variable {c : Fin 32} (hch : ∀ d, chanChanged b q d ↔ d = c ∨ chanChanged b p d) (hres : ∀ d : Fin 32, d ≠ c → q.chans[d] = p.chans[d])
include hch hres

theorem pointersTold_step (hc : Fresh b p c) (h : pointersTold (chanChanged b p) b p)
    (hq : ∀ i : Fin 6, q.ptrs[i] = if ptrHears b.working c i then Ptr.told (ptrRec b.working i) (chanResult q.chans[c]) p.ptrs[i] else p.ptrs[i]) :
    pointersTold (chanChanged b q) b q := by
  intro i
  obtain ⟨h1, h2⟩ := h i
  have hi := hq i
  refine ⟨fun d hu hd hx => ?_, fun hn => ?_⟩
  · show q.ptrs[i] = Ptr.told (ptrRec b.working i) (chanResult q.chans[d]) b.ptrs[i]
    by_cases e : d = c
    · subst e
      rw [hi, if_pos (by simp [ptrHears, hu, hd])]
      by_cases hp : chanChanged b p d
      · have hs := (hc.resolve_left hp).2
        rw [show p.ptrs[i] = Ptr.told (ptrRec b.working i) (chanResult p.chans[d]) b.ptrs[i] from h1 d hu hd hp]
        exact Ptr.told_told _ _ hs _
      · rw [h2 fun d' _ hd' hx' => hp (by rwa [Fin.ext (hd.symm.trans hd')])]
    · rw [hi, if_neg (by simpa [ptrHears, hu, hd] using fun e' => e (Fin.ext e')), hres d e]
      exact h1 d hu hd (((hch d).1 hx).resolve_left e)
  · rw [hi, if_neg, h2 fun d hu hd hx => hn d hu hd ((hch d).2 (.inr hx))]
    simpa [ptrHears] using fun hu hd => hn c hu hd ((hch c).2 (.inl rfl))

theorem dimmingTold_step (h : dimmingTold (chanChanged b p) b p)
    (hq : q.lampU.dim = if dimmingChannel b.working = some c then chanResult q.chans[c] else p.lampU.dim) :
    dimmingTold (chanChanged b q) b q := by
  obtain ⟨h1, h2⟩ := h
  refine ⟨fun d hd hx => ?_, fun hn => ?_⟩
  · by_cases e : d = c
    · subst e
      rw [hq, if_pos hd]
    · rw [hq, if_neg fun e' => e (Option.some.inj (hd.symm.trans e')), hres d e]
      exact h1 d hd (((hch d).1 hx).resolve_left e)
  · rw [hq, if_neg fun e => hn c e ((hch c).2 (.inl rfl))]
    exact h2 fun d hd hx => hn d hd ((hch d).2 (.inr hx))

theorem lampsTold_step (hs : SameRules b p) (h : lampsTold (chanChanged b p) b p)
    (hq : LampsHeard (ownsChan p.working c) (fun i => lampUsed p.working i && gatesChan p.working c i) (chanResult q.chans[c]) p q) :
    lampsTold (chanChanged b q) b q := by
  have hw := hs.1
  have hf := conditionFrozen_same hs
  rw [hw] at hq
  intro i
  obtain ⟨h1, h2, h3, h4, h5, h6, h7⟩ := h i
  have c1 := hq.chanLast i
  have c2 := hq.gateLast i
  have own_iff : ownsChan b.working c i = true ↔ (lampRec b.working i).kind.usesChannel = true ∧ (lampRec b.working i).chan = c.val := by
    simp [ownsChan]
  have gate_iff : (lampUsed b.working i && gatesChan b.working c i) = true ↔
      lampUsed b.working i = true ∧ (lampRec b.working i).gate = some c.val := by
    simp [gatesChan]
  have h5' := hq.idle i
  have h6' := hq.stands i
  have h7' := hq.aside i
  rw [hw, hf] at h5' h6'
  rw [hw] at h7'
  generalize ownsChan b.working c i = own at *
  generalize (lampUsed b.working i && gatesChan b.working c i) = gate at *
  refine ⟨fun d ⟨hu, hd, hx⟩ => ?_, fun hn => ?_, fun d ⟨hu, hd, hx⟩ => ?_, fun hn => ?_, fun hi => (h5' hi).trans (h5 hi),
    fun hu hc ⟨d, hd⟩ => ?_, fun hn => ?_⟩
  · by_cases e : d = c
    · subst e
      rw [c1, own_iff.2 ⟨hu, hd⟩]
      rfl
    · have ho : own = false := Bool.eq_false_iff.2 fun ho => e (Fin.ext (hd.symm.trans (own_iff.1 ho).2))
      rw [c1, ho, hres d e]
      exact h1 d ⟨hu, hd, ((hch d).1 hx).resolve_left e⟩
  · have ho : own = false := Bool.eq_false_iff.2 fun ho => hn c ⟨(own_iff.1 ho).1, (own_iff.1 ho).2, (hch c).2 (.inl rfl)⟩
    rw [c1, ho]
    exact h2 fun d ⟨hu, hd, hx⟩ => hn d ⟨hu, hd, (hch d).2 (.inr hx)⟩
  · by_cases e : d = c
    · subst e
      rw [c2, gate_iff.2 ⟨hu, hd⟩]
      rfl
    · have ho : gate = false := Bool.eq_false_iff.2 fun ho => e (Fin.ext (Option.some.inj (hd.symm.trans (gate_iff.1 ho).2)))
      rw [c2, ho, hres d e]
      exact h3 d ⟨hu, hd, ((hch d).1 hx).resolve_left e⟩
  · have ho : gate = false := Bool.eq_false_iff.2 fun ho => hn c ⟨(gate_iff.1 ho).1, (gate_iff.1 ho).2, (hch c).2 (.inl rfl)⟩
    rw [c2, ho]
    exact h4 fun d ⟨hu, hd, hx⟩ => hn d ⟨hu, hd, (hch d).2 (.inr hx)⟩
  · refine h6' hu hc ?_
    by_cases e : d = c
    · subst e
      exact hd.imp (fun ⟨a, e, _⟩ => own_iff.2 ⟨a, e⟩) fun ⟨a, e, _⟩ => .inl (gate_iff.2 ⟨a, e⟩)
    · refine .inr (.inr (h6 hu hc ⟨d, hd.imp (fun ⟨a, x, hx⟩ => ⟨a, x, ?_⟩) fun ⟨a, x, hx⟩ => ⟨a, x, ?_⟩⟩))
      · exact ((hch d).1 hx).resolve_left e
      · exact ((hch d).1 hx).resolve_left e
  · have ho : own = false := Bool.eq_false_iff.2 fun ho => (hn c).1 ⟨(own_iff.1 ho).1, (own_iff.1 ho).2, (hch c).2 (.inl rfl)⟩
    have hg : gate = false := Bool.eq_false_iff.2 fun ho => (hn c).2 ⟨(gate_iff.1 ho).1, (gate_iff.1 ho).2, (hch c).2 (.inl rfl)⟩
    have hp := h7 fun d => ⟨fun ⟨a, e, hx⟩ => (hn d).1 ⟨a, e, (hch d).2 (.inr hx)⟩, fun ⟨a, e, hx⟩ => (hn d).2 ⟨a, e, (hch d).2 (.inr hx)⟩⟩
    rcases h7' ho hg with hq | hq
    · rcases hp with hp | ⟨hk, hp⟩
      · exact .inl (hq.trans hp)
      · have hu := lampUsed_of_drivetime hk
        by_cases hc : conditionFrozen b i = true
        · exact .inl (hq.trans (h5 (.inr hc)))
        · exact .inr ⟨hk, h6' hu (by simpa using hc) (.inr (.inr hp))⟩
    · exact .inr hq

theorem motionTold_step (hf : ConsumersOnly b p) (hc : Fresh b p c) (hu : q.chans[c].update = p.chans[c].update + 1) (h : motionTold b p)
    (hm : q.acct.confirm = if motionChannel p.working = some c ∧ p.channelsTake
      then confirmAfter p.working p.acct.moving (motionClass p.working (chanResult q.chans[c])) p.acct.confirm else p.acct.confirm)
    (hl : q.acct.warnings.getLsbD 5 = if motionChannel p.working = some c ∧ p.channelsTake
      then speedLostHeard p.working p.acct.moving (chanResult q.chans[c]) (p.acct.warnings.getLsbD 5) else p.acct.warnings.getLsbD 5) :
    motionTold b q := by
  obtain ⟨h1, h2⟩ := h
  obtain ⟨⟨hw, -⟩, hctl, ha⟩ := hf.same
  have ht : p.channelsTake = b.channelsTake := congrArg (fun ctl => ({ b with ctl } : Part).channelsTake) hctl
  rw [hw, ht, ha] at hm hl
  refine ⟨fun d hd hx => ?_, fun hn => ?_⟩
  · obtain ⟨-, -, r1, r2⟩ := notifyMotion_effect d (chanResult q.chans[d]) false b
    dsimp only
    rw [r1, r2]
    by_cases e : d = c
    · subst e
      have hp : p.chans[d].update = b.chans[d].update := by
        refine hc.resolve_right fun ⟨e, _⟩ => ?_
        rw [hu, e] at hx
        simp at hx
      obtain ⟨e1, e2⟩ := h2 fun d' hd' hx' => hx' (by rw [← Option.some.inj (hd.symm.trans hd')]; exact hp)
      rw [hm, hl, e1, e2]
      simp
    · have hne : ¬ (motionChannel b.working = some c ∧ b.channelsTake = true) := fun e' => e (Option.some.inj (hd.symm.trans e'.1))
      rw [hm, hl, if_neg hne, if_neg hne]
      have h1 := h1 d hd (by rw [← hres d e]; exact hx)
      obtain ⟨-, -, r1, r2⟩ := notifyMotion_effect d (chanResult p.chans[d]) false b
      dsimp only at h1
      rw [r1, r2, ← hres d e] at h1
      exact h1
  · have hne : motionChannel b.working ≠ some c := fun e => hn c e ((hch c).2 (.inl rfl))
    rw [hm, hl, if_neg fun e => hne e.1, if_neg fun e => hne e.1]
    exact h2 fun d hd hx => hn d hd ((hch d).2 (.inr hx))

end

theorem consumersTold_refl (b : Part) : consumersTold b b :=
  ⟨fun _ => ⟨fun _ _ _ h => absurd rfl h, fun _ => rfl⟩,
    fun i => ⟨fun _ h => absurd rfl h.2.2, fun _ => rfl, fun _ h => absurd rfl h.2.2, fun _ => rfl, fun _ => rfl,
      fun _ _ ⟨_, h⟩ => (h.elim (fun h => absurd rfl h.2.2) fun h => absurd rfl h.2.2), fun _ => .inl rfl⟩,
    ⟨fun _ _ h => absurd rfl h, fun _ => rfl⟩, fun _ _ h => absurd h (by simp), fun _ => ⟨rfl, rfl⟩⟩

/-- R97: a channel that has not changed, or has once, to STALE, changes, and its consumers are told. -/
theorem changeChan_consumersTold {c : Fin 32} (new : Chan) (hf : ConsumersOnly b p) (h : consumersTold b p) (hc : Fresh b p c) :
    ConsumersOnly b (changeChan c new p) ∧ consumersTold b (changeChan c new p) ∧ (changeChan c new p).req = p.req ∧
      (changeChan c new p).chans = updAt c (Chan.changed new) p.chans := by
  obtain ⟨t, ht, r⟩ := changeChan_told c new p
  generalize changeChan c new p = q at r ⊢
  obtain ⟨rf, rr, rc, rp, rl, rd, rm, rs⟩ := r
  obtain ⟨h1, h2, h3, h4⟩ := h
  have hs := hf.same.1
  have ft : ConsumersOnly p t := by rw [ht]; rfl
  have hw : t.working = p.working := by rw [ht]
  have tw : t.working = b.working := hw.trans hs.1
  have chans : q.chans = updAt c (Chan.changed new) p.chans := rc.trans (by rw [ht])
  have hself : q.chans[c] = new.changed p.chans[c] := by rw [chans, updAt_self]
  have hres (d : Fin 32) (e : d ≠ c) : q.chans[d] = p.chans[d] := by rw [chans, updAt_other _ _ _ _ e.symm]
  have hu : q.chans[c].update = p.chans[c].update + 1 := by rw [hself]; rfl
  have hch (d : Fin 32) : chanChanged b q d ↔ d = c ∨ chanChanged b p d := by
    by_cases e : d = c
    · subst e
      refine ⟨fun _ => .inl rfl, fun _ => ?_⟩
      rw [chanChanged, hu]
      rcases hc with e | ⟨e, -⟩
      · rw [e]
        simp
      · rw [e]
        simp [BitVec.add_assoc]
    · rw [chanChanged, hres d e, chanChanged]
      simp [e]
  rw [← hself] at rp rl rd rm rs
  have rl := rl.of_same (p := p) (by rw [ht]) hw (by rw [ht])
  have ha : t.acct = p.acct := by rw [ht]
  have hk : t.channelsTake = p.channelsTake := by rw [ht]; rfl
  have hp : t.ptrs = p.ptrs := by rw [ht]
  have hd : t.lampU = p.lampU := by rw [ht]
  rw [hw, ha, hk] at rm rs
  rw [hw] at rl
  rw [tw, hp] at rp
  rw [tw, hd] at rd
  refine ⟨hf.trans (ft.trans rf), ⟨pointersTold_step hch hres hc h1 rp, lampsTold_step hch hres hs h2 rl, dimmingTold_step hch hres h3 rd,
    motionTold_step hch hres hf hc hu h4 rm rs⟩, rr.trans (by rw [ht]), chans⟩

end Sys2Proof.Machine
end

section
namespace Sys2Proof.Machine

variable {b p q r : Part}

/-! ### Ages and deliveries at several channels (R88, R89) -/

/-- Since `b` channels have changed, and their consumers have been told of each change. -/
def Told (b p : Part) : Prop := ConsumersOnly b p ∧ consumersTold b p

theorem Told.refl (b : Part) : Told b b := ⟨.refl b, consumersTold_refl b⟩

/-- R97: what leaves every result and update count, and the consumers, leaves the consumers told. -/
theorem Told.same (h : Told b p) (hq : q = { p with exch := q.exch, arb := q.arb, req := q.req, chans := q.chans })
    (hc : ∀ c : Fin 32, q.chans[c].update = p.chans[c].update ∧ chanResult q.chans[c] = chanResult p.chans[c]) : Told b q := by
  obtain ⟨hf, h1, h2, h3, h4⟩ := h
  refine ⟨hf.trans (by rw [hq]; rfl), ?_⟩
  have hch : chanChanged b q = chanChanged b p := funext fun c => by rw [chanChanged, chanChanged, (hc c).1]
  have hw : q.working = p.working ∧ q.lampU = p.lampU ∧ q.lamps = p.lamps ∧ q.ptrs = p.ptrs ∧ q.acct = p.acct := by
    rw [hq]
    exact ⟨rfl, rfl, rfl, rfl, rfl⟩
  obtain ⟨e1, e2, e3, e4, e5⟩ := hw
  have hs (i : Fin 32) : conditionStands q i = conditionStands p i := propext
    ⟨conditionStands_congr e1.symm (by rw [e2]) (by rw [e3]) (fun j => by rw [e3]),
      conditionStands_congr e1 (by rw [e2]) (by rw [e3]) fun j => by rw [e3]⟩
  refine ⟨?_, ?_, ?_, ?_⟩
  · simpa only [pointersTold, hch, fun c => (hc c).2, e4] using h1
  · simpa only [lampsTold, hch, fun c => (hc c).2, e3, hs] using h2
  · simpa only [dimmingTold, hch, fun c => (hc c).2, e2] using h3
  · simpa only [motionTold, hch, fun c => (hc c).2, fun c => (hc c).1, e5] using h4

/-- The channel has been brought to `g` of what it was, and those that hear of it have been told. -/
structure ChanStep (b : Part) (c : Fin 32) (g : Chan → Chan) (p q : Part) : Prop where
  told : Told b q
  req : q.req = p.req
  chans : q.chans = updAt c g p.chans

theorem changeChan_step {c : Fin 32} {new : Chan} {g : Chan → Chan} (h : Told b p) (hc : Fresh b p c)
    (hg : new.changed p.chans[c] = g p.chans[c]) : ChanStep b c g p (changeChan c new p) := by
  obtain ⟨h1, h2, h3, h4⟩ := changeChan_consumersTold new h.1 h.2 hc
  refine ⟨⟨h1, h2⟩, h3, h4.trans ?_⟩
  simp only [updAt, hg]

/-- R97: several channels, each changed at most once. -/
theorem forEach_chanStep {f : Fin 32 → Part → Part} {g : Fin 32 → Chan → Chan}
    (hf : ∀ c p, Told b p → Fresh b p c → ChanStep b c (g c) p (f c p)) (is : List (Fin 32)) (hn : is.Nodup) :
    ∀ p, Told b p → (∀ c ∈ is, Fresh b p c) → Told b (forEach is f p) ∧ (forEach is f p).req = p.req ∧
      ∀ c : Fin 32, (forEach is f p).chans[c] = if c ∈ is then g c p.chans[c] else p.chans[c] := by
  induction is with
  | nil => exact fun p hp _ => ⟨hp, rfl, fun c => by simp [forEach]⟩
  | cons i is ih =>
    intro p hp hfr
    obtain ⟨hi, hn⟩ := List.nodup_cons.1 hn
    obtain ⟨s1, s2, s3⟩ := hf i p hp (hfr i (by simp))
    have other (c : Fin 32) (h : i ≠ c) : (f i p).chans[c] = p.chans[c] := by rw [s3, updAt_other _ _ _ _ h]
    obtain ⟨r1, r2, r3⟩ := ih hn (f i p) s1 fun c hc => by
      have ho := other c fun e => hi (e ▸ hc)
      rw [Fresh, ho]
      exact hfr c (by simp [hc])
    refine ⟨r1, r2.trans s2, fun c => (r3 c).trans ?_⟩
    by_cases e : i = c
    · subst e
      rw [if_neg hi, if_pos (by simp), s3, updAt_self]
    · rw [other c e]
      simp [Ne.symm e]

/-- R89: a channel advanced in age. -/
def agedChan (w : Mem) (t : Nat) (c : Fin 32) (x : Chan) : Chan :=
  let a := min 65535 (x.age + t)
  if (chanRec w c).ageLimit * 100 < a ∧ agesOut x.quality then Chan.changed { x with age := a, quality := .stale, count := 0 } x
  else { x with age := a }

theorem ageChan_step (t : Nat) (c : Fin 32) (h : Told b p) (hc : Fresh b p c) : ChanStep b c (agedChan b.working t c) p (ageChan t c p) := by
  have hw : p.working = b.working := h.1.same.1.1
  unfold ageChan
  dsimp only
  rw [hw]
  split
  next hl => exact changeChan_step h hc (by rw [agedChan, if_pos hl])
  next hl =>
    have hv : (setChan c (fun x => { x with age := min 65535 (p.chans[c].age + t) }) p).chans = updAt c (agedChan b.working t c) p.chans := by
      simp only [setChan_chans, updAt, agedChan, if_neg hl]
    refine ⟨h.same rfl fun d => ?_, rfl, hv⟩
    by_cases e : c = d
    · subst e
      rw [setChan_chans, updAt_self]
      exact ⟨rfl, rfl⟩
    · rw [setChan_chans, updAt_other _ _ _ _ e]
      exact ⟨rfl, rfl⟩

/-- R22, R89: the channel ages at a periodic scan while the channels take. -/
def chanAges (p : Part) (periodic : Bool) (c : Fin 32) : Bool := periodic && (p.channelsTake && chanKind p.working c == .inbox)

/-- R89: a channel as a scan's advance of age leaves it. -/
def scanAged (p : Part) (sc : PendingScan) (c : Fin 32) : Chan :=
  if chanAges p sc.periodic c then agedChan p.working sc.time c p.chans[c] else p.chans[c]

theorem ConsumersOnly.takes (h : ConsumersOnly b p) : p.channelsTake = b.channelsTake :=
  congrArg (fun ctl => ({ b with ctl } : Part).channelsTake) h.same.2.1

/-- R22, R89: the INBOX channels age. -/
theorem advanceAges_told (sc : PendingScan) (h : Told b p) (hc : p.chans = b.chans) :
    Told b (onlyIf sc.periodic (advanceAges sc.time) p) ∧ (onlyIf sc.periodic (advanceAges sc.time) p).req = p.req ∧
      ∀ c : Fin 32, (onlyIf sc.periodic (advanceAges sc.time) p).chans[c] = scanAged b sc c := by
  have hw : p.working = b.working := h.1.same.1.1
  have none (c : Fin 32) (e : chanAges b sc.periodic c = false) : p.chans[c] = scanAged b sc c := by
    rw [scanAged, e, hc]
    rfl
  unfold onlyIf advanceAges
  split
  next hp =>
    rw [h.1.takes, hw]
    split
    next ht =>
      obtain ⟨r1, r2, r3⟩ := forEach_chanStep (fun c _ hp hf => ageChan_step sc.time c hp hf)
        (allChans.filter fun (c : Fin 32) => chanKind b.working c == .inbox) ((List.nodup_finRange 32).filter _) p h
        fun c _ => .inl (by rw [hc])
      refine ⟨r1, r2, fun c => (r3 c).trans ?_⟩
      rw [scanAged, chanAges, hp, ht, hc]
      simp [allChans]
    next ht => exact ⟨h, rfl, fun c => none c (by simp [chanAges, ht])⟩
  next hp => exact ⟨h, rfl, fun c => none c (by simp [chanAges, hp])⟩

/-- R89: an advance of age leaves the channel unchanged, or makes it STALE. -/
theorem scanAged_fresh {sc : PendingScan} {c : Fin 32} (h : p.chans[c] = scanAged b sc c) : Fresh b p c := by
  rw [Fresh, h, scanAged]
  split
  next =>
    unfold agedChan
    dsimp only
    split
    next => exact .inr ⟨rfl, rfl⟩
    next => exact .inl rfl
  next => exact .inl rfl

/-- R88: a channel as the delivery of an inbox slot leaves it. -/
def inboxTaken (w : Mem) (bs : List Byte) (c : Fin 32) (x : Chan) : Chan :=
  match inboxFlag (byteAt bs 1) with
  | .valid => { sampled w c (leInt32 ((bs.drop 2).take 4)) x with age := 0 }
  | .notAvailable => { x with quality := .stale, count := 0, age := 0, update := x.update + 1 }
  | .fault => { x with quality := .fault, count := 0, age := 0, update := x.update + 1 }

theorem inboxChan_step (bs : List Byte) (c : Fin 32) (h : Told b p) (hc : Fresh b p c) :
    ChanStep b c (inboxTaken b.working bs c) p (inboxChan (inboxFlag (byteAt bs 1)) (leInt32 ((bs.drop 2).take 4)) c p) := by
  have hw : p.working = b.working := h.1.same.1.1
  unfold inboxChan
  dsimp only
  rw [hw]
  split
  next e => exact changeChan_step h hc (by rw [inboxTaken, e]; rfl)
  next e => exact changeChan_step h hc (by rw [inboxTaken, e]; rfl)
  next e => exact changeChan_step h hc (by rw [inboxTaken, e]; rfl)

/-- R58, R78, R88: an inbox slot is delivered to the channels that name it. -/
theorem deliverInbox_told (k : Fin 16) (bs : List Byte) (h : Told b p) (hc : ∀ c : Fin 32, chanNames b.working c .inbox k = true → Fresh b p c) :
    let q := deliverTo .inbox k (inboxChan (inboxFlag (byteAt bs 1)) (leInt32 ((bs.drop 2).take 4))) p
    Told b q ∧ q.req = p.req ∧ ∀ c : Fin 32, q.chans[c] =
      if b.channelsTake && chanNames b.working c .inbox k then inboxTaken b.working bs c p.chans[c] else p.chans[c] := by
  have ht : arrivalTaken p .inbox = b.channelsTake := by
    rw [arrivalTaken, h.1.takes]
    simp
  intro q
  have hq : q = if b.channelsTake then forEach (allChans.filter fun (c : Fin 32) => chanNames b.working c .inbox k)
      (inboxChan (inboxFlag (byteAt bs 1)) (leInt32 ((bs.drop 2).take 4))) p else p := by
    rw [← ht, ← h.1.same.1.1]
    rfl
  rw [hq]
  split
  next e =>
    obtain ⟨r1, r2, r3⟩ := forEach_chanStep (fun c _ hp hf => inboxChan_step bs c hp hf)
      (allChans.filter fun (c : Fin 32) => chanNames b.working c .inbox k) ((List.nodup_finRange 32).filter _) p h
      fun c hm => hc c (by simpa [allChans] using hm)
    refine ⟨r1, r2, fun c => (r3 c).trans ?_⟩
    rw [e]
    simp [allChans]
  next e => exact ⟨h, rfl, fun c => by simp [e]⟩

end Sys2Proof.Machine
end

section
namespace Sys2Proof.Machine

variable {b p q : Part} {m n n' : Mem} {l : List (Fin 16)}

/-! ### The check record in the course of an inbox walk (R14) -/

/-- The bytes of an inbox slot. -/
def inboxBytes (m : Mem) (k : Fin 16) : List Byte := memReadN m (inboxAddr k) 8

/-- Since `m` the failed checks of the inbox slots `l` have been logged, in that order. -/
structure InboxLog (m : Mem) (l : List (Fin 16)) (n : Mem) : Prop where
  wf : Memory.wf n = true
  own : agreeOutside partByte m n
  scans : memReadN n 0x0C 2 = memReadN m 0x0C 2
  check : noticeOn n .check = (noticeOn m .check || !l.isEmpty)
  clear : l = [] → memReadN n 0x1C0 16 = memReadN m 0x1C0 16
  first : ∀ k rest, l = k :: rest → noticeOn m .check = false →
    memReadN n 0x1C0 12 = [1, BitVec.ofNat 8 k.val] ++ memReadN m 0x0C 2 ++ inboxBytes m k ∧
      memRead n 0x1CC = BitVec.ofNat 8 (min 255 rest.length) ∧ memReadN n 0x1CD 3 = [0, 0, 0]
  further : noticeOn m .check = true → memReadN n 0x1C0 12 = memReadN m 0x1C0 12 ∧
    memRead n 0x1CC = BitVec.ofNat 8 (min 255 ((memRead m 0x1CC).toNat + l.length))

theorem InboxLog.refl (h : Memory.wf m = true) : InboxLog m [] m where
  wf := h
  own := .refl _ _
  scans := rfl
  check := by simp
  clear _ := rfl
  first _ _ := nofun
  further _ := ⟨rfl, by
    have := (memRead m 0x1CC).isLt
    refine BitVec.eq_of_toNat_eq ?_
    rw [BitVec.toNat_ofNat, List.length_nil]
    omega⟩

/-- What leaves CHECK, the scan count and the check record leaves the log. -/
theorem InboxLog.stands (h : InboxLog m l n) (hs : CheckStands n n') (ho : agreeOutside partByte n n') : InboxLog m l n' := by
  obtain ⟨h1, h2, h3⟩ := hs
  have run (a j : Nat) (ha : 0x0A ≤ a := by decide) (hj : a + j ≤ 0x1E0 := by decide) : memReadN n' a j = memReadN n a j :=
    memReadN_congr fun k ⟨hk1, hk2⟩ => h3 k (by omega) (by simp only [noticeByte_iff]; omega)
  have r1 := run 0x0C 2
  have r2 := run 0x1C0 16
  have r3 := run 0x1C0 12
  have r4 := run 0x1CD 3
  have r5 := h3 0x1CC (by decide) (by simp only [noticeByte_iff]; omega)
  exact {
    wf := h1
    own := h.own.trans ho
    scans := r1.trans h.scans
    check := h2.trans h.check
    clear := fun e => r2.trans (h.clear e)
    first := fun k rest e hc => by
      rw [r3, r4, r5]
      exact h.first k rest e hc
    further := fun hc => by
      rw [r3, r5]
      exact h.further hc }

theorem toldAccess_own {x : RecordAccess} (hx : toldAccess x) (hm : Memory.wf m = true) : agreeOutside partByte m (x.effect m) := by
  intro k hk
  rw [partByte_iff] at hk
  refine memRead_effect_out _ _ _ hm ?_
  cases x with
  | write a bs =>
    obtain ⟨h1, h2⟩ := hx
    simp only [RecordAccess.avoids]
    omega
  | notice =>
    simp only [RecordAccess.avoids]
    omega
  | checkFailure => exact hx.elim
  | answer => exact hx.elim

theorem inboxLog_showsLoose (m : Mem) (l : List (Fin 16)) : ShowsLoose fun p => InboxLog m l p.mem :=
  showsLoose_of_told fun _ _ hx h => h.stands ((CheckStands.refl h.wf).effect hx) (toldAccess_own hx h.wf)

theorem inboxBytes_length (m : Mem) (k : Fin 16) : (inboxBytes m k).length = 8 := memReadN_length _ _ _

theorem InboxLog.slots (h : InboxLog m l n) (k : Fin 16) : inboxBytes n k = inboxBytes m k :=
  memReadN_congr fun j hj => h.own j (by
    have := k.isLt
    simp only [partByte_iff, inRecord, inboxAddr] at hj ⊢
    omega)

/-- A saturating count, raised by one. -/
theorem count_succ {x y : Byte} {k : Nat} (h : x = BitVec.ofNat 8 (min 255 k)) (hy : y = BitVec.ofNat 8 (min 255 (x.toNat + 1))) :
    y = BitVec.ofNat 8 (min 255 (k + 1)) := by
  have hx : x.toNat = min 255 k := by
    rw [h, BitVec.toNat_ofNat]
    omega
  rw [hy, hx]
  congr 1
  omega

/-- R14: one more inbox slot fails. -/
theorem InboxLog.fail (h : InboxLog m l n) (k : Fin 16) : InboxLog m (l ++ [k]) ((RecordAccess.checkFailure 1 k (inboxBytes n k)).effect n) := by
  have hb := inboxBytes_length n k
  obtain ⟨hw, ha⟩ := checkFailure_notice 1 k (bytes := inboxBytes n k) h.wf (by rw [hb])
  have hf := checkFailure_first 1 k (bytes := inboxBytes n k) h.wf (by rw [hb])
  have hu := checkFailure_further 1 k (inboxBytes n k) h.wf
  have hwf := effect_wf (.checkFailure 1 k (inboxBytes n k)) n h.wf
  generalize (RecordAccess.checkFailure 1 k (inboxBytes n k)).effect n = o at hw ha hf hu hwf ⊢
  have check : noticeOn o .check = true := (noticeOn_iff o .check).2 (by
    rw [hw]
    exact (BitVec.or_assoc _ _ _).trans (congrArg _ (BitVec.or_self)))
  have scans : memReadN o 0x0C 2 = memReadN n 0x0C 2 := memReadN_congr fun j hj => ha j (by
    simp only [inRecord, noticeByte_iff] at hj ⊢
    omega)
  have further (hn : noticeOn n .check = true) : memReadN o 0x1C0 12 = memReadN n 0x1C0 12 ∧
      memRead o 0x1CC = BitVec.ofNat 8 (min 255 ((memRead n 0x1CC).toNat + 1)) ∧ memReadN o 0x1CD 3 = memReadN n 0x1CD 3 := by
    obtain ⟨h1, h2⟩ := hu hn
    refine ⟨memReadN_congr fun j hj => h2 j ?_, h1, memReadN_congr fun j hj => h2 j ?_⟩ <;> (simp only [inRecord] at hj; omega)
  refine {
    wf := hwf
    own := h.own.trans (ha.mono fun j hj => ?_)
    scans := scans.trans h.scans
    check := by rw [check]; simp
    clear := fun e => absurd e (by simp)
    first := fun k' rest e hc => ?_
    further := fun hc => ?_ }
  · simp only [partByte_iff, inRecord, noticeByte_iff] at hj ⊢
    omega
  · cases l with
    | nil =>
      obtain ⟨rfl, rfl⟩ := List.cons.inj e
      have hr := (hf (h.check.trans (by simp [hc]))).1
      have hs : memReadN n 0x0C 2 = [memRead n 0x0C, memRead n 0x0D] := rfl
      have hr : memReadN o 0x1C0 16 = ([1, BitVec.ofNat 8 k.val] ++ memReadN m 0x0C 2 ++ inboxBytes m k) ++ (0 :: [0, 0, 0]) := by
        rw [hr, ← h.scans, ← h.slots, hs, checkRecordBytes, List.take_of_length_le (by rw [hb])]
        rfl
      rw [memReadN_append o 12 4 0x1C0] at hr
      obtain ⟨e1, e2⟩ := List.append_inj hr (by simp [inboxBytes_length])
      obtain ⟨e3, e4⟩ := List.cons.inj e2
      exact ⟨e1, e3, e4⟩
    | cons k₀ l =>
      obtain ⟨rfl, e'⟩ := List.cons.inj e
      obtain ⟨e1, e2, e3⟩ := h.first _ _ rfl hc
      obtain ⟨f1, f2, f3⟩ := further (h.check.trans (by simp))
      have hr : rest.length = l.length + 1 := by simp [← e']
      exact ⟨f1.trans e1, hr ▸ count_succ e2 f2, f3.trans e3⟩
  · obtain ⟨e1, e2⟩ := h.further hc
    obtain ⟨f1, f2, -⟩ := further (h.check.trans (by simp [hc]))
    refine ⟨f1.trans e1, ?_⟩
    rw [List.length_append, List.length_singleton, ← Nat.add_assoc]
    exact count_succ e2 f2

/-! ### The inbox walk (R17) -/

/-- A slot with a new sequence byte whose check fails, and one that is delivered. -/
def inboxFails (m : Mem) (seen : Vector Byte 16) (k : Fin 16) : Bool := byteAt (inboxBytes m k) 0 != seen[k] && xorBytes (inboxBytes m k) != 0
def inboxTakes (m : Mem) (seen : Vector Byte 16) (k : Fin 16) : Bool := byteAt (inboxBytes m k) 0 != seen[k] && xorBytes (inboxBytes m k) == 0

/-- The inbox slots `ks` have been taken in, the failures `l` having been logged before. -/
structure InboxWalked (b : Part) (m : Mem) (l ks : List (Fin 16)) (p q : Part) : Prop where
  told : Told b q
  log : InboxLog m (l ++ ks.filter (inboxFails m p.req.seen)) q.mem
  req : q.req = { p.req with seen := q.req.seen }
  seen : ∀ k : Fin 16, q.req.seen[k] = if k ∈ ks then byteAt (inboxBytes m k) 0 else p.req.seen[k]
  rest : ∀ c : Fin 32, (∀ k ∈ ks, chanNames b.working c .inbox k = true → inboxTakes m p.req.seen k = true → b.channelsTake = false) →
    q.chans[c] = p.chans[c]
  taken : ∀ c : Fin 32, ∀ k ∈ ks, chanNames b.working c .inbox k = true → inboxTakes m p.req.seen k = true → b.channelsTake = true →
    q.chans[c] = inboxTaken b.working (inboxBytes m k) c p.chans[c]

theorem intakeInbox_eq (k : Fin 16) (p : Part) : intakeInbox k p =
    if byteAt (inboxBytes p.mem k) 0 = p.req.seen[k] then p.grantReading
    else if checkHolds (inboxBytes p.mem k) then
      deliverTo .inbox k (inboxChan (inboxFlag (byteAt (inboxBytes p.mem k) 1)) (leInt32 (((inboxBytes p.mem k).drop 2).take 4)))
        (setReq (fun r => { r with seen := updAt k (fun _ => byteAt (inboxBytes p.mem k) 0) r.seen }) p.grantReading)
    else logCheckFailure 1 k (inboxBytes p.mem k)
      (setReq (fun r => { r with seen := updAt k (fun _ => byteAt (inboxBytes p.mem k) 0) r.seen }) p.grantReading) := by
  rw [← grantReading_mem p]
  rfl

theorem Told.aside (h : Told b p) (hq : q = { p with exch := q.exch, arb := q.arb, req := q.req }) : Told b q := by
  refine h.same (by rw [hq]) fun c => ?_
  rw [hq]
  exact ⟨rfl, rfl⟩

theorem Told.grantReading (h : Told b p) : Told b p.grantReading := h.aside (by rw [grantReading_eq])

/-- R17: one inbox slot. -/
theorem intakeInbox_walked (k : Fin 16) (h : Told b p) (hl : InboxLog m l p.mem)
    (hc : ∀ c : Fin 32, chanNames b.working c .inbox k = true → Fresh b p c) : InboxWalked b m l [k] p (intakeInbox k p) := by
  have hg : p.grantReading.req = p.req ∧ p.grantReading.chans = p.chans := by
    rw [grantReading_eq]
    exact ⟨rfl, rfl⟩
  obtain ⟨gr, gc⟩ := hg
  have told (s : Vector Byte 16) : Told b (setReq (fun r => { r with seen := s }) p.grantReading) := h.grantReading.aside rfl
  have log : InboxLog m l p.grantReading.mem := by
    rw [grantReading_mem]
    exact hl
  have seen (j : Fin 16) : (updAt k (fun _ => byteAt (inboxBytes m k) 0) p.req.seen)[j] =
      if j ∈ [k] then byteAt (inboxBytes m j) 0 else p.req.seen[j] := by
    by_cases e : k = j
    · subst e
      rw [updAt_self, if_pos (by simp)]
    · rw [updAt_other _ _ _ _ e, if_neg (by simpa using Ne.symm e)]
  rw [intakeInbox_eq, hl.slots]
  generalize hs : (updAt k (fun _ => byteAt (inboxBytes m k) 0) p.req.seen : Vector Byte 16) = s at seen
  have hset : setReq (fun r => { r with seen := updAt k (fun _ => byteAt (inboxBytes m k) 0) r.seen }) p.grantReading =
      setReq (fun r => { r with seen := s }) p.grantReading := by
    rw [← hs, ← gr]
    rfl
  rw [hset]
  have hreq : (setReq (fun r => { r with seen := s }) p.grantReading).req = { p.req with seen := s } := by
    rw [setReq_req, gr]
  have hch : (setReq (fun r => { r with seen := s }) p.grantReading).chans = p.chans := gc
  split
  next he =>
    have nf : inboxFails m p.req.seen k = false := by simp [inboxFails, he]
    have nt : inboxTakes m p.req.seen k = false := by simp [inboxTakes, he]
    refine ⟨h.grantReading, ?_, by rw [gr], fun j => ?_, fun c _ => by rw [gc], fun c j hj _ ht => ?_⟩
    · simpa [List.filter, nf] using hl
    · rw [gr]
      split
      next hj => rw [List.mem_singleton.1 hj, he]
      next => rfl
    · rw [List.mem_singleton.1 hj, nt] at ht
      exact absurd ht (by decide)
  next he =>
    split
    next hx =>
      have nf : inboxFails m p.req.seen k = false := by
        have : xorBytes (inboxBytes m k) = 0 := by simpa [checkHolds] using hx
        simp [inboxFails, this]
      have ht : inboxTakes m p.req.seen k = true := Bool.and_eq_true_iff.2 ⟨bne_iff_ne.2 he, hx⟩
      have hlog := deliverTo_closed (P := fun q => InboxLog m l q.mem)
        (fun c _ hq => inboxChan_shows (inboxLog_showsLoose m l).toShowsTold (inboxFlag (byteAt (inboxBytes m k) 1))
          (leInt32 (((inboxBytes m k).drop 2).take 4)) c hq) .inbox k
        (p := setReq (fun r => { r with seen := s }) p.grantReading) log
      obtain ⟨r1, r2, r3⟩ := deliverInbox_told k (inboxBytes m k) (told s) fun c hn => by
        rw [Fresh, hch]
        exact hc c hn
      rw [hch] at r3
      rw [hreq] at r2
      generalize deliverTo .inbox k (inboxChan (inboxFlag (byteAt (inboxBytes m k) 1)) (leInt32 (((inboxBytes m k).drop 2).take 4)))
        (setReq (fun r => { r with seen := s }) p.grantReading) = u at hlog r1 r2 r3 ⊢
      refine ⟨r1, ?_, by rw [r2], fun j => ?_, fun c hn => ?_, fun c j hj hn _ hk => ?_⟩
      · simpa [List.filter, nf] using hlog
      · rw [r2]
        exact seen j
      · rw [r3, if_neg]
        intro e
        obtain ⟨e1, e2⟩ := Bool.and_eq_true_iff.1 e
        exact absurd (hn k (by simp) e2 ht) (by simp [e1])
      · have ej := List.mem_singleton.1 hj
        subst ej
        rw [r3, hk, hn]
        rfl
    next hx =>
      have hne : xorBytes (inboxBytes m k) ≠ 0 := by simpa [checkHolds] using hx
      have nf : inboxFails m p.req.seen k = true := Bool.and_eq_true_iff.2 ⟨bne_iff_ne.2 he, bne_iff_ne.2 hne⟩
      have nt : inboxTakes m p.req.seen k = false := Bool.and_eq_false_iff.2 (.inr (beq_eq_false_iff_ne.2 hne))
      have hmem : (logCheckFailure 1 k (inboxBytes m k) (setReq (fun r => { r with seen := s }) p.grantReading)).mem =
          (RecordAccess.checkFailure 1 k (inboxBytes p.grantReading.mem k)).effect p.grantReading.mem := by
        rw [log.slots]
        exact request_mem _ _
      refine ⟨(told s).aside rfl, ?_, ?_, fun j => ?_, fun c _ => congrArg (·[c]) hch, fun c j hj _ ht => ?_⟩
      · rw [hmem]
        simpa [List.filter, nf] using log.fail k
      · exact hreq.trans (congrArg (fun r => { p.req with seen := r.seen }) hreq.symm)
      · exact (congrArg (·.seen[j]) hreq).trans (seen j)
      · rw [List.mem_singleton.1 hj, nt] at ht
        exact absurd ht (by decide)

/-- A channel names one inbox slot at most. -/
theorem chanNames_inbox_inj {w : Mem} {c : Fin 32} {j k : Fin 16} (hj : chanNames w c .inbox j = true) (hk : chanNames w c .inbox k = true) :
    j = k := by
  simp only [chanNames, Bool.and_eq_true, beq_iff_eq] at hj hk
  exact Fin.ext (hj.2.symm.trans hk.2)

/-- R17: the inbox slots, one after another. -/
theorem inboxWalk_walked (ks : List (Fin 16)) (hn : ks.Nodup) : ∀ (l : List (Fin 16)) (p : Part), Told b p → InboxLog m l p.mem →
    (∀ c : Fin 32, ∀ k ∈ ks, chanNames b.working c .inbox k = true → Fresh b p c) →
    InboxWalked b m l ks p (forEach ks intakeInbox p) := by
  induction ks with
  | nil =>
    intro l p h hl _
    exact ⟨h, by simpa [forEach] using hl, rfl, fun k => by simp [forEach], fun _ _ => rfl, fun _ _ hk => absurd hk (by simp)⟩
  | cons k ks ih =>
    intro l p h hl hc
    obtain ⟨hk, hn⟩ := List.nodup_cons.1 hn
    obtain ⟨s1, s2, s3, s4, s5, s6⟩ := intakeInbox_walked k h hl fun c e => hc c k (by simp) e
    have ne (j : Fin 16) (hj : j ∈ ks) : ¬ j = k := fun e => hk (e ▸ hj)
    have seen (j : Fin 16) (hj : j ∈ ks) : (intakeInbox k p).req.seen[j] = p.req.seen[j] := by
      rw [s4, if_neg (by simpa using ne j hj)]
    have same (c : Fin 32) (j : Fin 16) (hj : j ∈ ks) (e : chanNames b.working c .inbox j = true) :
        (intakeInbox k p).chans[c] = p.chans[c] := s5 c fun i hi hi' => by
      rw [List.mem_singleton.1 hi] at hi'
      exact absurd (chanNames_inbox_inj e hi') (ne j hj)
    obtain ⟨r1, r2, r3, r4, r5, r6⟩ := ih hn _ (intakeInbox k p) s1 s2 fun c j hj e => by
      rw [Fresh, same c j hj e]
      exact hc c j (by simp [hj]) e
    have takes (j : Fin 16) (hj : j ∈ ks) : inboxTakes m (intakeInbox k p).req.seen j = inboxTakes m p.req.seen j := by
      rw [inboxTakes, inboxTakes, seen j hj]
    have hf : forEach (k :: ks) intakeInbox p = forEach ks intakeInbox (intakeInbox k p) := rfl
    rw [hf]
    generalize forEach ks intakeInbox (intakeInbox k p) = q at r1 r2 r3 r4 r5 r6 ⊢
    refine ⟨r1, ?_, r3.trans (by rw [s3]), fun j => ?_, fun c h0 => ?_, fun c j hj e ht hb => ?_⟩
    · have e : ks.filter (inboxFails m (intakeInbox k p).req.seen) = ks.filter (inboxFails m p.req.seen) :=
        List.filter_congr fun j hj => by rw [inboxFails, inboxFails, seen j hj]
      rw [e, List.append_assoc, ← List.filter_append] at r2
      exact r2
    · rw [r4, s4]
      by_cases e1 : j ∈ ks
      · simp [e1]
      · simp [e1]
    · rw [r5 c fun j hj e ht => h0 j (by simp [hj]) e (by rwa [← takes j hj])]
      exact s5 c fun i hi e ht => h0 i (by rw [List.mem_singleton.1 hi]; simp) e ht
    · rcases List.mem_cons.1 hj with e1 | e1
      · subst e1
        rw [r5 c fun i hi e' _ => absurd (chanNames_inbox_inj e' e) (ne i hi)]
        exact s6 c j (by simp) e ht hb
      · rw [r6 c j e1 e (by rwa [takes j e1]) hb, same c j e1 e]

end Sys2Proof.Machine
end

section
namespace Sys2Proof.Machine

variable {b p q : Part} {m : Mem}

/-! ### A scan that takes no request -/

/-- R15, R23: where the halt stands, or no slot that is read is POSTED, the slot walk reads slots at most. -/
theorem slotWalk_reads (h : p.req.halt = true ∨ ∀ i : Fin 8, p.req.holds[i].isSome ∨ memRead p.mem (0xC0 + 32 * i.val) ≠ 1) :
    forEach allSlots intakeSlot p = p ∨ forEach allSlots intakeSlot p = p.grantReading := by
  have step (i : Fin 8) (q : Part) (hr : q.req = p.req) (hm : q.mem = p.mem) : intakeSlot i q = q ∨ intakeSlot i q = q.grantReading := by
    by_cases hu : q.req.halt = true ∨ q.req.holds[i].isSome
    · exact .inl (intakeSlot_of_unread hu)
    · simp only [not_or, Bool.not_eq_true, Option.isSome_eq_false_iff, Option.isNone_iff_eq_none] at hu
      obtain ⟨hh, hi⟩ := hu
      refine .inr (intakeSlot_of_not_posted hh hi ?_)
      rw [slotBytes, byteAt, memReadN_getD _ _ _ _ (by decide), hm]
      rw [hr] at hh hi
      exact (h.resolve_left (by simp [hh]) i).resolve_left (by simp [hi])
  refine forEach_closed (P := fun q => q = p ∨ q = p.grantReading) (fun i q hq => ?_) allSlots (.inl rfl)
  rcases hq with rfl | rfl
  · exact step i q rfl rfl
  · have hr : p.grantReading.req = p.req := by rw [grantReading_eq]
    refine .inr ((step i p.grantReading hr (grantReading_mem p)).elim id fun e => e.trans (grantReading_grantReading p))

theorem InboxWalked.grantReading {l ks : List (Fin 16)} (h : InboxWalked b m l ks p q) : InboxWalked b m l ks p q.grantReading := by
  have hg : q.grantReading.req = q.req ∧ q.grantReading.chans = q.chans := by
    rw [grantReading_eq]
    exact ⟨rfl, rfl⟩
  obtain ⟨gr, gc⟩ := hg
  obtain ⟨r1, r2, r3, r4, r5, r6⟩ := h
  refine ⟨r1.grantReading, ?_, ?_, ?_, ?_, ?_⟩
  · rw [grantReading_mem]
    exact r2
  · rw [gr]
    exact r3
  · rw [gr]
    exact r4
  · rw [gc]
    exact r5
  · rw [gc]
    exact r6

/-- R15, R17, R22, R89: a scan that takes no request counts, ages the channels, and takes in the inbox. -/
theorem exec_scan_of_no_request {s : State} {sc : PendingScan} (hm : Memory.wf s.exch = true) (hl : s.live = true)
    (hp : s.req.pendingScan = some sc) (hr : s.req.restartSlots = [])
    (hs : (s.req.halt = true ∧ noticeOn s.mem .check = true) ∨
      ∀ i : Fin 8, s.req.holds[i].isSome ∨ memRead s.mem (0xC0 + 32 * i.val) ≠ 1) :
    ∃ p q : Part, exec .exchangeScan s = .next { s with toPart := q } ∧
      p.req = { s.req with pendingScan := none, halt := s.req.halt && noticeOn s.mem .check } ∧
      (∀ c : Fin 32, p.chans[c] = scanAged s.toPart sc c) ∧
      ∀ r : ReqUnit, InboxWalked { s.toPart with req := r }
        (countScan { s.toPart with req := { s.req with pendingScan := none } }).mem [] allInbox p q := by
  have he := scanTaken_eq (p := s.toPart) sc hm
  have hx := exec_exchangeScan hl hp
  rw [runScan_eq] at hx
  let counted : Part := countScan { s.toPart with req := { s.req with pendingScan := none } }
  have ho : agreeOutside (inRecord 0x0C 2) s.mem counted.mem := countScan_agree (p := { s.toPart with req := { s.req with pendingScan := none } }) hm
  have hw : Memory.wf counted.mem = true := mem_wf counted hm
  have aged (r : ReqUnit) := advanceAges_told (b := { s.toPart with req := r }) (p := counted) sc ((Told.refl _).aside rfl) rfl
  have log : InboxLog counted.mem [] (onlyIf sc.periodic (advanceAges sc.time) counted).mem :=
    onlyIf_closed (P := fun q => InboxLog counted.mem [] q.mem)
      (fun _ hq => advanceAges_shows (inboxLog_showsLoose _ _).toShowsTold _ hq) _ (.refl hw)
  have he : scanTaken sc s.toPart = forEach allSlots intakeSlot (forEach allInbox intakeInbox
      { onlyIf sc.periodic (advanceAges sc.time) counted with
        req := { (onlyIf sc.periodic (advanceAges sc.time) counted).req with halt := s.req.halt && noticeOn s.mem .check } }) := he
  generalize onlyIf sc.periodic (advanceAges sc.time) counted = a at aged log he
  have ar : a.req = { s.req with pendingScan := none } := (aged s.req).2.1
  have walked (r : ReqUnit) : InboxWalked { s.toPart with req := r } counted.mem [] allInbox
      { a with req := { a.req with halt := s.req.halt && noticeOn s.mem .check } }
      (forEach allInbox intakeInbox { a with req := { a.req with halt := s.req.halt && noticeOn s.mem .check } }) := by
    obtain ⟨h1, -, h3⟩ := aged r
    exact inboxWalk_walked allInbox (List.nodup_finRange 16) [] _ (h1.aside rfl) log fun c _ _ _ => scanAged_fresh (h3 c)
  have final (r : ReqUnit) : InboxWalked { s.toPart with req := r } counted.mem [] allInbox
      { a with req := { a.req with halt := s.req.halt && noticeOn s.mem .check } } (scanTaken sc s.toPart) := by
    rw [he]
    generalize forEach allInbox intakeInbox { a with req := { a.req with halt := s.req.halt && noticeOn s.mem .check } } = t at walked
    have tr := (walked s.req).req
    have slots := slotWalk_reads (p := t) (by
      rw [tr, ar]
      refine hs.imp (fun h => by simp [h]) fun h i => (h i).imp id fun h1 e => h1 ?_
      rw [← e, (walked s.req).log.own _ (by rw [partByte_iff]; omega)]
      exact (ho _ (by simp only [inRecord]; omega)).symm)
    rcases slots with e | e
    · rw [e]
      exact walked r
    · rw [e]
      exact (walked r).grantReading
  refine ⟨{ a with req := { a.req with halt := s.req.halt && noticeOn s.mem .check } }, scanTaken sc s.toPart, ?_,
    congrArg (fun r : ReqUnit => { r with halt := s.req.halt && noticeOn s.mem .check }) ar, fun c => (aged s.req).2.2 c, final⟩
  have hq : handRestarts (scanTaken sc s.toPart) = scanTaken sc s.toPart := if_pos (by
    rw [(final s.req).req, ar, hr]
    rfl)
  rw [hx, hq]

theorem agesOut_iff (x : Quality) : agesOut x = true ↔ x = .good ∨ x = .held ∨ x = .low ∨ x = .high := by
  cases x <;> decide

theorem chanAges_iff {periodic : Bool} {c : Fin 32} :
    chanAges p periodic c = true ↔ periodic = true ∧ p.channelsTake = true ∧ (chanRec p.working c).kind = .inbox := by
  have hk : chanKind p.working c = (chanRec p.working c).kind := rfl
  simp [chanAges, hk]

theorem chanNames_inbox_iff {w : Mem} {c : Fin 32} {k : Fin 16} :
    chanNames w c .inbox k = true ↔ (chanRec w c).kind = .inbox ∧ (chanRec w c).index = k.val := by
  have hk : chanKind w c = (chanRec w c).kind := rfl
  have hi : readByte w (chanAddr c + 1) = (chanRec w c).index := rfl
  simp [chanNames, hk, hi]

/-- R17: an inbox slot's flag. -/
theorem inboxTaken_cases (w : Mem) (bs : List Byte) (c : Fin 32) (x : Chan) :
    (byteAt bs 1 = 1 → inboxTaken w bs c x = { sampled w c (leInt32 ((bs.drop 2).take 4)) x with age := 0 }) ∧
    (byteAt bs 1 = 2 → inboxTaken w bs c x = { x with quality := .stale, count := 0, age := 0, update := x.update + 1 }) ∧
    (byteAt bs 1 ≠ 1 → byteAt bs 1 ≠ 2 → inboxTaken w bs c x = { x with quality := .fault, count := 0, age := 0, update := x.update + 1 }) := by
  refine ⟨fun h => ?_, fun h => ?_, fun h1 h2 => ?_⟩
  · rw [inboxTaken, h]
    rfl
  · rw [inboxTaken, h]
    rfl
  · rw [inboxTaken, inboxFlag, if_neg h1, if_neg h2]

/-- The check record after an inbox walk (R14). -/
theorem InboxLog.record {l : List (Fin 16)} {n : Mem} (h : InboxLog m l n) (hl : l.length ≤ 16) {k : Fin 16} {rest : List (Fin 16)}
    (e : l = k :: rest) (hc : noticeOn m .check = false) : memReadN n 0x1C0 16 =
      [1, BitVec.ofNat 8 k.val] ++ memReadN n 0x0C 2 ++ inboxBytes m k ++ [BitVec.ofNat 8 rest.length, 0, 0, 0] := by
  obtain ⟨h1, h2, h3⟩ := h.first k rest e hc
  have hr : min 255 rest.length = rest.length := by
    rw [e, List.length_cons] at hl
    omega
  have h4 : memReadN n 0x1CC 4 = memRead n 0x1CC :: memReadN n 0x1CD 3 := rfl
  rw [memReadN_append n 12 4 0x1C0, h1, h4, h2, h3, h.scans, hr]

/-- Settles O34, by the course of the ages and then of the inbox walk. -/
theorem inboxValuesAndAges : Obligations.InboxValuesAndAges := by
  intro s sc hm hl hp hr hs slot isNew r a ages old
  obtain ⟨p, q, hx, hpr, hpc, hw⟩ := exec_scan_of_no_request hm hl hp hr hs
  have hc : agreeOutside (inRecord 0x0C 2) s.mem (countScan { s.toPart with req := { s.req with pendingScan := none } }).mem :=
    countScan_agree (p := { s.toPart with req := { s.req with pendingScan := none } }) hm
  have hcount : (countScan { s.toPart with req := { s.req with pendingScan := none } }).mem =
      memWriteN s.mem 0x0C (leBytes 2 (readNat s.mem 0x0C 2 + 1)) := countScan_mem _
  generalize (countScan { s.toPart with req := { s.req with pendingScan := none } }).mem = m at hw hc hcount
  have out {j k : Nat} (h : 0x0E ≤ j ∨ j + k ≤ 0x0C) : memReadN m j k = memReadN s.mem j k :=
    memReadN_congr fun i hi => hc i (by simp only [inRecord] at hi ⊢; omega)
  have hslot (k : Fin 16) : inboxBytes m k = slot k := out (.inl (by simp only [inboxAddr]; omega))
  have hcheck : noticeOn m .check = noticeOn s.mem .check :=
    noticeOn_congr (fun k hk => hc k (by simp only [noticeByte_iff, inRecord] at hk ⊢; omega)) _
  have hseen : p.req.seen = s.req.seen := by rw [hpr]
  obtain ⟨htold, hlog, hreq, hsn, hrest, htaken⟩ := hw q.req
  have hr' : { s.req with pendingScan := none, halt := s.req.halt && noticeOn s.mem .check, seen := q.req.seen } = q.req := by
    rw [hreq, hpr]
  have hfailed : ([] : List (Fin 16)) ++ allInbox.filter (inboxFails m p.req.seen) =
      (List.finRange 16).filter fun k => byteAt (slot k) 0 != s.req.seen[k] && xorBytes (slot k) != 0 := by
    rw [List.nil_append]
    refine List.filter_congr fun k _ => ?_
    rw [inboxFails, hslot, hseen]
  have htakes (k : Fin 16) : inboxTakes m p.req.seen k = true ↔ isNew k ∧ xorBytes (slot k) = 0 := by
    rw [inboxTakes, hslot, hseen, Bool.and_eq_true, bne_iff_ne, beq_iff_eq]
  rw [hfailed] at hlog
  refine ⟨{ s with toPart := q }, hx, rfl, ⟨?_, ?_, ?_⟩, ?_, fun k => ?_, fun k hk hb => ?_, ⟨fun e => ?_, fun k rest e hn => ?_, fun hn => ?_⟩,
    fun c => ⟨scanAged s.toPart sc c, fun h => ?_, fun h ho => ?_, fun h ho => ?_, fun h => ?_, fun k h1 h2 h3 h4 h5 => ?_⟩⟩
  · dsimp only
    rw [hr']
    exact htold.1
  · exact (hc.mono fun k hk => by simp only [inRecord, partByte_iff] at hk ⊢; omega).trans hlog.own
  · dsimp only
    rw [hr']
    exact htold.2
  · have hb := memReadN_memWriteN s.mem 0x0C (leBytes 2 (readNat s.mem 0x0C 2 + 1)) (mem_wf _ hm)
    rw [leBytes_length, ← hcount] at hb
    exact hlog.scans.trans (hb.trans (leBytes_mod _).symm)
  · rw [← hslot]
    exact (hsn k).trans (if_pos (List.mem_finRange k))
  · refine hlog.check.trans ?_
    have hne : ((List.finRange 16).filter fun k => byteAt (slot k) 0 != s.req.seen[k] && xorBytes (slot k) != 0) ≠ [] :=
      List.ne_nil_of_mem (List.mem_filter.2 ⟨List.mem_finRange k, Bool.and_eq_true_iff.2 ⟨bne_iff_ne.2 hk, bne_iff_ne.2 hb⟩⟩)
    rw [List.isEmpty_eq_false_iff.2 hne]
    simp
  · exact (hlog.clear e).trans (out (.inl (by decide)))
  · have h := hlog.record ((List.length_filter_le _ _).trans (by simp)) e (hcheck.trans hn)
    rw [hslot] at h
    exact h
  · obtain ⟨h1, h2⟩ := hlog.further (hcheck.trans hn)
    exact ⟨h1.trans (out (.inl (by decide))), h2.trans (by rw [hc 0x1CC (by simp only [inRecord]; omega)])⟩
  · rw [scanAged, if_neg (fun e => h (chanAges_iff.1 e))]
  · obtain ⟨hlim, hqual⟩ := ho
    rw [scanAged, if_pos (chanAges_iff.2 h), agedChan]
    exact if_pos ⟨hlim, (agesOut_iff _).2 hqual⟩
  · rw [scanAged, if_pos (chanAges_iff.2 h), agedChan]
    exact if_neg fun e => ho ⟨e.1, (agesOut_iff _).1 e.2⟩
  · refine (hrest c fun k _ e ht => ?_).trans (hpc c)
    obtain ⟨e1, e2⟩ := chanNames_inbox_iff.1 e
    obtain ⟨e3, e4⟩ := (htakes k).1 ht
    exact h k e1 e2 e3 e4
  · have e := htaken c k (List.mem_finRange k) (chanNames_inbox_iff.2 ⟨h1, h2⟩) ((htakes k).2 ⟨h3, h4⟩) h5
    rw [hpc c, hslot] at e
    obtain ⟨hvalid, habsent, hfault⟩ := inboxTaken_cases s.working (slot k) c (scanAged s.toPart sc c)
    exact ⟨fun h => e.trans (hvalid h), fun h => e.trans (habsent h), fun h h' => e.trans (hfault h h')⟩

end Sys2Proof.Machine
end

section
namespace Sys2Proof.Machine

variable {p q : Part}

/-! ## SHOW_PAGE and SNAPSHOT -/

theorem execPart_showPage {i : Fin 8} (page : Byte) (h : requestTaken i p = true) :
    execPart (.showPage i page) p = answerReply i (rowBytes i 10 [page] p) (showPage page p.grantReading) := if_pos h

theorem execPart_snapshot {i : Fin 8} (page : Byte) (h : requestTaken i p = true) :
    execPart (.snapshot i page) p = answerReply i (rowBytes i 11 [page] p) (snapshot page p.grantReading) := if_pos h

/-- R178: the three outcomes of SHOW_PAGE. -/
theorem showPage_unconfigured (page : Byte) (h : p.ctl.op = .unconfigured) : showPage page p = refuse 3 p := if_pos h

theorem showPage_badParam {page : Byte} (h : p.ctl.op ≠ .unconfigured) (hp : 12 ≤ page.toNat) : showPage page p = refuse 2 p := by
  rw [showPage, if_neg h, if_pos (show 11 < page.toNat by omega)]
  rfl

theorem showPage_accepted {page : Byte} (h : p.ctl.op ≠ .unconfigured) (hp : page.toNat < 12) :
    showPage page p = accept { p with panel := { p.panel with basePage := page.toNat } } := by
  rw [showPage, if_neg h, if_neg (show ¬ 11 < page.toNat by omega)]
  rfl

/-- R28: SNAPSHOT of a page that there is not. -/
theorem snapshot_badParam {page : Byte} (hp : 3 ≤ page.toNat) : snapshot page p = refuse 2 p :=
  if_neg (show ¬ page.toNat ≤ 2 by omega)

/-! ### The diagnostic window (R28 to R30) -/

/-- Equal parts one after another: each is found at its place. -/
theorem flatMap_part {α : Type} {f : α → List Byte} {n : Nat} (hf : ∀ x, (f x).length = n) : ∀ (xs : List α) (k : Nat) (hk : k < xs.length),
    ((xs.flatMap f).drop (n * k)).take n = f xs[k]
  | x :: xs, 0, _ => by
    rw [Nat.mul_zero, List.drop_zero, List.flatMap_cons, List.take_left' (hf x)]
    rfl
  | x :: xs, k + 1, hk => by
    have hd : n * (k + 1) = (f x).length + n * k := by rw [hf]; ring
    rw [List.flatMap_cons, hd, List.drop_length_add_append]
    exact flatMap_part hf xs k (Nat.lt_of_succ_lt_succ hk)

/-- The heading of the window: page, scan count and operating state. -/
def diagHeading (page : Byte) (p : Part) : List Byte := [page, memRead p.mem 0x0C, memRead p.mem 0x0D, p.ctl.op.code]

theorem diagWindow_eq (page : Byte) (p : Part) :
    diagWindow page p = diagHeading page p ++ (pageBytes page p ++ zeros (252 - (pageBytes page p).length)) := by
  have hs : leBytes 2 (scanCount p.mem) = [memRead p.mem 0x0C, memRead p.mem 0x0D] := leBytes_readNat _ _ _
  have hl : 256 - ((pageBytes page p).length + 1 + 1 + 1 + 1) = 252 - (pageBytes page p).length := by omega
  rw [diagWindow, hs]
  simp [diagHeading, hl]

/-- The bytes of a memory that holds the window at its address. -/
theorem window_heading {m : Mem} {page : Byte} (h : memReadN m 0x200 256 = diagWindow page p) :
    memReadN m 0x200 4 = diagHeading page p := by
  have := memReadN_within m 0x200 (j := 0) (k := 4) (n := 256) (by omega)
  rw [h, diagWindow_eq] at this
  exact this

theorem window_page {m : Mem} {page : Byte} (h : memReadN m 0x200 256 = diagWindow page p) :
    memReadN m 0x204 252 = pageBytes page p ++ zeros (252 - (pageBytes page p).length) := by
  have := memReadN_within m 0x200 (j := 4) (k := 252) (n := 256) (by omega)
  rw [h, diagWindow_eq, List.drop_left' (by rfl)] at this
  refine this.trans (List.take_of_length_le ?_)
  have := pageBytes_length page p
  simp
  omega

/-- A page of equal parts: each at its place, and 0x00 behind them. -/
theorem window_parts {α : Type} {f : α → List Byte} {n : Nat} (hf : ∀ x, (f x).length = n) {xs : List α} {m : Mem} {c : Nat}
    (hx : n * xs.length + c = 252) (h : memReadN m 0x204 252 = xs.flatMap f ++ zeros (252 - (xs.flatMap f).length)) :
    memReadN m (0x204 + n * xs.length) c = zeros c ∧ ∀ (k : Nat) (hk : k < xs.length), memReadN m (0x204 + n * k) n = f xs[k] := by
  have hl : (xs.flatMap f).length = n * xs.length := by
    rw [List.length_flatMap]
    simp [hf, Nat.mul_comm]
  rw [hl, show 252 - n * xs.length = c by omega] at h
  refine ⟨?_, fun k hk => ?_⟩
  · rw [memReadN_within m 0x204 (n := 252) (by omega), h, List.drop_left' hl]
    simp
  · have hb : n * k + n ≤ n * xs.length := by
      rw [← Nat.mul_succ]
      exact Nat.mul_le_mul_left n hk
    rw [memReadN_within m 0x204 (n := 252) (by omega), h, List.drop_append_of_le_length (by omega),
      List.take_append_of_le_length (by rw [List.length_drop]; omega), flatMap_part hf xs k hk]

/-- R28, R31: what SNAPSHOT makes of the part and of the window. -/
theorem snapshot_window {page : Byte} (hm : Memory.wf p.exch = true) (hp : page.toNat < 3) :
    ∃ q : Part, snapshot page p.grantReading = accept q ∧ q = { p with exch := q.exch, arb := q.arb } ∧
      agreeOutside (inRecord 0x200 256) p.mem q.mem ∧ memReadN q.mem 0x200 256 = diagWindow page p := by
  have hw := mem_wf p hm
  have he := storeRun_mem p.grantReading 0x200 (diagWindow page p) (by rw [Part.grantReading_exch]; exact hw)
  have hl := diagWindow_length page p
  have ha := agreeOutside_memWriteN (a := 0x200) (bs := diagWindow page p) hw
  rw [hl] at ha
  rw [grantReading_mem] at he
  rw [← he] at ha
  refine ⟨p.grantReading.storeRun 0x200 (diagWindow page p), ?_, ?_, ha, ?_⟩
  · rw [snapshot_eq hp, diagWindow_grantReading]
  · rw [storeRun_eq, grantReading_eq]
  · rw [he, ← hl]
    exact memReadN_memWriteN _ _ _ hw

/-- R30, R120: a used pointer on page 1, and an unused one. -/
theorem pointerEntry_used {n : Fin 6} (h : ptrUsed p.working n = true) : pointerEntry p n =
    leBytes 2 (if p.ptrs[n].state = .homing then 0xFFFF else p.ptrs[n].pos) ++ leBytes 2 p.ptrs[n].target ++
      [BitVec.ofInt 8 p.ptrs[n].speed, p.ptrs[n].state.code, if p.ptrs[n].homeNeeded then 0 else 1, 0] := by
  simp only [pointerEntry, h, if_true]
  cases p.ptrs[n].homeNeeded <;> rfl

theorem pointerEntry_unused {n : Fin 6} (h : ptrUsed p.working n = false) : pointerEntry p n =
    [0, 0, 0, 0, 0, 0, if p.ptrs[n].homeNeeded then 0 else 1, 0] := by
  simp only [pointerEntry, h, Bool.false_eq_true, if_false]
  cases p.ptrs[n].homeNeeded <;> rfl

/-- Settles O18: SHOW_PAGE by its three outcomes; SNAPSHOT's window, page by page. -/
theorem pagesAreShownAndCopied : Obligations.PagesAreShownAndCopied := by
  refine ⟨fun s i page ht => ?_, fun s i page hm ht => ?_⟩
  · have hx : exec (.showPage i page) s = .next { s with toPart := answerReply i (rowBytes i 10 [page] s.toPart) (showPage page s.toPart.grantReading) } :=
      (exec_eq _ s).trans (by rw [execPart_showPage page ht])
    by_cases hu : s.ctl.op = .unconfigured
    · rw [showPage_unconfigured page (by exact hu)] at hx
      exact ⟨3, _, hx, fun _ => ⟨rfl, rfl⟩, fun h => absurd hu h, fun h => absurd hu h⟩
    rcases Nat.lt_or_ge page.toNat 12 with hp | hp
    · rw [showPage_accepted (by exact hu) hp] at hx
      exact ⟨0, _, hx, fun h => absurd h hu, fun _ h => absurd hp (Nat.not_lt.2 h), fun _ _ => ⟨rfl, rfl⟩⟩
    · rw [showPage_badParam (by exact hu) hp] at hx
      exact ⟨2, _, hx, fun h => absurd h hu, fun _ _ => ⟨rfl, rfl⟩, fun _ h => absurd h (Nat.not_lt.2 hp)⟩
  · have hx : exec (.snapshot i page) s = .next { s with toPart := answerReply i (rowBytes i 11 [page] s.toPart) (snapshot page s.toPart.grantReading) } :=
      (exec_eq _ s).trans (by rw [execPart_snapshot page ht])
    rcases Nat.lt_or_ge page.toNat 3 with hp | hp
    · obtain ⟨q, hs, hq, hb, hwin⟩ := snapshot_window hm hp
      rw [hs] at hx
      refine ⟨0, q, hx, fun h => absurd hp (Nat.not_lt.2 h), fun _ => ⟨rfl, hq, hb, window_heading hwin, fun h => ?_, fun h => ?_, fun h => ?_⟩⟩
      · subst h
        have hpage : pageBytes 0 s.toPart = inputsPage s.toPart := rfl
        rw [window_page hwin, hpage, packedList_length, inputsPage, List.flatMap_def, List.flatMap_def]
        rfl
      · subst h
        obtain ⟨h1, h2⟩ := window_parts (xs := allPtrs) (c := 204) (pointerEntry_length s.toPart) rfl (window_page hwin)
        refine ⟨h1, fun n => ?_⟩
        have hn := h2 n (by simp [allPtrs])
        rw [show allPtrs[n.val]'(by simp [allPtrs]) = n by simp [allPtrs]] at hn
        exact ⟨fun h => hn.trans (pointerEntry_used h), fun h => hn.trans (pointerEntry_unused h)⟩
      · subst h
        obtain ⟨h1, h2⟩ := window_parts (xs := s.lamps.toList) (f := lampEntry) (n := 4) (c := 124) (fun _ => rfl) (by simp)
          (window_page hwin)
        rw [Vector.length_toList] at h1
        exact ⟨h1, fun n => (h2 n (by simp)).trans (by simp [lampEntry, flagByte])⟩
    · rw [snapshot_badParam hp] at hx
      exact ⟨2, _, hx, fun _ => ⟨rfl, rfl⟩, fun h => absurd h (Nat.not_lt.2 hp)⟩

end Sys2Proof.Machine
end

section
namespace Sys2Proof.Machine

variable {p q : Part}

/-! ## Long requests -/

/-! ### The TAKEN mark (R23) -/

/-- R23: the part once the intake access of a long request has marked its slot, or has only read it. -/
def slotTakenUp (i : Fin 8) (taken : List Byte) (p : Part) : Part :=
  onlyIf (memRead p.mem (slotAddr i) == slotPosted) (markTaken i taken) p.grantReading

theorem longRow_taken {i : Fin 8} (kind : Byte) (params : List Byte) (act : List Byte → Part → Part) (h : requestTaken i p = true) :
    longRow i kind params act p = act (rowBytes i kind params p) (slotTakenUp i (rowBytes i kind params p) p) := if_pos h

theorem rowBytes_length (i : Fin 8) (kind : Byte) {params : List Byte} (h : params.length ≤ 28) (p : Part) :
    (rowBytes i kind params p).length = 32 := by
  simp [rowBytes, overBytes, slotBytes]
  omega

/-- The mark asks for one access behind what waits, so a reading access before it changes nothing. -/
theorem slotTakenUp_eq_ite (i : Fin 8) (taken : List Byte) (p : Part) : slotTakenUp i taken p =
    if memRead p.mem (0xC0 + 32 * i.val) = 1 then markTaken i taken p else p.grantReading := by
  have ha : 0xC0 + 32 * i.val = slotAddr i := rfl
  rw [ha]
  by_cases h : memRead p.mem (slotAddr i) = 1
  · rw [slotTakenUp, if_pos h, show (memRead p.mem (slotAddr i) == slotPosted) = true from beq_iff_eq.2 h, onlyIf_true]
    simp [markTaken, grantAll_eq, grantReading_eq, Part.store, Part.request, Part.mem, grantAccesses_append]
  · rw [slotTakenUp, if_neg h, show (memRead p.mem (slotAddr i) == slotPosted) = false from beq_false_of_ne h, onlyIf_false]

theorem restartRequest_unheld (i : Fin 8) (taken : List Byte) (q : Part) : q = { restartRequest i taken q with req := q.req } := rfl

/-- R23: the mark is all that the intake access leaves. -/
theorem slotTakenUp_eq (i : Fin 8) {taken : List Byte} (hm : Memory.wf p.exch = true) (ht : taken.length = 32) : ∃ m,
    slotTakenUp i taken p = { p with exch := m, arb := { p.arb with last := .record, waiting := [] } } ∧ Memory.wf m = true ∧
      slotMarked i taken p.mem m ∧ agreeOutside (inRecord (0xC0 + 32 * i.val) 32) p.mem m := by
  obtain ⟨m, h, he, hw, hs, ha⟩ := restartTaken_eq i hm ht
  have hreq : (slotTakenUp i taken p).req = p.req := 
    onlyIf_closed (P := fun q => q.req = p.req) (f := markTaken i taken) (fun _ hq => hq) _ rfl
  have hr : restartTaken i taken p = restartRequest i taken (slotTakenUp i taken p) := rfl
  have hq := restartRequest_unheld i taken (slotTakenUp i taken p)
  rw [← hr, he, hreq] at hq
  exact ⟨m, hq, hw, hs, ha⟩

/-! ### Pointers one after another -/

theorem forEach_closed_mem {α : Type} {P : Part → Prop} {f : α → Part → Part} {is : List α} (hf : ∀ i ∈ is, ∀ p, P p → P (f i p)) :
    ∀ {p : Part}, P p → P (forEach is f p) := by
  induction is with
  | nil => exact fun hp => hp
  | cons i is ih => exact fun hp => ih (fun j hj => hf j (List.mem_cons_of_mem _ hj)) (hf i List.mem_cons_self _ hp)

/-- Operations that each change one pointer, and the memory, leave each of their pointers changed and nothing else. -/
theorem forEach_ptrs {f : Fin 6 → Part → Part} {g : Fin 6 → Ptr → Ptr} (is : List (Fin 6)) :
    ∀ {p : Part}, (∀ i q, PtrsTold p q → PtrsTold q (f i q) ∧ (f i q).ptrs = updAt i (g i) q.ptrs) →
      PtrsTold p (forEach is f p) ∧ (forEach is f p).ptrs = is.foldl (fun v i => updAt i (g i) v) p.ptrs := by
  induction is with
  | nil => exact fun _ => ⟨rfl, rfl⟩
  | cons i is ih =>
    intro p hf
    obtain ⟨h1, h2⟩ := hf i p rfl
    obtain ⟨h3, h4⟩ := ih (p := f i p) fun j q hq => hf j q (h1.trans hq)
    exact ⟨h1.trans h3, h4.trans (by rw [h2, List.foldl_cons])⟩

/-! ### Homings begin (R110) -/

/-- R110: a pointer whose homing begins; a dip holds its pending duties. -/
def Ptr.homingBegun (w : Mem) (dip : Bool) (i : Fin 6) (x : Ptr) : Ptr :=
  { x with
    state := .homing, homeNeeded := true, speed := 0, target := 0, stepsLeft := homingSteps w i, phase := homingSteps w i % 24
    pending := if dip then x.pending else dutyOf (homingSteps w i % 24) }

theorem homingBegin_eq (i : Fin 6) (p : Part) : homingBegin i p = rewritePtr i (setPtr i (Ptr.homingBegun p.working p.inDip i) p) := by
  rw [homingBegin, applyPhase, setPtr_setPtr]
  rfl

theorem homingBegin_told (i : Fin 6) (p : Part) : PtrsTold p (homingBegin i p) ∧
    (homingBegin i p).ptrs = updAt i (Ptr.homingBegun p.working p.inDip i) p.ptrs := by
  rw [homingBegin_eq]
  exact ⟨rfl, rfl⟩

/-- R110: homings begin, one for each pointer. -/
theorem homingsBegin_told {is : List (Fin 6)} (hn : is.Nodup) (p : Part) : PtrsTold p (forEach is homingBegin p) ∧
    ∀ i : Fin 6, (forEach is homingBegin p).ptrs[i] = if i ∈ is then p.ptrs[i].homingBegun p.working p.inDip i else p.ptrs[i] := by
  have hf (i : Fin 6) (q : Part) (hq : PtrsTold p q) : PtrsTold q (homingBegin i q) ∧
      (homingBegin i q).ptrs = updAt i (Ptr.homingBegun p.working p.inDip i) q.ptrs := by
    have hw : q.working = p.working ∧ q.inDip = p.inDip := by
      rw [hq]
      exact ⟨rfl, rfl⟩
    rw [← hw.1, ← hw.2]
    exact homingBegin_told i q
  obtain ⟨h1, h2⟩ := forEach_ptrs is hf
  exact ⟨h1, fun i => by rw [h2, foldl_updAt _ is _ i hn]⟩

/-- The bytes of the records of these pointers (Table 11-8). -/
def ptrBytes (A : Fin 6 → Prop) (k : Nat) : Prop := ∃ j, A j ∧ inRecord (0x500 + 16 * j.val) 16 k

/-- A pointer's record is rewritten, and nothing beside it. -/
theorem rewritePtr_agree (i : Fin 6) (hm : Memory.wf p.exch = true) :
    agreeOutside (inRecord (0x500 + 16 * i.val) 16) p.mem (rewritePtr i p).mem := by
  have h := agreeOutside_memWriteN (a := ptrResultAddr i) (bs := editioned p.mem (ptrResultAddr i) (ptrBody p.ptrs[i])) (mem_wf p hm)
  rw [← Part.store_mem, editioned_length, ptrBody_length] at h
  exact h

/-- The memory of `q` is canonical, and that of `m` outside these bytes. -/
def WroteIn (A : Nat → Prop) (m : Mem) (q : Part) : Prop := Memory.wf q.exch = true ∧ agreeOutside A m q.mem

theorem homingBegin_wrote {A : Nat → Prop} {m : Mem} (i : Fin 6) (hA : ∀ k, inRecord (0x500 + 16 * i.val) 16 k → A k) (h : WroteIn A m p) :
    WroteIn A m (homingBegin i p) := by
  rw [homingBegin_eq]
  exact ⟨h.1, h.2.trans ((rewritePtr_agree i (p := setPtr i (Ptr.homingBegun p.working p.inDip i) p) h.1).mono hA)⟩

theorem homingsBegin_wrote (is : List (Fin 6)) (hm : Memory.wf p.exch = true) : WroteIn (ptrBytes (· ∈ is)) p.mem (forEach is homingBegin p) :=
  forEach_closed_mem (P := WroteIn (ptrBytes (· ∈ is)) p.mem) (fun i hi _ hq => homingBegin_wrote i (fun _ hk => ⟨i, hi, hk⟩) hq)
    ⟨hm, agreeOutside.refl _ _⟩

/-! ### HOME_POINTER (R113) -/

theorem mem_namedPtrs {w : Mem} {which : Byte} {j : Fin 6} :
    j ∈ namedPtrs w which ↔ ptrUsed w j = true ∧ (which = 0xFF ∨ which.toNat = j.val) := by
  simp [namedPtrs, allPtrs]

section
variable {i : Fin 8} {taken : List Byte} {which : Byte}

/-- R113: the judgements of HOME_POINTER, in their order. -/
theorem homePointer_unconfigured (h : p.ctl.op = .unconfigured) : homePointer i taken which p = answerTaken i taken 3 [] p := if_pos h

theorem homePointer_badParam (h : p.ctl.op ≠ .unconfigured) (hn : ∀ j, j ∉ namedPtrs p.working which) :
    homePointer i taken which p = answerTaken i taken 2 [] p := by
  rw [homePointer, if_neg h, if_pos (List.isEmpty_iff.2 (List.eq_nil_iff_forall_not_mem.2 hn))]
  rfl

/-- What is judged of the pointers named, where there are some. -/
theorem homePointer_named (h : p.ctl.op ≠ .unconfigured) (hn : ∃ j, j ∈ namedPtrs p.working which) : homePointer i taken which p =
    if (namedPtrs p.working which).any (fun (j : Fin 6) => p.ptrs[j].state == .homing) then answerTaken i taken 9 [] p
    else if p.ctl.op ≠ .run then answerTaken i taken 3 [] p
    else if p.acct.moving then answerTaken i taken 4 [] p
    else forEach (namedPtrs p.working which) homingBegin
      (setHomeReqs (p.homeReqs ++ [{ slot := i, left := namedPtrs p.working which }]) (holdSlot i taken p)) := by
  obtain ⟨j, hj⟩ := hn
  rw [homePointer, if_neg h, if_neg fun e => List.ne_nil_of_mem hj (List.isEmpty_iff.1 e)]
  rfl

theorem homePointer_busy (h : p.ctl.op ≠ .unconfigured) (hh : ∃ j : Fin 6, j ∈ namedPtrs p.working which ∧ p.ptrs[j].state = .homing) :
    homePointer i taken which p = answerTaken i taken 9 [] p := by
  obtain ⟨j, hj, hs⟩ := hh
  have ha : (namedPtrs p.working which).any (fun (j : Fin 6) => p.ptrs[j].state == .homing) = true :=
    List.any_eq_true.2 ⟨j, hj, by rw [hs]; rfl⟩
  rw [homePointer_named h ⟨j, hj⟩, if_pos ha]

/-- What is judged of the part, where none of the pointers named is homing. -/
theorem homePointer_idle (h : p.ctl.op ≠ .unconfigured) (hn : ∃ j, j ∈ namedPtrs p.working which)
    (hh : ¬ ∃ j : Fin 6, j ∈ namedPtrs p.working which ∧ p.ptrs[j].state = .homing) : homePointer i taken which p =
    if p.ctl.op ≠ .run then answerTaken i taken 3 [] p
    else if p.acct.moving then answerTaken i taken 4 [] p
    else forEach (namedPtrs p.working which) homingBegin
      (setHomeReqs (p.homeReqs ++ [{ slot := i, left := namedPtrs p.working which }]) (holdSlot i taken p)) := by
  have ha : ¬ (namedPtrs p.working which).any (fun (j : Fin 6) => p.ptrs[j].state == .homing) = true := fun e => by
    obtain ⟨j, hj, hs⟩ := List.any_eq_true.1 e
    exact hh ⟨j, hj, beq_iff_eq.1 hs⟩
  rw [homePointer_named h hn, if_neg ha]

/-- R25, R110, R113: what an accepted HOME_POINTER makes of the part. -/
theorem homingsRequested_eq (hm : Memory.wf p.exch = true) :
    let l := namedPtrs p.working which
    let q := forEach l homingBegin (setHomeReqs (p.homeReqs ++ [{ slot := i, left := l }]) (holdSlot i taken p))
    q = { p with
        exch := q.exch, arb := q.arb, ptrs := q.ptrs, homeReqs := p.homeReqs ++ [{ slot := i, left := l }]
        req := { p.req with holds := updAt i (fun _ => some { taken := taken }) p.req.holds } } ∧
      (∀ j : Fin 6, q.ptrs[j] = if j ∈ l then p.ptrs[j].homingBegun p.working p.inDip j else p.ptrs[j]) ∧
      agreeOutside (ptrBytes (· ∈ l)) p.mem q.mem := by
  intro l q
  obtain ⟨h1, h2⟩ := homingsBegin_told (is := l) ((List.nodup_finRange 6).filter _)
    (setHomeReqs (p.homeReqs ++ [{ slot := i, left := l }]) (holdSlot i taken p))
  have h3 := homingsBegin_wrote l (p := setHomeReqs (p.homeReqs ++ [{ slot := i, left := l }]) (holdSlot i taken p)) hm
  exact ⟨h1, h2, h3.2⟩

end

/-- A row of a long kind runs on the part with its slot taken. -/
theorem exec_homePointer {s : State} (i : Fin 8) (which : Byte) (h : requestTaken i s.toPart = true) :
    exec (.homePointer i which) s = .next { s with
      toPart := homePointer i (rowBytes i 9 [which] s.toPart) which (slotTakenUp i (rowBytes i 9 [which] s.toPart) s.toPart) } := by
  have hp : execPart (.homePointer i which) s.toPart = _ := longRow_taken 9 [which] (fun t => homePointer i t which) h
  rw [exec_eq, hp]

/-- Settles O20: the TAKEN mark; the judgements, each where those before it pass; the homings that are begun. -/
theorem homePointerIsJudged : Obligations.HomePointerIsJudged := by
  intro s i which hm ht taken marked refusedWith named homes
  have hx := exec_homePointer i which ht
  have hmarked : marked = slotTakenUp i taken s.toPart := (slotTakenUp_eq_ite i taken s.toPart).symm
  obtain ⟨m, he, hw, hs, ha⟩ := slotTakenUp_eq i hm (rowBytes_length i 9 (params := [which]) (Nat.le_add_left 1 27) s.toPart) (taken := taken)
  have hnamed (j : Fin 6) : named j ↔ j ∈ namedPtrs s.working which := mem_namedPtrs.symm
  have hmem : marked.mem = m := by rw [hmarked, he]; rfl
  have hkept : marked.ctl = s.ctl ∧ marked.working = s.working ∧ marked.ptrs = s.ptrs ∧ marked.acct = s.acct := by
    rw [hmarked, he]
    exact ⟨rfl, rfl, rfl, rfl⟩
  obtain ⟨hctl, hwork, hptrs, hacct⟩ := hkept
  have hop (o : OpState) : marked.ctl.op = o ↔ s.ctl.op = o := by rw [hctl]
  have hq : exec (.homePointer i which) s = .next { s with toPart := homePointer i taken which marked } := by
    rw [hmarked]
    exact hx
  have refuse {st : Byte} (h : homePointer i taken which marked = answerTaken i taken st [] marked) : refusedWith st := by
    rw [h] at hq
    exact hq
  have hsome (h : ∃ j, named j) : ∃ j, j ∈ namedPtrs marked.working which := by
    obtain ⟨j, hj⟩ := h
    exact ⟨j, hwork ▸ (hnamed j).1 hj⟩
  have hidle (h : ¬ homes) : ¬ ∃ j : Fin 6, j ∈ namedPtrs marked.working which ∧ marked.ptrs[j].state = .homing := by
    rintro ⟨j, hj, hs⟩
    exact h ⟨j, (hnamed j).2 (hwork ▸ hj), hptrs ▸ hs⟩
  rw [hmem]
  refine ⟨hs, ha, fun h => refuse ?_, fun h hn => refuse ?_, fun h hh => refuse ?_, fun h hn hh hr => refuse ?_,
    fun hn hh hr hmov => refuse ?_, fun hn hh hr hmov => ?_⟩
  · exact homePointer_unconfigured ((hop _).2 h)
  · refine homePointer_badParam (mt (hop _).1 h) fun j hj => hn j ((hnamed j).2 ?_)
    rwa [hwork] at hj
  · obtain ⟨j, hj, hst⟩ := hh
    exact homePointer_busy (mt (hop _).1 h) ⟨j, by rw [hwork]; exact (hnamed j).1 hj, by rw [hptrs]; exact hst⟩
  · rw [homePointer_idle (mt (hop _).1 h) (hsome hn) (hidle hh), if_pos (mt (hop _).1 hr)]
  · rw [homePointer_idle (by simp [hctl, hr]) (hsome hn) (hidle hh), if_neg (by simp [hctl, hr]), if_pos (by rw [hacct]; exact hmov)]
  · rw [homePointer_idle (by simp [hctl, hr]) (hsome hn) (hidle hh), if_neg (by simp [hctl, hr]), if_neg (by simp [hacct, hmov])] at hq
    obtain ⟨h1, h2, h3⟩ := homingsRequested_eq (p := marked) (i := i) (taken := taken) (which := which) (by rw [hmarked, he]; exact hw)
    generalize forEach (namedPtrs marked.working which) homingBegin _ = q at hq h1 h2 h3
    rw [hwork, hptrs, show marked.inDip = s.inDip from by rw [hmarked, he]; rfl] at h2
    rw [hmem] at h3
    rw [hmarked, he] at h1
    have hslot (k : Nat) (j : Fin 6) : inRecord (0x500 + 16 * j.val) 16 k → ¬ inRecord (0xC0 + 32 * i.val) 32 k := by
      simp only [inRecord]
      omega
    refine ⟨{ s with toPart := q }, hq, ?_, ?_, fun j hj => ?_, ⟨namedPtrs s.working which, by rw [h1], fun j => (hnamed j).symm⟩,
      fun j hj => ?_, fun j hj => ?_, slotMarked_of_agree hs h3 fun k hk => ?_, (ha.mono fun _ hk => .inr hk).trans (h3.mono fun k hk => .inl ?_)⟩
    · rw [h1]
    · rw [h1]
      exact updAt_self ..
    · rw [h1]
      exact updAt_other _ _ _ _ hj.symm
    · exact (h2 j).trans (if_neg (mt (hnamed j).2 hj))
    · exact (h2 j).trans (if_pos ((hnamed j).1 hj))
    · obtain ⟨j, -, hj⟩ := hk
      exact hslot k j hj
    · obtain ⟨j, hn, hj⟩ := hk
      exact ⟨j, (hnamed j).2 (hwork ▸ hn), hj⟩

end Sys2Proof.Machine
end

section
namespace Sys2Proof.Machine

variable {p q r : Part}

/-! ## A proving cycle begins -/

/-! ### What the accesses of the blocks keep of the memory (R7) -/

/-- What record accesses clear of the request slots keep of the memory is kept by whatever asks for no others. -/
theorem inputClosed_of_effects {Q : Mem → Prop} (h : ∀ m x, blockAccess x → (∀ k, slotByte k → x.avoids k) → Q m → Q (x.effect m)) :
    InputClosed fun p => Q p.mem where
  store p a bs hb hp := by
    rw [Part.store_mem]
    refine h _ (.write a bs) (.inl hb) (fun k hk => ?_) hp
    simp only [ownRecord] at hb
    simp only [slotByte_iff] at hk
    simp only [RecordAccess.avoids]
    omega
  notice p n hp := by
    rw [show (setNotice n p).mem = _ from request_mem p (.notice n)]
    refine h _ (.notice n) trivial (fun k hk => ?_) hp
    simp only [slotByte_iff] at hk
    simp only [RecordAccess.avoids]
    omega
  check p area slot bytes hb hp := by
    rw [show (logCheckFailure area slot bytes p).mem = _ from request_mem p (.checkFailure area slot bytes)]
    refine h _ (.checkFailure area slot bytes) hb (fun k hk => ?_) hp
    simp only [slotByte_iff] at hk
    simp only [RecordAccess.avoids]
    omega
  jour _ _ hp := hp
  lamps _ _ hp := hp
  lampU _ _ hp := hp
  chime _ _ hp := hp
  panel _ _ hp := hp
  ptrs _ _ hp := hp
  acct _ _ hp := hp
  chans _ _ hp := hp
  conv _ _ hp := hp
  free _ _ hp := hp
  pulse _ _ hp := hp
  sw _ _ hp := hp

/-- The memory is canonical, and that of `m` but for the part's own bytes. -/
def OwnWrites (m n : Mem) : Prop := Memory.wf n = true ∧ agreeOutside partByte m n

theorem OwnWrites.refl {m : Mem} (h : Memory.wf m = true) : OwnWrites m m := ⟨h, .refl _ _⟩

theorem ownWrites_inputClosed (m : Mem) : InputClosed fun p => OwnWrites m p.mem :=
  inputClosed_of_effects fun n x hx hs ⟨hn, h⟩ => ⟨effect_wf x n hn, h.trans fun k hk => memRead_effect_out x k n hn (by
    by_cases hk' : slotByte k
    · exact hs k hk'
    · exact blockAccess_avoids hx (not_or.2 ⟨hk, hk'⟩))⟩

/-! ### Modes composed anew (R133, R136) -/

/-- Between `p` and `q` nothing has changed but the lamps and the memory. -/
def LampsTold (p q : Part) : Prop := q = { p with exch := q.exch, arb := q.arb, lamps := q.lamps }

theorem LampsTold.trans (h : LampsTold p q) (h' : LampsTold q r) : LampsTold p r := by
  refine Eq.trans h' ?_
  rw [h]

theorem LampsTold.only (h : LampsTold p q) : LampsOnly p q := by
  refine Eq.trans h ?_
  rw [h]

theorem updLamp_told (i : Fin 32) (f : Lamp → Lamp) (p : Part) :
    LampsTold p (updLamp i f p) ∧ (updLamp i f p).lamps = updAt i f p.lamps :=
  onlyIf_closed (P := fun q => LampsTold p q ∧ q.lamps = updAt i f p.lamps) (fun q ⟨h, hl⟩ => ⟨h.trans (r := rewriteLamp i q) rfl, hl⟩) _
    ⟨rfl, rfl⟩

/-- A lamp whose output takes its present level (R135, R137). -/
def drivenLamp (p : Part) (i : Fin 32) (l : Lamp) : Lamp :=
  if p.inDip then l
  else { l with lit := modeLit p.lampU l.mode, pending := if modeLit p.lampU l.mode then litDuty p i else 0 }

/-- A lamp with its mode composed anew (R133, R138). -/
def composedLamp (p : Part) (i : Fin 32) (l : Lamp) : Lamp :=
  drivenLamp p i (if l.mode = .unlit ∧ composedMode p i ≠ .unlit then { l with mode := composedMode p i, sense := .none, lowCount := 0 }
    else { l with mode := composedMode p i })

theorem driveLamp_eq (i : Fin 32) (p : Part) : driveLamp i p = setLamp i (drivenLamp p i) p := by
  unfold driveLamp drivenLamp
  split
  · exact (congrArg (fun ls => { p with lamps := ls }) (Vector.set_getElem_self _)).symm
  · exact setLamp_congr rfl

theorem composeLamp_told (i : Fin 32) (p : Part) :
    LampsTold p (composeLamp i p) ∧ (composeLamp i p).lamps = updAt i (composedLamp p i) p.lamps := by
  obtain ⟨h, hl⟩ := updLamp_told i (fun l => if l.mode = .unlit ∧ composedMode p i ≠ .unlit then
    { l with mode := composedMode p i, sense := .none, lowCount := 0 } else { l with mode := composedMode p i }) p
  have he : composeLamp i p = driveLamp i _ := rfl
  rw [he, driveLamp_eq]
  generalize updLamp i _ p = q at h hl ⊢
  refine ⟨h.trans rfl, ?_⟩
  rw [setLamp_lamps, hl, h]
  simp only [updAt, Vector.set_set, Fin.getElem_fin, Vector.getElem_set_self]
  rfl

/-- A mode is composed from the lamp's state and diagnosis, the configuration and the State Controller's fields. -/
theorem composedMode_congr {i : Fin 32} (hw : q.working = p.working) (hc : q.ctl = p.ctl) (hs : q.lamps[i].state = p.lamps[i].state)
    (hd : q.lamps[i].diag = p.lamps[i].diag) : composedMode q i = composedMode p i := by
  simp only [composedMode, lampForced, lampEligible, hw, hc, hs, hd]
  rfl

theorem composedLamp_congr {i : Fin 32} (h : LampsTold p q) (hl : q.lamps[i] = p.lamps[i]) (l : Lamp) :
    composedLamp q i l = composedLamp p i l := by
  have hm : composedMode q i = composedMode p i :=
    composedMode_congr (by rw [h]) (by rw [h]) (by rw [hl]) (by rw [hl])
  unfold composedLamp drivenLamp
  rw [hm, h]
  rfl

/-- The mode alone, its output and what a lamp newly lit clears are composed. -/
theorem composedLamp_eq (p : Part) (i : Fin 32) (l : Lamp) : composedLamp p i l =
    { l with
      mode := composedMode p i, sense := (composedLamp p i l).sense, lowCount := (composedLamp p i l).lowCount
      lit := (composedLamp p i l).lit, pending := (composedLamp p i l).pending } := by
  unfold composedLamp drivenLamp
  split <;> split <;> rfl

/-- Operations that each change one lamp, by what that lamp holds, leave each of their lamps changed and no other. -/
theorem forEach_lamps {f : Fin 32 → Part → Part} {g : Part → Fin 32 → Lamp → Lamp}
    (hf : ∀ i p, LampsTold p (f i p) ∧ (f i p).lamps = updAt i (g p i) p.lamps)
    (hg : ∀ i p q, LampsTold p q → q.lamps[i] = p.lamps[i] → g q i = g p i) {is : List (Fin 32)} (hn : is.Nodup) :
    ∀ p, LampsTold p (forEach is f p) ∧ ∀ j : Fin 32, (forEach is f p).lamps[j] = if j ∈ is then g p j p.lamps[j] else p.lamps[j] := by
  induction is with
  | nil => exact fun p => ⟨rfl, fun j => by simp [forEach]⟩
  | cons i is ih =>
    intro p
    obtain ⟨hi, hn⟩ := List.nodup_cons.1 hn
    obtain ⟨h1, h2⟩ := hf i p
    obtain ⟨h3, h4⟩ := ih hn (f i p)
    refine ⟨h1.trans h3, fun j => (h4 j).trans ?_⟩
    by_cases e : i = j
    · subst e
      rw [if_neg hi, if_pos List.mem_cons_self, h2, updAt_self]
    · have hl : (f i p).lamps[j] = p.lamps[j] := by rw [h2, updAt_other i j _ _ e]
      simp only [List.mem_cons, Ne.symm e, false_or, hl, hg j p _ h1 hl]

theorem forEach_allLamps {f : Fin 32 → Part → Part} {g : Part → Fin 32 → Lamp → Lamp}
    (hf : ∀ i p, LampsTold p (f i p) ∧ (f i p).lamps = updAt i (g p i) p.lamps)
    (hg : ∀ i p q, LampsTold p q → q.lamps[i] = p.lamps[i] → g q i = g p i) (p : Part) :
    LampsTold p (forEach allLamps f p) ∧ ∀ j : Fin 32, (forEach allLamps f p).lamps[j] = g p j p.lamps[j] := by
  obtain ⟨h1, h2⟩ := forEach_lamps hf hg (List.nodup_finRange 32) p
  exact ⟨h1, fun j => (h2 j).trans (if_pos (List.mem_finRange j))⟩

/-- R136: every mode is composed anew. -/
theorem composeLamps_told (p : Part) : LampsTold p (composeLamps p) ∧
    ∀ j : Fin 32, (composeLamps p).lamps[j] = composedLamp p j p.lamps[j] :=
  forEach_allLamps composeLamp_told (fun _ _ _ h hl => funext fun l => composedLamp_congr h hl l) p

/-! ### Diagnoses retried (R139) -/

/-- R138 to R140: a lamp takes a diagnosis, its mode follows, and the LAMPFAULT lamps are evaluated where it is new. -/
theorem setDiag_told (i : Fin 32) (d : Diag) (sense : Sense) (count : Nat) (p : Part) : LampsOnly p (setDiag i d sense count p) ∧
    ∀ j : Fin 32, (setDiag i d sense count p).lamps[j].diag = if j = i then d else p.lamps[j].diag := by
  obtain ⟨h1, h2⟩ := updLamp_told i (fun l => { l with diag := d, sense := sense, lowCount := count }) p
  have hq (j : Fin 32) : (updLamp i (fun l => { l with diag := d, sense := sense, lowCount := count }) p).lamps[j].diag =
      if j = i then d else p.lamps[j].diag := by
    rw [h2]
    split
    next e =>
      subst e
      rw [updAt_self]
    next e => rw [updAt_other i j _ _ (Ne.symm e)]
  unfold setDiag
  dsimp only
  generalize updLamp i _ p = q at h1 hq ⊢
  split
  · exact ⟨h1.only, hq⟩
  · have hn : LampEvents q (composeLamp i (onlyIf (d == .open || d == .short) (setNotice .lampfault) q)) :=
      composeLamp_events i (onlyIf_closed (fun _ h => h.trans ⟨rfl, fun _ => rfl⟩) _ (.refl q))
    generalize composeLamp i _ = q' at hn ⊢
    have he : Evaluated _ _ _ q' (evalLampFaults q') := forEach_evalLamp _ ((List.nodup_finRange 32).filter _) q'
    obtain ⟨hf, hi⟩ := hn
    refine ⟨(h1.only.trans hf).trans he.frame, fun j => (he.diag j).trans (Eq.trans ?_ (hq j))⟩
    exact congrArg LampInputs.diag (hi j)

theorem forEach_retried (is : List (Fin 32)) : ∀ p, LampsOnly p (forEach is (fun i => setDiag i .untested .none 0) p) ∧
    ∀ j : Fin 32, (forEach is (fun i => setDiag i .untested .none 0) p).lamps[j].diag = if j ∈ is then .untested else p.lamps[j].diag := by
  induction is with
  | nil => exact fun p => ⟨.refl p, fun j => by simp [forEach]⟩
  | cons i is ih =>
    intro p
    obtain ⟨h1, h2⟩ := setDiag_told i .untested .none 0 p
    obtain ⟨h3, h4⟩ := ih (setDiag i .untested .none 0 p)
    refine ⟨h1.trans h3, fun j => (h4 j).trans ?_⟩
    rw [h2]
    by_cases hj : j ∈ is <;> simp [hj]

/-- R139: no lamp stays SHORT. -/
theorem retryShorts_told (p : Part) : LampsOnly p (retryShorts p) ∧ ∀ j : Fin 32, (retryShorts p).lamps[j].diag ≠ .short := by
  obtain ⟨h1, h2⟩ := forEach_retried (allLamps.filter fun (i : Fin 32) => p.lamps[i].diag == .short) p
  refine ⟨h1, fun j => ne_of_eq_of_ne (h2 j) ?_⟩
  split
  next => nofun
  next h => simpa [allLamps] using h

/-! ### The cycle (R42, R136) -/

/-- R142: while serving is stopped, demands are deferred; a tone that is sounding stops. -/
theorem chimeSync_unserved (h : chimeServes p = false) : ∃ x ls, chimeSync p = { p with chime := x, lamps := ls } ∧ x.deferred = true ∧
    sameButOwed p.lamps ls := by
  by_cases hd : p.chime.deferred = true
  · exact ⟨p.chime, p.lamps, chimeSync_of_deferred hd h, hd, fun _ => rfl⟩
  · obtain ⟨x, ls, he, -, hx, -, hl⟩ := chimeStop_eq p
    exact ⟨x, ls, (by simp [chimeSync, h, hd] : chimeSync p = chimeStop p).trans he, hx, hl⟩

theorem forEach_nil {α : Type} (f : α → Part → Part) (p : Part) : forEach [] f p = p := rfl

/-- The proving cycle that begins, with no pointer to sweep. -/
def cycleOf (kind : ProvingKind) (w : Mem) : Proving := { kind := kind, timer := some (provingTime w), sweeps := [] }

theorem provingStart_swept (kind : ProvingKind) (p : Part) {l : List (Fin 6)} (h : (if kind = .start then sweepers p.working else []) = l) :
    provingStart kind p = forEach l enterSweep (startTestTone (chimeSync (composeLamps
      (setCtl (fun k => { k with proving := some { cycleOf kind p.working with sweeps := l } }) (retryShorts p))))) := by
  subst h
  rfl

theorem provingStart_unswept {kind : ProvingKind} (h : kind = .start → sweepers p.working = []) : provingStart kind p =
    startTestTone (chimeSync (composeLamps (setCtl (fun k => { k with proving := some (cycleOf kind p.working) }) (retryShorts p)))) :=
  (provingStart_swept kind p (by
    split
    next e => exact h e
    next => rfl)).trans (forEach_nil _ _)

/-- R42, R136, R139, R142, R143: what the beginning of a proving cycle without sweeps makes of the part. -/
theorem provingStart_told {kind : ProvingKind} (h : kind = .start → sweepers p.working = []) :
    let q := provingStart kind p
    q = { p with
        exch := q.exch, arb := q.arb, lamps := q.lamps, chime := q.chime, panel := { p.panel with stack := q.panel.stack }
        ctl := { p.ctl with proving := some (cycleOf kind p.working) } } ∧
      q.chime.test = some toneTime ∧ q.chime.deferred = true ∧
      ∀ j : Fin 32, q.lamps[j].diag ≠ .short ∧ (lampUsed p.working j = true → (lampRec p.working j).prove = true →
        (lampRec p.working j).drive = true → q.lamps[j].mode = .steady) := by
  intro q
  have hq : q = _ := provingStart_unswept h
  obtain ⟨r1, r2⟩ := retryShorts_told p
  generalize retryShorts p = p₁ at r1 r2 hq
  obtain ⟨c1, c2⟩ := composeLamps_told (setCtl (fun k => { k with proving := some (cycleOf kind p.working) }) p₁)
  generalize hp₂ : setCtl (fun k => { k with proving := some (cycleOf kind p.working) }) p₁ = p₂ at c1 c2 hq
  have r3 : p₂.working = p.working := by rw [← hp₂, r1]; rfl
  have r4 : p₂.lamps = p₁.lamps := by rw [← hp₂]; rfl
  have r5 : p₂.ctl.proving = some (cycleOf kind p.working) := by rw [← hp₂]; rfl
  generalize composeLamps p₂ = p₃ at c1 c2 hq
  have hs : chimeServes p₃ = false := by
    rw [c1]
    simp [chimeServes, r5]
  obtain ⟨x, ls, he, hd, hl⟩ := chimeSync_unserved hs
  have hq' : q = { p₃ with chime := { x with test := some toneTime, testMuted := false }, lamps := ls } := by
    rw [hq, he]
    rfl
  refine ⟨?_, by rw [hq'], by rw [hq']; exact hd, fun j => ?_⟩
  · rw [hq', c1, ← hp₂, r1]
    rfl
  · have hj : q.lamps[j] = { composedLamp p₂ j p₂.lamps[j] with owed := ls[j].owed } := by rw [hq', ← c2, ← hl j]
    have hdiag : q.lamps[j].diag = p₁.lamps[j].diag := by rw [hj, composedLamp_eq, r4]
    have hmode : q.lamps[j].mode = composedMode p₂ j := by rw [hj, composedLamp_eq]
    refine ⟨hdiag ▸ r2 j, fun hu hp hdr => ?_⟩
    have hu' : ((lampRec p.working j).kind != .none) = true := hu
    have hf : lampForced p₂ j = true := by
      simpa [lampForced, r3, r4, r5, hp, hdr, bne_iff_ne.1 hu'] using r2 j
    rw [hmode, composedMode, if_pos hf]

theorem provingStart_unswept_closed {P : Part → Prop} (hc : LampClosed P) (ctl : ∀ p x, P p → P { p with ctl := x }) {kind : ProvingKind}
    (h : kind = .start → sweepers p.working = []) (hp : P p) : P (provingStart kind p) := by
  rw [provingStart_unswept h]
  exact startTestTone_closed hc (chimeSync_closed hc (composeLamps_closed hc (ctl _ _ (retryShorts_closed hc hp))))

/-! ### PROVE (R45) -/

section
variable {i : Fin 8} {taken : List Byte}

theorem prove_busy (h : p.ctl.proving.isSome) : prove i taken p = answerTaken i taken 9 [] p := if_pos h

/-- What is judged while no cycle runs. -/
theorem prove_idle (h : p.ctl.proving = none) : prove i taken p =
    if p.ctl.op ≠ .run then answerTaken i taken 3 [] p else if p.acct.moving then answerTaken i taken 4 [] p
    else provingStart (.request i) (holdSlot i taken p) := if_neg (by simp [h])

theorem exec_prove {s : State} (i : Fin 8) (h : requestTaken i s.toPart = true) :
    exec (.prove i) s = .next { s with toPart := prove i (rowBytes i 8 [] s.toPart) (slotTakenUp i (rowBytes i 8 [] s.toPart) s.toPart) } := by
  have hp : execPart (.prove i) s.toPart = _ := longRow_taken 8 [] (fun t => prove i t) h
  rw [exec_eq, hp]

end

/-- Settles O19: the TAKEN mark; the judgements, each where those before it pass; the REQUEST cycle that begins. -/
theorem proveIsJudged : Obligations.ProveIsJudged := by
  intro s i hm ht taken marked refusedWith
  have hx := exec_prove i ht
  have hmarked : marked = slotTakenUp i taken s.toPart := (slotTakenUp_eq_ite i taken s.toPart).symm
  obtain ⟨m, he, hw, hs, ha⟩ := slotTakenUp_eq i hm (rowBytes_length i 8 (params := []) (Nat.zero_le 28) s.toPart) (taken := taken)
  rw [← hmarked] at he
  have hq : exec (.prove i) s = .next { s with toPart := prove i taken marked } := by
    rw [hmarked]
    exact hx
  have refuse {st : Byte} (h : prove i taken marked = answerTaken i taken st [] marked) : refusedWith st := by
    rw [h] at hq
    exact hq
  have hmem : marked.mem = m := by rw [he]; rfl
  have hctl : marked.ctl = s.ctl := by rw [he]
  have hacct : marked.acct = s.acct := by rw [he]
  have idle (h : s.ctl.proving = none) := prove_idle (i := i) (taken := taken) (p := marked) (by rw [hctl]; exact h)
  rw [hmem]
  refine ⟨hs, ha, fun h => refuse (prove_busy (by rw [hctl]; exact h)), fun h hr => refuse ?_, fun h hr hv => refuse ?_, fun h hr hv => ?_⟩
  · rw [idle h, if_pos (by rw [hctl]; exact hr)]
  · rw [idle h, if_neg (by simp [hctl, hr]), if_pos (by rw [hacct]; exact hv)]
  · rw [idle h, if_neg (by simp [hctl, hr]), if_neg (by simp [hacct, hv])] at hq
    obtain ⟨h1, h2, h3, h4⟩ := provingStart_told (p := holdSlot i taken marked) (kind := .request i) nofun
    obtain ⟨-, h5⟩ := provingStart_unswept_closed (P := fun q => OwnWrites m q.mem) (p := holdSlot i taken marked) (kind := .request i)
      (ownWrites_inputClosed m).toLampClosed (fun _ _ hp => hp) nofun (by
        rw [show (holdSlot i taken marked).mem = marked.mem from rfl, hmem]
        exact .refl hw)
    generalize provingStart (.request i) (holdSlot i taken marked) = q at hq h1 h2 h3 h4 h5
    have hslot (k : Nat) (h : partByte k) : ¬ inRecord (0xC0 + 32 * i.val) 32 k := by
      simp only [partByte_iff] at h
      simp only [inRecord]
      omega
    have hwork : (holdSlot i taken marked).working = s.working := by rw [he]; rfl
    rw [hwork] at h1 h4
    rw [he] at h1
    refine ⟨{ s with toPart := q }, hq, ?_, ?_, fun j hj => ?_, h2, h3, h4, slotMarked_of_agree hs h5 hslot,
      (ha.mono fun _ => .inr).trans (h5.mono fun _ => .inl)⟩
    · rw [h1]
      rfl
    · rw [h1]
      exact updAt_self ..
    · rw [h1]
      exact updAt_other _ _ _ _ hj.symm

end Sys2Proof.Machine
end

section
namespace Sys2Proof.Machine

variable {p q r : Part}

/-! ## The lamps of a restart's end -/

/-! ### Records written below the journal (R7) -/

/-- The part's own bytes below the journal's. -/
def recordByte (k : Nat) : Prop := k < 0x0A ∨ (0x0C ≤ k ∧ k < 0x40) ∨ (0x1C0 ≤ k ∧ k < 0x800)

/-- The memory is canonical, and that of `m` but for the part's own bytes below the journal's. -/
def RecordWrites (m n : Mem) : Prop := Memory.wf n = true ∧ agreeOutside recordByte m n

theorem RecordWrites.refl {m : Mem} (h : Memory.wf m = true) : RecordWrites m m := ⟨h, .refl _ _⟩

theorem RecordWrites.trans {m n o : Mem} (h : RecordWrites m n) (h' : RecordWrites n o) : RecordWrites m o := by
  obtain ⟨-, ha⟩ := h
  obtain ⟨hw, ha'⟩ := h'
  exact ⟨hw, ha.trans ha'⟩

/-- One record access's worth of a record below the journal. -/
def recordRange (a n : Nat) : Prop := a + n ≤ 0x08 ∨ (0x0C ≤ a ∧ a + n ≤ 0x40) ∨ (0x1C0 ≤ a ∧ a + n ≤ 0x800)

theorem RecordWrites.store {m : Mem} {a : Nat} {bs : List Byte} (hr : recordRange a bs.length) (h : RecordWrites m p.mem) :
    RecordWrites m (p.store a bs).mem := by
  obtain ⟨hw, ha⟩ := h
  rw [Part.store_mem]
  refine ⟨memWriteN_wf _ _ _ hw, ha.trans ((agreeOutside_memWriteN hw).mono fun k hk => ?_)⟩
  simp only [recordRange] at hr
  simp only [inRecord] at hk
  simp only [recordByte]
  omega

theorem RecordWrites.notice {m : Mem} (n : Notice) (h : RecordWrites m p.mem) : RecordWrites m (setNotice n p).mem := by
  obtain ⟨hw, ha⟩ := h
  have he : (setNotice n p).mem = _ := request_mem p (.notice n)
  rw [he]
  refine ⟨effect_wf _ _ hw, ha.trans fun k hk => memRead_effect_out _ _ _ hw ?_⟩
  simp only [recordByte] at hk
  simp only [RecordAccess.avoids]
  omega

theorem RecordWrites.lamp {m : Mem} (i : Fin 32) (h : RecordWrites m p.mem) : RecordWrites m (rewriteLamp i p).mem :=
  RecordWrites.store (by simp only [recordRange, editioned_length, lampBody_length, lampResultAddr]; omega) h

theorem RecordWrites.ptr {m : Mem} (i : Fin 6) (h : RecordWrites m p.mem) : RecordWrites m (rewritePtr i p).mem :=
  RecordWrites.store (by simp only [recordRange, editioned_length, ptrBody_length, ptrResultAddr]; omega) h

theorem RecordWrites.chan {m : Mem} (c : Fin 32) (h : RecordWrites m p.mem) : RecordWrites m (rewriteChan c p).mem :=
  RecordWrites.store (by simp only [recordRange, editioned_length, chanBody_length, chanResultAddr]; omega) h

theorem RecordWrites.updLamp {m : Mem} (i : Fin 32) (f : Lamp → Lamp) (h : RecordWrites m p.mem) : RecordWrites m (updLamp i f p).mem :=
  onlyIf_closed (P := fun q => RecordWrites m q.mem) (fun _ hq => hq.lamp i) _ (p := setLamp i f p) h

theorem RecordWrites.composeLamp {m : Mem} (i : Fin 32) (h : RecordWrites m p.mem) : RecordWrites m (composeLamp i p).mem := by
  have he : Machine.composeLamp i p = driveLamp i _ := rfl
  rw [he, driveLamp_eq]
  exact h.updLamp i _

/-! ### Messages come and go (R181, R182) -/

/-- No lamp but those of `L` has a message, and the stack holds none but theirs. -/
def MessagesOf (L : Fin 32 → Prop) (p : Part) : Prop := (∀ i : Fin 32, ¬ L i → p.lamps[i].msg = .none) ∧ ∀ e ∈ p.panel.stack, L e.lamp

/-- Between `p` and `q` nothing has changed but the lamps, the message stack and the memory. -/
def StackOnly (p q : Part) : Prop :=
  q = { p with exch := q.exch, arb := q.arb, lamps := q.lamps, panel := { p.panel with stack := q.panel.stack } }

theorem StackOnly.trans (h : StackOnly p q) (h' : StackOnly q r) : StackOnly p r := by
  refine Eq.trans h' ?_
  rw [h]

theorem LampsTold.stackOnly (h : LampsTold p q) : StackOnly p q := by
  refine Eq.trans h ?_
  rw [h]

/-- Since `b` the message stack, the lamps' message states and the records have changed, and messages of the lamps `L` alone have
come and gone. -/
structure MessagesMoved (L : Fin 32 → Prop) (b p : Part) : Prop where
  frame : StackOnly b p
  lamps : ∀ i : Fin 32, p.lamps[i] = { b.lamps[i] with msg := p.lamps[i].msg }
  held : MessagesOf L p
  mem : RecordWrites b.mem p.mem

section
variable {L : Fin 32 → Prop} {b : Part} {i : Fin 32}

theorem MessagesMoved.refl (h : MessagesOf L p) (hm : Memory.wf p.mem = true) : MessagesMoved L p p := ⟨rfl, fun _ => rfl, h, .refl hm⟩

theorem MessagesMoved.setMsg (m : MsgState) (hi : L i) (h : MessagesMoved L b p) : MessagesMoved L b (setMsg i m p) := by
  obtain ⟨h1, h2, ⟨h3, h4⟩, h5⟩ := h
  obtain ⟨u1, u2⟩ := updLamp_told i (fun l => { l with msg := m }) p
  have hj (j : Fin 32) : (Machine.setMsg i m p).lamps[j] = { p.lamps[j] with msg := (Machine.setMsg i m p).lamps[j].msg } ∧
      (j ≠ i → (Machine.setMsg i m p).lamps[j] = p.lamps[j]) := by
    rw [show (Machine.setMsg i m p).lamps = _ from u2]
    by_cases e : i = j
    · subst e
      rw [updAt_self]
      exact ⟨rfl, absurd rfl⟩
    · rw [updAt_other i j _ _ e]
      exact ⟨rfl, fun _ => rfl⟩
  refine ⟨h1.trans u1.stackOnly, fun j => (hj j).1.trans (by rw [h2 j]), ⟨fun j hn => ?_, fun e he => h4 e ?_⟩, h5.updLamp i _⟩
  · rw [(hj j).2 fun e => hn (e ▸ hi)]
    exact h3 j hn
  · rwa [show (Machine.setMsg i m p).panel = p.panel by rw [show Machine.setMsg i m p = _ from u1]] at he

theorem MessagesMoved.stack {s : List Entry} (hs : ∀ e ∈ s, L e.lamp) (h : MessagesMoved L b p) :
    MessagesMoved L b (setPanel (fun x => { x with stack := s }) p) := by
  obtain ⟨h1, h2, ⟨h3, -⟩, h5⟩ := h
  exact ⟨h1.trans rfl, h2, ⟨h3, hs⟩, h5⟩

theorem mem_stackInsert {e x : Entry} : ∀ {s : List Entry}, x ∈ stackInsert e s → x = e ∨ x ∈ s
  | [], h => .inl (List.mem_singleton.1 h)
  | y :: s, h => by
    unfold stackInsert at h
    split at h
    · rcases List.mem_cons.1 h with h | h
      · exact .inr (h ▸ List.mem_cons_self)
      · exact (mem_stackInsert h).imp_right (List.mem_cons_of_mem _)
    · exact List.mem_cons.1 h

theorem MessagesMoved.push (hi : L i) (h : MessagesMoved L b p) : MessagesMoved L b (pushEntry i p) :=
  h.stack fun _ hx => (mem_stackInsert hx).elim (fun e => e ▸ hi) (h.held.2 _)

theorem MessagesMoved.sync (h : MessagesMoved L b p) : MessagesMoved L b (syncShown p) := by
  unfold syncShown
  split
  next => exact h
  next top rest hs =>
    have hl (e : Entry) (he : e ∈ top :: rest) : L e.lamp := h.held.2 e (hs ▸ he)
    exact forEach_closed_mem (fun e he _ hq => hq.setMsg _ (hl e (List.mem_cons_of_mem _ he))) (h.setMsg _ (hl top List.mem_cons_self))

theorem MessagesMoved.admitted (hi : L i) (h : MessagesMoved L b p) : MessagesMoved L b (admitMessage i p) := by
  unfold admitMessage
  split
  next => exact (h.push hi).sync
  next =>
    split
    next e he =>
      refine ite_closed ?_ (h.setMsg _ hi)
      have hd := h.stack fun x hx => h.held.2 x (List.dropLast_subset _ hx)
      exact ((hd.setMsg _ (h.held.2 e (List.mem_of_getLast? he))).push hi).sync
    next => exact h

/-- R182: a lamp whose message waits is one of those with messages. -/
theorem nextWaiting_of (h : MessagesOf L p) (hw : nextWaiting p = some i) : L i := by
  by_contra hn
  obtain ⟨c, -, hc⟩ := List.exists_of_findSome?_eq_some hw
  have hm := List.find?_some hc
  rw [h.1 i hn] at hm
  simp at hm

theorem MessagesMoved.leave (m : MsgState) (hi : L i) (h : MessagesMoved L b p) : MessagesMoved L b (leaveStack i m p) := by
  have hd := (h.stack (s := p.panel.stack.filter fun e => e.lamp != i) fun x hx => h.held.2 x (List.mem_of_mem_filter hx)).setMsg m hi
  unfold leaveStack
  refine MessagesMoved.sync ?_
  split
  next j hj => exact hd.push (nextWaiting_of hd.held hj)
  next => exact hd

theorem MessagesMoved.report (before after : LampState) (hi : L i) (h : MessagesMoved L b p) :
    MessagesMoved L b (panelReport i before after p) := by
  cases after with
  | on => exact ite_closed (h.admitted hi) h
  | acked => exact ite_closed h (ite_closed (h.leave _ hi) (h.setMsg _ hi))
  | off => exact ite_closed h (ite_closed (h.leave _ hi) (h.setMsg _ hi))
  | latched => exact h
  | pending => exact h

end

end Sys2Proof.Machine
end

section
namespace Sys2Proof.Machine

variable {L : Fin 32 → Prop} {b p q r : Part} {i : Fin 32}

/-! ### A lamp's condition is evaluated while the chime is at rest (R122, R129, R142) -/

/-- Every lamp has the mode that is composed for it. -/
def ModesComposed (p : Part) : Prop := ∀ j : Fin 32, p.lamps[j].mode = composedMode p j

/-- R55: in a restart no lamp is lit but by a proving cycle, whatever its state. -/
theorem composedMode_of_restart (h : p.ctl.restart.isSome) (j : Fin 32) :
    composedMode p j = if lampForced p j then .steady else .unlit := by
  have he : lampEligible p j = false := by
    obtain ⟨c, hc⟩ := Option.isSome_iff_exists.1 h
    simp [lampEligible, hc]
  rw [composedMode, he]
  rfl

theorem composedMode_restart_congr {j : Fin 32} (h : p.ctl.restart.isSome) (hw : q.working = p.working) (hc : q.ctl = p.ctl)
    (hd : q.lamps[j].diag = p.lamps[j].diag) : composedMode q j = composedMode p j := by
  rw [composedMode_of_restart h, composedMode_of_restart (hc ▸ h)]
  simp only [lampForced, hw, hc, hd]
  rfl

/-- Since `b` the lamp `i` has moved; of the others, messages of the lamps `L` alone have come and gone. -/
structure LampMoved (L : Fin 32 → Prop) (i : Fin 32) (b p : Part) : Prop where
  frame : LampsOnly b p
  chime : p.chime = b.chime
  others : ∀ j : Fin 32, j ≠ i → p.lamps[j] = { b.lamps[j] with msg := p.lamps[j].msg }
  self : p.lamps[i].requested = b.lamps[i].requested ∧ p.lamps[i].chanLast = b.lamps[i].chanLast ∧
    p.lamps[i].gateLast = b.lamps[i].gateLast ∧ p.lamps[i].diag = b.lamps[i].diag
  out : b.ctl.restart.isSome → ModesComposed b → p.lamps[i].mode = b.lamps[i].mode ∧ p.lamps[i].lowCount = b.lamps[i].lowCount
  held : MessagesOf L p
  mem : RecordWrites b.mem p.mem

theorem LampsOnly.ctl (h : LampsOnly p q) : q.ctl = p.ctl := by
  rw [h]

theorem LampMoved.diag (h : LampMoved L i b p) (j : Fin 32) : p.lamps[j].diag = b.lamps[j].diag := by
  by_cases e : j = i
  · subst e
    obtain ⟨-, -, -, hd⟩ := h.self
    exact hd
  · rw [h.others j e]

/-- In a restart no mode and no low-current count changes. -/
theorem LampMoved.outs (h : LampMoved L i b p) (hr : b.ctl.restart.isSome) (hm : ModesComposed b) (j : Fin 32) :
    p.lamps[j].mode = b.lamps[j].mode ∧ p.lamps[j].lowCount = b.lamps[j].lowCount := by
  by_cases e : j = i
  · subst e
    exact h.out hr hm
  · rw [h.others j e]
    exact ⟨rfl, rfl⟩

theorem LampMoved.modes (h : LampMoved L i b p) (hr : b.ctl.restart.isSome) (hm : ModesComposed b) : ModesComposed p := fun j => by
  rw [composedMode_restart_congr hr h.frame.same.1 h.frame.ctl (h.diag j), ← hm j]
  exact (h.outs hr hm j).1

theorem LampMoved.trans (h : LampMoved L i b p) (h' : LampMoved L i p q) : LampMoved L i b q := by
  obtain ⟨s1, s2, s3, s4⟩ := h.self
  obtain ⟨s1', s2', s3', s4'⟩ := h'.self
  refine ⟨h.frame.trans h'.frame, h'.chime.trans h.chime, fun j hj => (h'.others j hj).trans (by rw [h.others j hj]),
    ⟨s1'.trans s1, s2'.trans s2, s3'.trans s3, s4'.trans s4⟩, fun hr hm => ?_, h'.held, h.mem.trans h'.mem⟩
  obtain ⟨e1, e2⟩ := h'.outs (h.frame.ctl ▸ hr) (h.modes hr hm) i
  obtain ⟨e3, e4⟩ := h.out hr hm
  exact ⟨e1.trans e3, e2.trans e4⟩

theorem LampMoved.refl (hh : MessagesOf L p) (hm : Memory.wf p.mem = true) : LampMoved L i p p :=
  ⟨rfl, rfl, fun _ _ => rfl, ⟨rfl, rfl, rfl, rfl⟩, fun _ _ => ⟨rfl, rfl⟩, hh, .refl hm⟩

/-- A lamp changes within what an event may change, and its record may be rewritten. -/
theorem LampMoved.of_told {f : Lamp → Lamp} (ht : LampsTold p q) (hl : q.lamps = updAt i f p.lamps)
    (hf : f p.lamps[i] = { p.lamps[i] with
      state := (f p.lamps[i]).state, cond := (f p.lamps[i]).cond, hyst := (f p.lamps[i]).hyst, onDelay := (f p.lamps[i]).onDelay
      owed := (f p.lamps[i]).owed, mode := (f p.lamps[i]).mode, sense := (f p.lamps[i]).sense, lowCount := (f p.lamps[i]).lowCount
      lit := (f p.lamps[i]).lit, pending := (f p.lamps[i]).pending })
    (ho : p.ctl.restart.isSome → ModesComposed p → (f p.lamps[i]).mode = p.lamps[i].mode ∧ (f p.lamps[i]).lowCount = p.lamps[i].lowCount)
    (hh : MessagesOf L p) (hm : RecordWrites p.mem q.mem) : LampMoved L i p q := by
  have hs : q.lamps[i] = f p.lamps[i] := by rw [hl, updAt_self]
  have hj (j : Fin 32) (h : j ≠ i) : q.lamps[j] = p.lamps[j] := by rw [hl, updAt_other i j _ _ h.symm]
  refine ⟨ht.only, by rw [ht], fun j h => by rw [hj j h], ?_, by rw [hs]; exact ho, ⟨fun j hn => ?_, ?_⟩, hm⟩
  · rw [hs, hf]
    exact ⟨rfl, rfl, rfl, rfl⟩
  · have hmsg : q.lamps[j].msg = p.lamps[j].msg := by
      by_cases e : j = i
      · subst e
        rw [hs, hf]
      · rw [hj j e]
    exact hmsg.trans (hh.1 j hn)
  · rw [ht]
    exact hh.2

theorem MessagesMoved.moved (h : MessagesMoved L b p) (i : Fin 32) : LampMoved L i b p := by
  obtain ⟨h1, h2, h3, h4⟩ := h
  refine ⟨?_, by rw [h1], fun j _ => h2 j, by rw [h2 i]; exact ⟨rfl, rfl, rfl, rfl⟩, fun _ _ => by rw [h2 i]; exact ⟨rfl, rfl⟩, h3, h4⟩
  rw [h1]
  rfl

theorem setLamp_owed (i : Fin 32) (p : Part) : setLamp i (fun l => { l with owed := p.lamps[i].owed }) p = p :=
  congrArg (fun ls => { p with lamps := ls }) (Vector.set_getElem_self _)

theorem chimeWithdraw_of_rest (i : Fin 32) (h : p.chime = Chime.reset) :
    chimeWithdraw i p = setLamp i (fun l => { l with owed := false }) p := by
  have hc : (setLamp i (fun l => { l with owed := false }) p).chime = Chime.reset := h
  unfold chimeWithdraw
  generalize setLamp i (fun l => { l with owed := false }) p = q at hc
  have hq : setChime (fun c => { c with served := c.served.filter (· != i) }) q = q := by
    have e : { q.chime with served := q.chime.served.filter (· != i) } = q.chime := by rw [hc]; rfl
    exact congrArg (fun x => { q with chime := x }) e
  rw [hq]
  dsimp only
  rw [hc]
  rfl

theorem lampEntersOn_of_deferred (i : Fin 32) (hd : p.chime.deferred = true) :
    ∃ x, lampEntersOn i p = setLamp i (fun l => { l with owed := x }) p := by
  unfold lampEntersOn
  dsimp only
  split
  next => exact ⟨_, (setLamp_owed i p).symm⟩
  next =>
    split
    next => exact ⟨_, (if_pos hd).trans (setLamp_owed i p).symm⟩
    next => exact ⟨true, if_pos hd⟩
    next => exact ⟨_, (setLamp_owed i p).symm⟩

/-- R142: with the chime at rest a change of a lamp's state changes nothing of it but what the lamp itself owes. -/
theorem chimeStep_eq {c c' : Prop} [Decidable c] [Decidable c'] (i : Fin 32) (h : p.chime = Chime.reset) :
    ∃ x, (if c then lampEntersOn i p else if c' then chimeWithdraw i p else p) = setLamp i (fun l => { l with owed := x }) p := by
  split
  · exact lampEntersOn_of_deferred i (by rw [h]; rfl)
  · split
    · exact ⟨false, chimeWithdraw_of_rest i h⟩
    · exact ⟨_, (setLamp_owed i p).symm⟩

theorem composedLamp_lowCount (h : p.lamps[i].mode = composedMode q i) {l : Lamp} (hl : l.mode = p.lamps[i].mode) :
    (composedLamp q i l).lowCount = l.lowCount := by
  have hn : ¬ (l.mode = .unlit ∧ composedMode q i ≠ .unlit) := fun ⟨e1, e2⟩ => e2 (by rw [← h, ← hl, e1])
  rw [composedLamp, if_neg hn, drivenLamp]
  split <;> rfl

/-- A lamp as it enters a state, with its on-delay timer (R129, R130). -/
def Lamp.entered (d : LampRec) (after : LampState) (l : Lamp) : Lamp :=
  { l with state := after, onDelay := if after = .pending then some (onDelayTime d) else none }

/-- Table 7-4: a lamp changes to a new state. -/
theorem lampChange_moved (after : LampState) (hi : L i) (hc : p.chime = Chime.reset) (hh : MessagesOf L p) (hm : Memory.wf p.mem = true) :
    LampMoved L i p (lampChange i after p) ∧ (lampChange i after p).lamps[i].state = after := by
  obtain ⟨u1, u2⟩ := updLamp_told i (Lamp.entered (lampRec p.working i) after) p
  have hmu := (RecordWrites.refl hm).updLamp i (Lamp.entered (lampRec p.working i) after)
  generalize hu : updLamp i (Lamp.entered (lampRec p.working i) after) p = u at u1 u2 hmu
  obtain ⟨c1, c2⟩ := composeLamp_told i u
  have hmc := hmu.composeLamp i
  generalize hv : composeLamp i u = v at c1 c2 hmc
  obtain ⟨x, hx⟩ := chimeStep_eq (p := v) (c := after = .on) (c' := p.lamps[i].state = .on) i (by rw [c1, u1]; exact hc)
  generalize hw : setLamp i (fun l => { l with owed := x }) v = w at hx
  have he : lampChange i after p = if (lampRec p.working i).text.isSome then panelReport i p.lamps[i].state after w else w := by
    rw [← hx, ← hv, ← hu]
    rfl
  have hlu : u.lamps[i] = (p.lamps[i]).entered (lampRec p.working i) after := by rw [u2, updAt_self]
  have hlw : w.lamps = updAt i (fun l => { composedLamp u i (l.entered (lampRec p.working i) after) with owed := x }) p.lamps := by
    rw [← hw, setLamp_lamps, c2, u2]
    simp [updAt]
  have hmoved : LampMoved L i p w := by
    refine .of_told ((u1.trans c1).trans (by rw [← hw]; rfl)) hlw ?_ (fun hr hmc => ?_) hh (by rw [← hw]; exact hmc)
    · rw [composedLamp_eq]
      rfl
    · have hmode : composedMode u i = p.lamps[i].mode := by
        rw [hmc i]
        exact composedMode_restart_congr hr (by rw [u1]) (by rw [u1]) (by rw [hlu]; rfl)
      refine ⟨by rw [composedLamp_eq]; exact hmode, ?_⟩
      exact composedLamp_lowCount (p := p) hmode.symm rfl
  have hstate : w.lamps[i].state = after := by
    rw [hlw, updAt_self, composedLamp_eq]
    rfl
  rw [he]
  split
  · have hr := (MessagesMoved.refl hmoved.held hmoved.mem.1).report p.lamps[i].state after hi
    exact ⟨hmoved.trans (hr.moved i), by rw [hr.lamps i]; exact hstate⟩
  · exact ⟨hmoved, hstate⟩

/-- Table 7-4: a lamp that is OFF comes on, or waits its on-delay. -/
def lampBegun (d : LampRec) : LampState := if d.onDelay = 0 then .on else .pending

theorem conditionEvent_moved (truth : Bool) (hi : L i) (hc : p.chime = Chime.reset) (hh : MessagesOf L p) (hm : Memory.wf p.mem = true) :
    LampMoved L i p (conditionEvent i truth p) ∧ (p.lamps[i].state = .off → truth = true →
      (conditionEvent i truth p).lamps[i].state = lampBegun (lampRec p.working i)) := by
  have change (after : LampState) := lampChange_moved after hi hc hh hm
  unfold conditionEvent
  dsimp only
  split
  next => exact ⟨(change _).1, fun _ _ => (change _).2⟩
  next h => exact ⟨(change _).1, fun h' => by rw [h'] at h; cases h⟩
  next h => exact ⟨(change _).1, fun h' => by rw [h'] at h; cases h⟩
  next h => exact ⟨(change _).1, fun h' => by rw [h'] at h; cases h⟩
  next h => exact ⟨(change _).1, fun h' => by rw [h'] at h; cases h⟩
  next h _ _ _ _ => exact ⟨.refl hh hm, fun h1 h2 => (h h1 h2).elim⟩

end Sys2Proof.Machine
end

section
namespace Sys2Proof.Machine

variable {L : Fin 32 → Prop} {b p q r : Part} {i : Fin 32}

/-- The hysteresis truth and the condition that an evaluation finds (R122, R123). -/
def foundHyst (p : Part) (i : Fin 32) : Bool := hysteresis (lampRec p.working i) p.lamps[i].chanLast p.lamps[i].hyst
def foundCond (p : Part) (i : Fin 32) : Bool := kindTruth p i (foundHyst p i) && gateOpen p i

/-- A lamp whose condition is not evaluated, one whose condition stays, and one whose condition turns. -/
theorem evalLamp_cases (i : Fin 32) (p : Part) : (evalLamp i p = p ∧ (lampUsed p.working i = false ∨ conditionFrozen p i = true)) ∨
    (lampUsed p.working i = true ∧ conditionFrozen p i = false ∧ foundCond p i = p.lamps[i].cond ∧
      evalLamp i p = setLamp i (fun l => { l with hyst := foundHyst p i }) p) ∨
    (lampUsed p.working i = true ∧ conditionFrozen p i = false ∧ foundCond p i ≠ p.lamps[i].cond ∧
      evalLamp i p = conditionEvent i (foundCond p i) (updLamp i (fun l => { l with cond := foundCond p i })
        (setLamp i (fun l => { l with hyst := foundHyst p i }) p))) := by
  by_cases h : lampUsed p.working i = false ∨ conditionFrozen p i = true
  · exact .inl ⟨evalLamp_of_idle h, h⟩
  · obtain ⟨hu, hf⟩ : lampUsed p.working i = true ∧ conditionFrozen p i = false := by simpa using h
    have he : evalLamp i p = if foundCond p i = p.lamps[i].cond then setLamp i (fun l => { l with hyst := foundHyst p i }) p
        else conditionEvent i (foundCond p i) (updLamp i (fun l => { l with cond := foundCond p i })
          (setLamp i (fun l => { l with hyst := foundHyst p i }) p)) := if_neg (by rw [hu, hf]; decide)
    by_cases hc : foundCond p i = p.lamps[i].cond
    · exact .inr (.inl ⟨hu, hf, hc, he.trans (if_pos hc)⟩)
    · exact .inr (.inr ⟨hu, hf, hc, he.trans (if_neg hc)⟩)

theorem setLamp_hyst_moved (x : Bool) (hh : MessagesOf L p) (hm : Memory.wf p.mem = true) :
    LampMoved L i p (setLamp i (fun l => { l with hyst := x }) p) :=
  .of_told (f := fun l => { l with hyst := x }) rfl rfl rfl (fun _ _ => ⟨rfl, rfl⟩) hh (.refl hm)

/-- R122: an evaluation moves the lamp alone, and messages. -/
theorem evalLamp_moved (hi : L i) (hc : p.chime = Chime.reset) (hh : MessagesOf L p) (hm : Memory.wf p.mem = true) :
    LampMoved L i p (evalLamp i p) := by
  rcases evalLamp_cases i p with ⟨he, -⟩ | ⟨-, -, -, he⟩ | ⟨-, -, -, he⟩
  · rw [he]
    exact .refl hh hm
  · rw [he]
    exact setLamp_hyst_moved _ hh hm
  · rw [he]
    have h1 : LampMoved L i p _ := setLamp_hyst_moved (foundHyst p i) hh hm
    generalize setLamp i (fun l => { l with hyst := foundHyst p i }) p = q at h1
    obtain ⟨u1, u2⟩ := updLamp_told i (fun l => { l with cond := foundCond p i }) q
    have h2 : LampMoved L i q _ := .of_told u1 u2 rfl (fun _ _ => ⟨rfl, rfl⟩) h1.held ((RecordWrites.refl h1.mem.1).updLamp i _)
    have h3 := h1.trans h2
    exact h3.trans (conditionEvent_moved (foundCond p i) hi (h3.chime.trans hc) h3.held h3.mem.1).1

/-! ### Lamps as a restart's end leaves them (R126, R145) -/

/-- The lamp can have come on: it has no gate, and an active warning or a lamp fault lights it. -/
def lightable (w : Mem) (warnings : BitVec 6) (faulty : Prop) (i : Fin 32) : Prop :=
  (lampRec w i).gate = none ∧ ((lampRec w i).kind = .drivetime ∧ warnings.getLsbD (lampRec w i).selector = true ∨
    (lampRec w i).kind = .lampfault ∧ faulty)

/-- The lamps, reset, have been told of UNSET channels, and conditions may have been evaluated since. -/
structure LampsReset (warnings : BitVec 6) (faulty : Prop) (p : Part) : Prop where
  chime : p.chime = Chime.reset
  held : MessagesOf (lightable p.working warnings faulty) p
  dark : ∀ j : Fin 32, ¬ lightable p.working warnings faulty j →
    p.lamps[j].state = .off ∧ p.lamps[j].cond = false ∧ p.lamps[j].onDelay = none ∧ p.lamps[j].owed = false
  begun : ∀ j : Fin 32, (lampRec p.working j).kind = .drivetime →
    p.lamps[j].state = if p.lamps[j].cond then lampBegun (lampRec p.working j) else .off
  requested : ∀ j : Fin 32, p.lamps[j].requested = false
  hyst : ∀ j : Fin 32, p.lamps[j].hyst = false
  own : ∀ j : Fin 32, (lampRec p.working j).kind.usesChannel = true → p.lamps[j].chanLast = Result.unset
  gate : ∀ j : Fin 32, lampUsed p.working j = true → (lampRec p.working j).gate ≠ none → p.lamps[j].gateLast = Result.unset
  warn : p.lampU.warn = warnings
  fault : anyLampFault p = true → faulty
  mem : Memory.wf p.mem = true

theorem anyLampFault_congr (hw : q.working = p.working) (hd : ∀ j : Fin 32, q.lamps[j].diag = p.lamps[j].diag) :
    anyLampFault q = anyLampFault p := by
  simp only [anyLampFault, hw, hd]

theorem hysteresis_unset (d : LampRec) (held : Bool) : hysteresis d Result.unset held = false := by
  unfold hysteresis
  split <;> rfl

theorem hysteresis_of_other {d : LampRec} (x : Result) (held : Bool) (h : d.kind.usesChannel = false) : hysteresis d x held = false := by
  unfold hysteresis
  split
  next e => rw [e] at h; cases h
  next e => rw [e] at h; cases h
  next => rfl

/-- R124: a lamp that takes its truth of an UNSET channel has none. -/
theorem kindTruth_unset (h : (lampRec p.working i).kind.usesChannel = true) (hu : p.lamps[i].chanLast = Result.unset) :
    kindTruth p i false = false := by
  unfold kindTruth
  dsimp only
  rw [hu]
  split
  iterate 5 rfl
  next e => rw [e] at h; cases h
  next e => rw [e] at h; cases h
  next e => rw [e] at h; cases h

theorem gateOpen_unset (h : (lampRec p.working i).gate ≠ none) (hu : p.lamps[i].gateLast = Result.unset) : gateOpen p i = false := by
  unfold gateOpen
  rw [hu]
  dsimp only
  split
  next e => exact absurd e h
  next => rfl

section
variable {warnings : BitVec 6} {faulty : Prop}

theorem LampsReset.foundHyst (h : LampsReset warnings faulty p) (i : Fin 32) : foundHyst p i = false := by
  by_cases hk : (lampRec p.working i).kind.usesChannel = true
  · rw [Machine.foundHyst, h.own i hk]
    exact hysteresis_unset _ _
  · exact hysteresis_of_other _ _ (by simpa using hk)

/-- What an evaluation finds true is a warning's lamp or a fault's. -/
theorem LampsReset.foundCond (h : LampsReset warnings faulty p) (hu : lampUsed p.working i = true) (ht : foundCond p i = true) :
    lightable p.working warnings faulty i := by
  obtain ⟨hk, hg⟩ : kindTruth p i false = true ∧ gateOpen p i = true := by
    rw [Machine.foundCond, h.foundHyst i] at ht
    simpa using ht
  have hgate : (lampRec p.working i).gate = none := by
    by_contra hn
    rw [gateOpen_unset hn (h.gate i hu hn)] at hg
    cases hg
  have hown : (lampRec p.working i).kind.usesChannel = false := by
    by_contra hn
    rw [kindTruth_unset (by simpa using hn) (h.own i (by simpa using hn))] at hk
    cases hk
  refine ⟨hgate, ?_⟩
  unfold kindTruth at hk
  dsimp only at hk
  split at hk
  next => cases hk
  next => cases hk
  next => cases hk
  next e => rw [e] at hown; cases hown
  next e => rw [e] at hown; cases hown
  next => rw [h.requested i] at hk; cases hk
  next e => exact .inl ⟨e, h.warn ▸ hk⟩
  next e => exact .inr ⟨e, h.fault hk⟩

/-- The lamp of an active warning is found true. -/
theorem LampsReset.foundCond_drivetime (h : LampsReset warnings faulty p) (hi : lightable p.working warnings faulty i)
    (hk : (lampRec p.working i).kind = .drivetime) : Machine.foundCond p i = true := by
  obtain ⟨hg, ⟨-, hw⟩ | ⟨hf, -⟩⟩ := hi
  · have ht : kindTruth p i (Machine.foundHyst p i) = true := by
      simp only [kindTruth, hk, h.warn]
      exact hw
    have ho : gateOpen p i = true := by simp only [gateOpen, hg]
    rw [Machine.foundCond, ht, ho]
    rfl
  · rw [hk] at hf
    cases hf

/-- What moves one of the lamps that may come on leaves the others, and what is judged, as they were. -/
theorem LampsReset.moved (h : LampsReset warnings faulty p) (hi : lightable p.working warnings faulty i)
    (hm : LampMoved (lightable p.working warnings faulty) i p q) (hy : q.lamps[i].hyst = false)
    (hb : (lampRec p.working i).kind = .drivetime →
      q.lamps[i].state = if q.lamps[i].cond then lampBegun (lampRec p.working i) else .off) : LampsReset warnings faulty q := by
  obtain ⟨hw, hu⟩ := hm.frame.same
  obtain ⟨s1, s2, s3, -⟩ := hm.self
  refine ⟨hm.chime.trans h.chime, hw ▸ hm.held, fun j hj => ?_, fun j hj => ?_, fun j => ?_, fun j => ?_, fun j hj => ?_,
    fun j hl hj => ?_, (congrArg LampUnit.warn hu).trans h.warn, fun hf => h.fault ?_, hm.mem.1⟩
  · rw [hw] at hj
    rw [hm.others j fun e => hj (e ▸ hi)]
    exact h.dark j hj
  · rw [hw] at hj ⊢
    by_cases e : j = i
    · subst e
      exact hb hj
    · rw [hm.others j e]
      exact h.begun j hj
  · by_cases e : j = i
    · subst e
      exact s1.trans (h.requested j)
    · rw [hm.others j e]
      exact h.requested j
  · by_cases e : j = i
    · subst e
      exact hy
    · rw [hm.others j e]
      exact h.hyst j
  · rw [hw] at hj
    by_cases e : j = i
    · subst e
      exact s2.trans (h.own j hj)
    · rw [hm.others j e]
      exact h.own j hj
  · rw [hw] at hl hj
    by_cases e : j = i
    · subst e
      exact s3.trans (h.gate j hl hj)
    · rw [hm.others j e]
      exact h.gate j hl hj
  · rwa [← anyLampFault_congr hw hm.diag]

theorem LampsReset.evalLamp (h : LampsReset warnings faulty p) (i : Fin 32) : LampsReset warnings faulty (evalLamp i p) := by
  have hfh := h.foundHyst i
  have hset : setLamp i (fun l => { l with hyst := Machine.foundHyst p i }) p = p := by
    rw [hfh, ← h.hyst i]
    exact congrArg (fun ls => { p with lamps := ls }) (Vector.set_getElem_self _)
  rcases evalLamp_cases i p with ⟨he, -⟩ | ⟨-, -, -, he⟩ | ⟨hu, -, ht, he⟩
  · rwa [he]
  · rwa [he, hset]
  · have hi : lightable p.working warnings faulty i := by
      by_contra hn
      have hd := (h.dark i hn).2.1
      rw [hd] at ht
      exact hn (h.foundCond hu (by simpa using ht))
    have hmoved := evalLamp_moved hi h.chime h.held h.mem
    have hev := conditionEvent_events i (Machine.foundCond p i) (.refl (updLamp i (fun l => { l with cond := Machine.foundCond p i }) p))
    obtain ⟨u1, u2⟩ := updLamp_told i (fun l => { l with cond := Machine.foundCond p i }) p
    rw [hset] at he
    have hl : (updLamp i (fun l => { l with cond := Machine.foundCond p i }) p).lamps[i] =
        { p.lamps[i] with cond := Machine.foundCond p i } := by rw [u2, updAt_self]
    have hin : (Machine.evalLamp i p).lamps[i].inputs = { p.lamps[i].inputs with cond := Machine.foundCond p i } := by
      rw [he, hev.2 i, hl]
      rfl
    refine h.moved hi hmoved ((congrArg LampInputs.hyst hin).trans (h.hyst i)) fun hk => ?_
    have hc : (Machine.evalLamp i p).lamps[i].cond = Machine.foundCond p i := congrArg LampInputs.cond hin
    have htrue := h.foundCond_drivetime hi hk
    have hoff : p.lamps[i].state = .off := by
      have hfalse : p.lamps[i].cond = false := by simpa [htrue] using ht
      rw [h.begun i hk, hfalse]
      rfl
    have hm : LampMoved (lightable p.working warnings faulty) i p _ :=
      .of_told u1 u2 rfl (fun _ _ => ⟨rfl, rfl⟩) h.held ((RecordWrites.refl h.mem).updLamp i _)
    have hs := (conditionEvent_moved (Machine.foundCond p i) hi (hm.chime.trans h.chime) hm.held hm.mem.1).2
      (by rw [hl]; exact hoff) htrue
    rw [hc, htrue, he, hs, hm.frame.same.1]
    rfl

end

end Sys2Proof.Machine
end

section
namespace Sys2Proof.Machine

variable {b p q r : Part} {i : Fin 32}

/-! ### Several conditions evaluated while the chime is at rest -/

/-- Since `b` lamps have moved, and no diagnosis has changed; in a restart no mode and no low-current count has. -/
structure LampsMoved (b p : Part) : Prop where
  frame : LampsOnly b p
  chime : p.chime = b.chime
  diag : ∀ j : Fin 32, p.lamps[j].diag = b.lamps[j].diag
  outs : b.ctl.restart.isSome → ModesComposed b → ∀ j : Fin 32, p.lamps[j].mode = b.lamps[j].mode ∧ p.lamps[j].lowCount = b.lamps[j].lowCount
  mem : RecordWrites b.mem p.mem

theorem LampMoved.lamps {L : Fin 32 → Prop} (h : LampMoved L i b p) : LampsMoved b p := ⟨h.frame, h.chime, h.diag, h.outs, h.mem⟩

theorem LampsMoved.refl (hm : Memory.wf p.mem = true) : LampsMoved p p := ⟨rfl, rfl, fun _ => rfl, fun _ _ _ => ⟨rfl, rfl⟩, .refl hm⟩

theorem LampsMoved.modes (h : LampsMoved b p) (hr : b.ctl.restart.isSome) (hm : ModesComposed b) : ModesComposed p := fun j => by
  rw [composedMode_restart_congr hr h.frame.same.1 h.frame.ctl (h.diag j), ← hm j]
  exact (h.outs hr hm j).1

theorem LampsMoved.trans (h : LampsMoved b p) (h' : LampsMoved p q) : LampsMoved b q := by
  refine ⟨h.frame.trans h'.frame, h'.chime.trans h.chime, fun j => (h'.diag j).trans (h.diag j), fun hr hm j => ?_, h.mem.trans h'.mem⟩
  obtain ⟨e1, e2⟩ := h'.outs (h.frame.ctl ▸ hr) (h.modes hr hm) j
  obtain ⟨e3, e4⟩ := h.outs hr hm j
  exact ⟨e1.trans e3, e2.trans e4⟩

theorem forEach_evalLamp_moved (is : List (Fin 32)) (hc : p.chime = Chime.reset) (hm : Memory.wf p.mem = true) :
    LampsMoved p (forEach is evalLamp p) := by
  refine forEach_closed (P := LampsMoved p) (fun i q hq => hq.trans ?_) is (.refl hm)
  exact (evalLamp_moved (L := fun _ => True) trivial (hq.chime.trans hc) ⟨fun _ h => absurd trivial h, fun _ _ => trivial⟩ hq.mem.1).lamps

/-! ### The warnings' lamps -/

section
variable {warnings : BitVec 6} {faulty : Prop}

/-- The conditions of the lamps of active warnings are true. -/
def WarningsShown (warnings : BitVec 6) (faulty : Prop) (p : Part) : Prop :=
  ∀ j : Fin 32, lightable p.working warnings faulty j → (lampRec p.working j).kind = .drivetime → p.lamps[j].cond = true

/-- A lamp with another output, or another diagnosis. -/
def SameCourse (l m : Lamp) : Prop :=
  m = { l with diag := m.diag, lowCount := m.lowCount, sense := m.sense, mode := m.mode, lit := m.lit, pending := m.pending, active := m.active }

/-- What else of the part changes leaves the lamps reset. -/
theorem LampsReset.same (h : LampsReset warnings faulty p) (hw : q.working = p.working) (hc : q.chime = p.chime)
    (hs : q.panel.stack = p.panel.stack) (hu : q.lampU.warn = p.lampU.warn) (hl : ∀ j : Fin 32, SameCourse p.lamps[j] q.lamps[j])
    (hf : anyLampFault q = true → anyLampFault p = true) (hm : Memory.wf q.mem = true) : LampsReset warnings faulty q where
  chime := hc.trans h.chime
  held := by
    rw [hw]
    exact ⟨fun j hj => by rw [hl j]; exact h.held.1 j hj, by rw [hs]; exact h.held.2⟩
  dark j hj := by
    rw [hw] at hj
    rw [hl j]
    exact h.dark j hj
  begun j hj := by
    rw [hw] at hj ⊢
    rw [hl j]
    exact h.begun j hj
  requested j := by
    rw [hl j]
    exact h.requested j
  hyst j := by
    rw [hl j]
    exact h.hyst j
  own j hj := by
    rw [hw] at hj
    rw [hl j]
    exact h.own j hj
  gate j hu hj := by
    rw [hw] at hu hj
    rw [hl j]
    exact h.gate j hu hj
  warn := hu.trans h.warn
  fault hq := h.fault (hf hq)
  mem := hm

theorem LampsReset.evalEach (h : LampsReset warnings faulty p) (is : List (Fin 32)) :
    LampsReset warnings faulty (forEach is Machine.evalLamp p) := forEach_closed (fun i _ hq => hq.evalLamp i) is h

theorem foundCond_of_stands (h : conditionStands p i) : p.lamps[i].cond = Machine.foundCond p i := by
  obtain ⟨h1, h2⟩ := h
  rw [h2, Machine.foundCond, Machine.foundHyst, ← h1]

/-- An evaluation shows the warning of its lamp, and leaves the others' shown. -/
theorem LampsReset.evaluated_shown {A : Fin 32 → Prop} {u v : Fin 32 → Result → Result} (h : LampsReset warnings faulty q)
    (he : Evaluated A u v p q) (hs : ∀ j : Fin 32, ¬ A j ∨ conditionFrozen p j = true → lightable p.working warnings faulty j →
      (lampRec p.working j).kind = .drivetime → p.lamps[j].cond = true) : WarningsShown warnings faulty q := by
  intro j hj hk
  have hw := he.frame.same.1
  have hu : lampUsed p.working j = true := lampUsed_of_drivetime (hw ▸ hk)
  by_cases hA : A j ∧ conditionFrozen p j = false
  · obtain ⟨hA, hf⟩ := hA
    rw [foundCond_of_stands (he.stands j hA hu hf)]
    exact h.foundCond_drivetime hj hk
  · have hA : ¬ A j ∨ conditionFrozen p j = true := by simpa [or_iff_not_imp_left] using hA
    have hc : q.lamps[j].cond = p.lamps[j].cond := hA.elim (fun hn => congrArg LampInputs.cond (he.aside j hn)) fun hf => he.idle j (.inr hf)
    rw [hc]
    exact hs j hA (hw ▸ hj) (hw ▸ hk)

theorem LampsReset.evalLamps_shown (h : LampsReset warnings faulty p) (hf : p.lampU.frozen = false) :
    WarningsShown warnings faulty (evalLamps p) := by
  have hq : LampsReset warnings faulty (evalLamps p) := h.evalEach allLamps
  have he : Evaluated _ _ _ p (evalLamps p) := Machine.forEach_evalLamp allLamps (List.nodup_finRange 32) p
  exact hq.evaluated_shown he fun j hn => by simp [allLamps, conditionFrozen, hf] at hn

/-! ### Diagnoses retried (R139) -/

theorem LampsReset.composeLamp (h : LampsReset warnings faulty p) (i : Fin 32) : LampsReset warnings faulty (composeLamp i p) := by
  obtain ⟨c1, c2⟩ := composeLamp_told i p
  have hm := (RecordWrites.refl h.mem).composeLamp i
  have hl (j : Fin 32) : SameCourse p.lamps[j] (Machine.composeLamp i p).lamps[j] ∧
      (Machine.composeLamp i p).lamps[j].diag = p.lamps[j].diag := by
    rw [c2]
    by_cases e : i = j
    · subst e
      rw [updAt_self, composedLamp_eq]
      exact ⟨rfl, rfl⟩
    · rw [updAt_other i j _ _ e]
      exact ⟨rfl, rfl⟩
  have hw : (Machine.composeLamp i p).working = p.working := by rw [c1]
  refine h.same hw (by rw [c1]) (by rw [c1]) (by rw [c1]) (fun j => (hl j).1) (fun hf => ?_) hm.1
  rwa [← anyLampFault_congr hw fun j => (hl j).2]

end

/-- A lamp whose diagnosis is retried. -/
def Lamp.retried (l : Lamp) : Lamp := { l with diag := .untested, sense := .none, lowCount := 0 }

theorem setDiag_retried (i : Fin 32) (p : Part) : setDiag i .untested .none 0 p = updLamp i Lamp.retried p ∨
    setDiag i .untested .none 0 p = evalLampFaults (composeLamp i (updLamp i Lamp.retried p)) :=
  (ite_eq_or_eq (Diag.untested = p.lamps[i].diag) _ _)

theorem composeLamp_chime (i : Fin 32) (p : Part) : (composeLamp i p).chime = p.chime := by
  rw [(composeLamp_told i p).1]

theorem composeLamp_working (i : Fin 32) (p : Part) : (composeLamp i p).working = p.working := by
  rw [(composeLamp_told i p).1]

theorem updLamp_working (i : Fin 32) (f : Lamp → Lamp) (p : Part) : (updLamp i f p).working = p.working := by
  rw [(updLamp_told i f p).1]

theorem retry_chime (i : Fin 32) (hc : p.chime = Chime.reset) (hm : Memory.wf p.mem = true) :
    (setDiag i .untested .none 0 p).chime = Chime.reset ∧ RecordWrites p.mem (setDiag i .untested .none 0 p).mem := by
  have h1 : (updLamp i Lamp.retried p).chime = Chime.reset := by rw [(updLamp_told i Lamp.retried p).1]; exact hc
  have h2 := (RecordWrites.refl hm).updLamp i Lamp.retried
  have hc' := (composeLamp_chime i (updLamp i Lamp.retried p)).trans h1
  have h3 := h2.composeLamp i
  have h4 : LampsMoved _ (evalLampFaults _) := forEach_evalLamp_moved (allLamps.filter fun (j : Fin 32) =>
    (lampRec (composeLamp i (updLamp i Lamp.retried p)).working j).kind == .lampfault) hc' h3.1
  rcases setDiag_retried i p with he | he
  · rw [he]
    exact ⟨h1, h2⟩
  · rw [he]
    exact ⟨h4.chime.trans hc', h3.trans h4.mem⟩

theorem retryShorts_chime (hc : p.chime = Chime.reset) (hm : Memory.wf p.mem = true) :
    (retryShorts p).chime = Chime.reset ∧ RecordWrites p.mem (retryShorts p).mem :=
  forEach_closed (P := fun q => q.chime = Chime.reset ∧ RecordWrites p.mem q.mem) (fun i q ⟨h1, h2⟩ => by
    obtain ⟨h3, h4⟩ := retry_chime i h1 h2.1
    exact ⟨h3, h2.trans h4⟩) _ ⟨hc, .refl hm⟩

section
variable {warnings : BitVec 6} {faulty : Prop}

/-- R139: a lamp whose diagnosis is retried is no fault. -/
theorem LampsReset.retried (h : LampsReset warnings faulty p) (i : Fin 32) : LampsReset warnings faulty (updLamp i Lamp.retried p) := by
  obtain ⟨c1, c2⟩ := updLamp_told i Lamp.retried p
  have hm := (RecordWrites.refl h.mem).updLamp i Lamp.retried
  have hl (j : Fin 32) : SameCourse p.lamps[j] (updLamp i Lamp.retried p).lamps[j] ∧
      ((updLamp i Lamp.retried p).lamps[j].diag = .open ∨ (updLamp i Lamp.retried p).lamps[j].diag = .short →
        p.lamps[j].diag = .open ∨ p.lamps[j].diag = .short) := by
    rw [c2]
    by_cases e : i = j
    · subst e
      rw [updAt_self]
      exact ⟨rfl, by rintro (h | h) <;> cases h⟩
    · rw [updAt_other i j _ _ e]
      exact ⟨rfl, id⟩
  have hw : (updLamp i Lamp.retried p).working = p.working := by rw [c1]
  refine h.same hw (by rw [c1]) (by rw [c1]) (by rw [c1]) (fun j => (hl j).1) (fun hf => ?_) hm.1
  simp only [anyLampFault, hw, List.any_eq_true, Bool.and_eq_true, Bool.or_eq_true, beq_iff_eq] at hf ⊢
  obtain ⟨j, hj, hk, hd⟩ := hf
  exact ⟨j, hj, hk, (hl j).2 hd⟩

theorem WarningsShown.same (h : WarningsShown warnings faulty p) (hw : q.working = p.working)
    (hl : ∀ j : Fin 32, q.lamps[j].cond = p.lamps[j].cond) : WarningsShown warnings faulty q := fun j hj hk => by
  rw [hw] at hj hk
  rw [hl j]
  exact h j hj hk

theorem updLamp_cond (f : Lamp → Lamp) (hf : ∀ l, (f l).cond = l.cond) (i j : Fin 32) : (updLamp i f p).lamps[j].cond = p.lamps[j].cond := by
  rw [(updLamp_told i f p).2]
  by_cases e : i = j
  · subst e
    rw [updAt_self, hf]
  · rw [updAt_other i j _ _ e]

theorem composeLamp_cond (i j : Fin 32) : (composeLamp i p).lamps[j].cond = p.lamps[j].cond := by
  rw [(composeLamp_told i p).2]
  by_cases e : i = j
  · subst e
    rw [updAt_self, composedLamp_eq]
  · rw [updAt_other i j _ _ e]

theorem LampsReset.retry (h : LampsReset warnings faulty p) (hs : WarningsShown warnings faulty p) (i : Fin 32) :
    LampsReset warnings faulty (setDiag i .untested .none 0 p) ∧ WarningsShown warnings faulty (setDiag i .untested .none 0 p) := by
  have h1 := h.retried i
  have hs1 : WarningsShown warnings faulty (updLamp i Lamp.retried p) :=
    hs.same (updLamp_working i _ p) fun j => updLamp_cond Lamp.retried (fun _ => rfl) i j
  have h2 := h1.composeLamp i
  have hs2 : WarningsShown warnings faulty (Machine.composeLamp i (updLamp i Lamp.retried p)) :=
    hs1.same (composeLamp_working i _) fun j => composeLamp_cond i j
  generalize hq : Machine.composeLamp i (updLamp i Lamp.retried p) = q at h2 hs2
  have h3 : LampsReset warnings faulty (evalLampFaults q) := h2.evalEach _
  have he : Evaluated _ _ _ q (evalLampFaults q) := Machine.forEach_evalLamp _ ((List.nodup_finRange 32).filter _) q
  rcases setDiag_retried i p with e | e
  · rw [e]
    exact ⟨h1, hs1⟩
  · rw [e, hq]
    exact ⟨h3, h3.evaluated_shown he fun j _ => hs2 j⟩

theorem LampsReset.retryShorts (h : LampsReset warnings faulty p) (hs : WarningsShown warnings faulty p) :
    LampsReset warnings faulty (retryShorts p) ∧ WarningsShown warnings faulty (retryShorts p) :=
  forEach_closed (P := fun q => LampsReset warnings faulty q ∧ WarningsShown warnings faulty q) (fun i _ ⟨h1, h2⟩ => h1.retry h2 i) _ ⟨h, hs⟩

end

end Sys2Proof.Machine
end

section
namespace Sys2Proof.Machine

variable {p q r : Part}

/-! ## The accounting of a restart's end -/

/-! ### What the Journal takes (R169) -/

/-- The Journal, its marks and its bytes, and the clock that stamps its entries, are alike. -/
structure SameJournal (p q : Part) : Prop where
  jour : q.jour = p.jour
  clock : q.acct.clock = p.acct.clock ∧ q.acct.timeValid = p.acct.timeValid
  wf : Memory.wf p.mem = true ∧ Memory.wf q.mem = true
  bytes : ∀ k, inRecord 0x800 0x800 k → memRead q.mem k = memRead p.mem k

theorem SameJournal.refl (h : Memory.wf p.mem = true) : SameJournal p p := ⟨rfl, ⟨rfl, rfl⟩, ⟨h, h⟩, fun _ _ => rfl⟩

theorem SameJournal.trans (h : SameJournal p q) (h' : SameJournal q r) : SameJournal p r := by
  obtain ⟨h1, ⟨h2, h3⟩, ⟨h4, -⟩, h5⟩ := h
  obtain ⟨h1', ⟨h2', h3'⟩, ⟨-, h4'⟩, h5'⟩ := h'
  exact ⟨h1'.trans h1, ⟨h2'.trans h2, h3'.trans h3⟩, ⟨h4, h4'⟩, fun k hk => (h5' k hk).trans (h5 k hk)⟩

theorem SameJournal.symm (h : SameJournal p q) : SameJournal q p := by
  obtain ⟨h1, ⟨h2, h3⟩, ⟨h4, h4'⟩, h5⟩ := h
  exact ⟨h1.symm, ⟨h2.symm, h3.symm⟩, ⟨h4', h4⟩, fun k hk => (h5 k hk).symm⟩

/-- What is written below the Journal leaves it. -/
theorem SameJournal.of_records (hm : Memory.wf p.mem = true) (hj : q.jour = p.jour)
    (hc : q.acct.clock = p.acct.clock ∧ q.acct.timeValid = p.acct.timeValid) (h : RecordWrites p.mem q.mem) : SameJournal p q := by
  obtain ⟨hw, ha⟩ := h
  refine ⟨hj, hc, ⟨hm, hw⟩, fun k hk => ha k ?_⟩
  simp only [inRecord] at hk
  simp only [recordByte]
  omega

/-- The same bytes written at the same place. -/
theorem SameJournal.store (h : SameJournal p q) (a : Nat) (bs : List Byte) : SameJournal (p.store a bs) (q.store a bs) := by
  obtain ⟨h1, h2, ⟨h3, h4⟩, h5⟩ := h
  refine ⟨h1, h2, ?_, fun k hk => ?_⟩
  · rw [Part.store_mem, Part.store_mem]
    exact ⟨memWriteN_wf _ _ _ h3, memWriteN_wf _ _ _ h4⟩
  · rw [Part.store_mem, Part.store_mem]
    by_cases hin : a ≤ k ∧ k < a + bs.length
    · rw [memRead_memWriteN_in bs _ a k h3 hin.1 hin.2, memRead_memWriteN_in bs _ a k h4 hin.1 hin.2]
    · rw [memRead_memWriteN_out bs _ a k h3 (by omega), memRead_memWriteN_out bs _ a k h4 (by omega)]
      exact h5 k hk

theorem SameJournal.notice (h : SameJournal p q) (n : Notice) : SameJournal (setNotice n p) (setNotice n q) := by
  have hp : SameJournal p (setNotice n p) := .of_records h.wf.1 rfl ⟨rfl, rfl⟩ ((RecordWrites.refl h.wf.1).notice n)
  have hq : SameJournal q (setNotice n q) := .of_records h.wf.2 rfl ⟨rfl, rfl⟩ ((RecordWrites.refl h.wf.2).notice n)
  exact (hp.symm.trans h).trans hq

theorem SameJournal.control (h : SameJournal p q) (x : Journal) :
    SameJournal (writeJournalControl { p with jour := x }) (writeJournalControl { q with jour := x }) := by
  have h' : SameJournal { p with jour := x } { q with jour := x } := ⟨rfl, h.clock, h.wf, h.bytes⟩
  exact h'.store _ _

theorem SameJournal.record (h : SameJournal p q) (b : EntryBody) (lost : Half) : SameJournal (recordEntry b lost p) (recordEntry b lost q) := by
  have he (r : Part) : recordEntry b lost r = writeJournalControl
      { r.store (journalEntryAddr r.jour.wm) (entryBytes r.jour.seq r.acct.clock r.acct.timeValid b) with
        jour := { r.jour with wm := r.jour.wm + 1, seq := r.jour.seq + 1, lost := lost } } := rfl
  rw [he, he, h.jour, h.clock.1, h.clock.2]
  exact (h.store _ _).control _

theorem SameJournal.lose (h : SameJournal p q) : SameJournal (loseEntry p) (loseEntry q) := by
  have he (r : Part) : loseEntry r = setNotice .jfull (writeJournalControl { r with
      jour := if r.jour.lost = 0xFFFF then r.jour else { r.jour with lost := r.jour.lost + 1, seq := r.jour.seq + 1 } }) := rfl
  rw [he, he, h.jour]
  exact (h.control _).notice .jfull

theorem SameJournal.submit (h : SameJournal p q) (e : Submission) : SameJournal (submit e p) (submit e q) := by
  unfold Machine.submit
  rw [h.jour]
  split
  · exact (h.record _ _).notice .journal
  · exact h.lose

theorem SameJournal.submits (subs : List Submission) : ∀ {p q : Part}, SameJournal p q →
    SameJournal (subs.foldl (fun p e => Machine.submit e p) p) (subs.foldl (fun p e => Machine.submit e p) q) := by
  induction subs with
  | nil => exact fun h => h
  | cons e subs ih => exact fun h => ih (h.submit e)

/-! ### Submissions one after another -/

/-- Between `p` and `q` the Journal has taken these submissions, and nothing else has changed but the accounting, whose clock stands. -/
structure Submitted (subs : List Submission) (p q : Part) : Prop where
  frame : q = { p with exch := q.exch, arb := q.arb, acct := q.acct, jour := q.jour }
  journal : SameJournal (subs.foldl (fun p e => submit e p) p) q
  clock : q.acct.clock = p.acct.clock ∧ q.acct.timeValid = p.acct.timeValid
  mem : OwnWrites p.mem q.mem

theorem Submitted.trans {xs ys : List Submission} (h : Submitted xs p q) (h' : Submitted ys q r) : Submitted (xs ++ ys) p r := by
  refine ⟨?_, ?_, ⟨h'.clock.1.trans h.clock.1, h'.clock.2.trans h.clock.2⟩, h'.mem.1, h.mem.2.trans h'.mem.2⟩
  · refine Eq.trans h'.frame ?_
    rw [h.frame]
  · rw [List.foldl_append]
    exact (h.journal.submits ys).trans h'.journal

theorem Submitted.acct (hm : Memory.wf p.mem = true) (a : Acct) (hc : a.clock = p.acct.clock ∧ a.timeValid = p.acct.timeValid) :
    Submitted [] p { p with acct := a } :=
  ⟨rfl, ⟨rfl, hc, ⟨hm, hm⟩, fun _ _ => rfl⟩, hc, .refl hm⟩

theorem Submitted.entry (hm : Memory.wf p.mem = true) (e : Submission) : Submitted [e] p (submit e p) := by
  have hw : OwnWrites p.mem (submit e p).mem := submit_closed (P := fun q => OwnWrites p.mem q.mem)
    (ownWrites_inputClosed p.mem).toJournalClosed e (.refl hm)
  have hf := submit_frame e p
  refine ⟨?_, .refl hw.1, ?_, hw⟩
  · generalize submit e p = q at hf
    rw [hf]
  · generalize submit e p = q at hf
    rw [hf]
    exact ⟨rfl, rfl⟩

/-! ### Warnings put in a restart (R161, R162) -/

/-- A set of warnings with one of them begun or ended. -/
def withWarning (k : Nat) (b : Bool) (w : BitVec 6) : BitVec 6 := if b then w ||| (1#6 <<< k) else w &&& ~~~(1#6 <<< k)

theorem withWarning_getLsbD {k : Nat} (hk : k < 6) (b : Bool) (w : BitVec 6) (j : Nat) :
    (withWarning k b w).getLsbD j = if j = k then b else w.getLsbD j := by
  have h1 : (1#6 <<< k).getLsbD j = decide (j = k) := by
    rw [show 1#6 <<< k = BitVec.twoPow 6 k from (BitVec.twoPow_eq 6 k).symm, BitVec.getLsbD_twoPow]
    simp [hk, eq_comm]
  unfold withWarning
  split
  next h =>
    rw [BitVec.getLsbD_or, h1, h]
    by_cases e : j = k <;> simp [e]
  next h =>
    have hb : b = false := by simpa using h
    rw [BitVec.getLsbD_and, BitVec.getLsbD_not, h1, hb]
    by_cases h6 : j < 6
    · by_cases e : j = k <;> simp [e, hk, h6]
    · have e : ¬ j = k := by omega
      rw [if_neg e, BitVec.getLsbD_of_ge _ _ (Nat.not_lt.1 h6), Bool.false_and]

/-- The entry of one warning, where it changes. -/
def changeEntries (w : BitVec 6) (k : Nat) (b : Bool) : List Submission := if w.getLsbD k = b then [] else (warningEntry k b).toList

/-- Since `p` the accounting's warnings alone have changed, with these entries. -/
structure WarningsPut (subs : List Submission) (p q : Part) : Prop where
  submitted : Submitted subs p q
  acct : q.acct = { p.acct with warnings := q.acct.warnings }

theorem putWarning_put {k : Nat} (hk : k < 6) (b : Bool) (hr : p.ctl.restart.isSome) (hm : Memory.wf p.mem = true) :
    WarningsPut (changeEntries p.acct.warnings k b) p (putWarning k b p) ∧
      ∀ j, (putWarning k b p).acct.warnings.getLsbD j = if j = k then b else p.acct.warnings.getLsbD j := by
  unfold putWarning changeEntries
  split
  next h =>
    refine ⟨⟨.acct hm p.acct ⟨rfl, rfl⟩, rfl⟩, fun j => ?_⟩
    split
    next e => rw [e, h]
    next => rfl
  next =>
    have hn : p.ctl.restart.isNone = false := by
      obtain ⟨c, hc⟩ := Option.isSome_iff_exists.1 hr
      rw [hc]
      rfl
    have h1 := Submitted.acct hm { p.acct with warnings := withWarning k b p.acct.warnings } ⟨rfl, rfl⟩
    have hq : changeWarning k b p = match warningEntry k b with
        | some e => submit e { p with acct := { p.acct with warnings := withWarning k b p.acct.warnings } }
        | none => { p with acct := { p.acct with warnings := withWarning k b p.acct.warnings } } := by
      have h0 : changeWarning k b p = match warningEntry k b with
        | some e => submit e (onlyIf p.ctl.restart.isNone (tellWarning k b) { p with acct := { p.acct with warnings := withWarning k b p.acct.warnings } })
        | none => onlyIf p.ctl.restart.isNone (tellWarning k b) { p with acct := { p.acct with warnings := withWarning k b p.acct.warnings } } := rfl
      rw [h0, hn]
      rfl
    rw [hq]
    generalize hu : ({ p with acct := { p.acct with warnings := withWarning k b p.acct.warnings } } : Part) = u at h1
    have hw : u.acct.warnings = withWarning k b p.acct.warnings := by rw [← hu]
    have ha : u.acct = { p.acct with warnings := u.acct.warnings } := by rw [← hu]
    cases warningEntry k b with
    | none => exact ⟨⟨h1, ha⟩, fun j => by rw [hw]; exact withWarning_getLsbD hk b _ j⟩
    | some e =>
      have h2 := h1.trans (.entry h1.mem.1 e)
      have hs : (submit e u).acct = u.acct := by rw [submit_frame]
      exact ⟨⟨h2, by rw [hs]; exact ha⟩, fun j => by rw [hs, hw]; exact withWarning_getLsbD hk b _ j⟩

theorem putWarnings_put (f : Nat → Bool) (ks : List Nat) (hk : ∀ k ∈ ks, k < 6) (hn : ks.Nodup) : ∀ {p : Part}, p.ctl.restart.isSome →
    Memory.wf p.mem = true → WarningsPut (ks.flatMap fun k => changeEntries p.acct.warnings k (f k)) p (forEach ks (fun k q => putWarning k (f k) q) p) ∧
      ∀ j, (forEach ks (fun k q => putWarning k (f k) q) p).acct.warnings.getLsbD j = if j ∈ ks then f j else p.acct.warnings.getLsbD j := by
  induction ks with
  | nil => exact fun {p} _ hm => ⟨⟨.acct hm p.acct ⟨rfl, rfl⟩, rfl⟩, fun j => by simp [forEach]⟩
  | cons k ks ih =>
    intro p hr hm
    obtain ⟨hk0, hk⟩ := List.forall_mem_cons.1 hk
    obtain ⟨hnk, hn⟩ := List.nodup_cons.1 hn
    obtain ⟨⟨s1, a1⟩, w1⟩ := putWarning_put hk0 (f k) hr hm
    obtain ⟨⟨s2, a2⟩, w2⟩ := ih hk hn (p := putWarning k (f k) p) (by rw [s1.frame]; exact hr) s1.mem.1
    have he : (ks.flatMap fun j => changeEntries (putWarning k (f k) p).acct.warnings j (f j)) =
        ks.flatMap fun j => changeEntries p.acct.warnings j (f j) :=
      List.flatMap_congr fun j hj => by
        have e : ¬ j = k := fun e => hnk (e ▸ hj)
        rw [changeEntries, changeEntries, w1, if_neg e]
    rw [he] at s2
    refine ⟨⟨s1.trans s2, a2.trans (by rw [a1]; rfl)⟩, fun j => (w2 j).trans ?_⟩
    rw [w1]
    by_cases hj : j ∈ ks
    · simp [hj]
    · by_cases e : j = k <;> simp [hj, e, hnk]

theorem changeEntries_silent {w : BitVec 6} {k : Nat} {b : Bool} (h : warningEntry k b = none) : changeEntries w k b = [] := by
  simp [changeEntries, h]

theorem changeEntries_begun {w : BitVec 6} {k : Nat} {e : Submission} (b : Bool) (h : warningEntry k true = some e)
    (h' : warningEntry k false = none) : changeEntries w k b = if b && !w.getLsbD k then [e] else [] := by
  cases b
  · exact changeEntries_silent h'
  · cases hw : w.getLsbD k <;> simp [changeEntries, hw, h]

theorem warningEntries_eq (was is : BitVec 6) :
    [0, 1, 2, 3, 4].flatMap (fun k => changeEntries was k (is.getLsbD k)) = warningEntries was is := by
  have h4 : changeEntries was 4 (is.getLsbD 4) = if is.getLsbD 4 != was.getLsbD 4 then [.noCardMoving (was.getLsbD 4)] else [] := by
    rw [changeEntries]
    generalize was.getLsbD 4 = x
    generalize is.getLsbD 4 = y
    cases x <;> cases y <;> rfl
  simp only [List.flatMap_cons, List.flatMap_nil]
  rw [changeEntries_silent rfl, changeEntries_begun _ rfl rfl, changeEntries_silent rfl, changeEntries_begun _ rfl rfl, h4]
  simp [warningEntries]

/-! ### The motion state forced to STOPPED (R151, R152, R161) -/

/-- R161: the first five warnings are evaluated. -/
theorem evalWarnings_put (hr : p.ctl.restart.isSome) (hm : Memory.wf p.mem = true) :
    WarningsPut (warningEntries p.acct.warnings (evalWarnings p).acct.warnings) p (evalWarnings p) ∧
      ∀ j, (evalWarnings p).acct.warnings.getLsbD j = if j < 5 then warningActive p.acct j else p.acct.warnings.getLsbD j := by
  obtain ⟨h1, h2⟩ := putWarnings_put (warningActive p.acct) [0, 1, 2, 3, 4] (by decide) (by decide) hr hm
  have he : evalWarnings p = forEach [0, 1, 2, 3, 4] (fun k q => putWarning k (warningActive p.acct k) q) p := rfl
  rw [← he] at h1 h2
  have hw (j : Nat) : (evalWarnings p).acct.warnings.getLsbD j = if j < 5 then warningActive p.acct j else p.acct.warnings.getLsbD j := by
    rw [h2]
    have : j ∈ [0, 1, 2, 3, 4] ↔ j < 5 := by simp; omega
    simp [this]
  refine ⟨?_, hw⟩
  rw [← warningEntries_eq]
  have hl : [0, 1, 2, 3, 4].flatMap (fun k => changeEntries p.acct.warnings k ((evalWarnings p).acct.warnings.getLsbD k)) =
      [0, 1, 2, 3, 4].flatMap fun k => changeEntries p.acct.warnings k (warningActive p.acct k) :=
    List.flatMap_congr fun k hk => by
      have : k < 5 := by simp at hk; omega
      rw [hw, if_pos this]
  rw [hl]
  exact h1

/-- A second evaluation finds nothing changed. -/
theorem evalWarnings_again (hr : p.ctl.restart.isSome) (hm : Memory.wf p.mem = true) : evalWarnings (evalWarnings p) = evalWarnings p := by
  obtain ⟨⟨-, h1⟩, h2⟩ := evalWarnings_put hr hm
  refine forEach_fixed fun k hk => if_pos ?_
  have hk5 : k < 5 := by simp at hk; omega
  rw [h2, if_pos hk5, h1]
  rfl

/-- What stands of the seats while activities change: who is seated, what is selected, and what is counted. -/
def SeatsKept (a b : Acct) : Prop := ∀ id, (getSeat b id).map (fun x => (x.identity, x.selected, x.cdt, x.ddt)) =
  (getSeat a id).map (fun x => (x.identity, x.selected, x.cdt, x.ddt))

/-- Since `p` the effective activities, and what follows them, alone have changed, with these entries. -/
structure SeatsPut (subs : List Submission) (p q : Part) : Prop where
  submitted : Submitted subs p q
  acct : q.acct = { p.acct with seat1 := q.acct.seat1, seat2 := q.acct.seat2 }
  kept : SeatsKept p.acct q.acct

theorem SeatsPut.trans {xs ys : List Submission} (h : SeatsPut xs p q) (h' : SeatsPut ys q r) : SeatsPut (xs ++ ys) p r := by
  obtain ⟨s1, a1, k1⟩ := h
  obtain ⟨s2, a2, k2⟩ := h'
  refine ⟨s1.trans s2, a2.trans ?_, fun id => (k2 id).trans (k1 id)⟩
  rw [a1]

theorem SeatsPut.refl (hm : Memory.wf p.mem = true) : SeatsPut [] p p := ⟨.acct hm p.acct ⟨rfl, rfl⟩, rfl, fun _ => rfl⟩

theorem submit_acct (e : Submission) (p : Part) : (submit e p).acct = p.acct := by rw [submit_frame]

theorem SeatsPut.entry (hm : Memory.wf p.mem = true) (e : Submission) : SeatsPut [e] p (submit e p) := by
  refine ⟨.entry hm e, ?_, fun id => ?_⟩ <;> rw [submit_acct]

/-- The ACTIVITY entry of one seat, at a change to a motion state. -/
def seatEntries (moving : Bool) (a : Acct) (id : SeatId) : List Submission :=
  match getSeat a id with
  | none => []
  | some x => if effectiveOf id moving x.selected = x.effective then [] else [.activity id x.effective (effectiveOf id moving x.selected)]

theorem getSeat_putSeat (id j : SeatId) (x : Option Seat) (p : Part) :
    getSeat (putSeat id x p).acct j = if j = id then x else getSeat p.acct j := by
  cases id <;> cases j <;> rfl

/-- A seat whose effective activity becomes `e` (R157, R158). -/
def Seat.recomputed (l : Limits) (e : Activity) (x : Seat) : Seat :=
  let y := if x.effective = .rest then endSpan l x else x
  { (if e = .rest then { y with span := 0, breakInSpan := false } else y) with effective := e }

theorem Seat.recomputed_kept (l : Limits) (e : Activity) (x : Seat) : (x.recomputed l e).identity = x.identity ∧
    (x.recomputed l e).selected = x.selected ∧ (x.recomputed l e).cdt = x.cdt ∧ (x.recomputed l e).ddt = x.ddt := by
  unfold Seat.recomputed
  dsimp only
  split <;> split <;> exact ⟨rfl, rfl, rfl, rfl⟩

theorem SeatsPut.seat (hm : Memory.wf p.mem = true) {id : SeatId} {x y : Seat} (hx : getSeat p.acct id = some x)
    (hk : y.identity = x.identity ∧ y.selected = x.selected ∧ y.cdt = x.cdt ∧ y.ddt = x.ddt) : SeatsPut [] p (putSeat id (some y) p) := by
  obtain ⟨k1, k2, k3, k4⟩ := hk
  refine ⟨.acct hm _ (by cases id <;> exact ⟨rfl, rfl⟩), by cases id <;> rfl, fun j => ?_⟩
  rw [getSeat_putSeat]
  split
  next e =>
    rw [e, hx]
    simp [k1, k2, k3, k4]
  next => rfl

/-- R157: one seat's effective activity is recomputed. -/
theorem recomputeEffective_put (id : SeatId) (hm : Memory.wf p.mem = true) :
    SeatsPut (seatEntries p.acct.moving p.acct id) p (recomputeEffective id p) ∧
      ∀ j, j ≠ id → getSeat (recomputeEffective id p).acct j = getSeat p.acct j := by
  unfold recomputeEffective seatEntries
  cases hx : getSeat p.acct id with
  | none => exact ⟨.refl hm, fun _ _ => rfl⟩
  | some x =>
    dsimp only
    split
    next => exact ⟨.refl hm, fun _ _ => rfl⟩
    next =>
      have h1 := SeatsPut.seat hm hx (x.recomputed_kept p.acct.limits (effectiveOf id p.acct.moving x.selected))
      refine ⟨h1.trans (.entry h1.submitted.mem.1 _), fun j hj => ?_⟩
      rw [submit_acct]
      exact (getSeat_putSeat id j _ p).trans (if_neg hj)

/-- R157: both, seat 1 first. -/
theorem recomputeBoth_put (hm : Memory.wf p.mem = true) : SeatsPut (activityEntries p.acct.moving p.acct) p (recomputeBoth p) := by
  obtain ⟨h1, g1⟩ := recomputeEffective_put .one hm
  obtain ⟨h2, -⟩ := recomputeEffective_put .two h1.submitted.mem.1
  have he : seatEntries (recomputeEffective .one p).acct.moving (recomputeEffective .one p).acct .two = seatEntries p.acct.moving p.acct .two := by
    rw [seatEntries, g1 .two nofun, h1.acct]
    rfl
  rw [he] at h2
  have hl : activityEntries p.acct.moving p.acct = seatEntries p.acct.moving p.acct .one ++ seatEntries p.acct.moving p.acct .two := by
    have h0 : activityEntries p.acct.moving p.acct = [SeatId.one, .two].flatMap (seatEntries p.acct.moving p.acct) := rfl
    rw [h0, List.flatMap_cons, List.flatMap_cons, List.flatMap_nil, List.append_nil]
  rw [hl]
  exact h1.trans h2

/-- Since `p` the motion state has been forced to STOPPED, the first five warnings still as they were. -/
structure Stopped (subs : List Submission) (p q : Part) : Prop where
  submitted : Submitted subs p q
  moving : q.acct.moving = false
  confirm : q.acct.confirm = none
  warnings : ∀ j, q.acct.warnings.getLsbD j = if j = 5 then false else p.acct.warnings.getLsbD j
  kept : SeatsKept p.acct q.acct

theorem Submitted.restarting {subs : List Submission} (h : Submitted subs p q) (hr : p.ctl.restart.isSome) : q.ctl.restart.isSome := by
  rw [h.frame]
  exact hr

/-- R151, R152, R157: SPEED_LOST ends, and then the activities follow. -/
theorem stopMotion_stopped (hr : p.ctl.restart.isSome) (hm : Memory.wf p.mem = true) : ∃ r,
    evalWarnings (stopMotion p) = evalWarnings r ∧ Stopped
      ((if p.acct.warnings.getLsbD 5 then [.speedLost true] else []) ++ (if p.acct.moving then activityEntries false p.acct else [])) p r := by
  have h0 : Submitted [] p (idleConfirm p) := .acct hm _ ⟨rfl, rfl⟩
  obtain ⟨⟨s1, a1⟩, w1⟩ := putWarning_put (k := 5) (by decide) false (p := idleConfirm p) hr hm
  have he : changeEntries (idleConfirm p).acct.warnings 5 false = if p.acct.warnings.getLsbD 5 then [.speedLost true] else [] := by
    rw [changeEntries, show (idleConfirm p).acct.warnings = p.acct.warnings from rfl]
    generalize p.acct.warnings.getLsbD 5 = x
    cases x <;> rfl
  rw [he] at s1
  replace s1 := h0.trans s1
  generalize hq : putWarning 5 false (idleConfirm p) = q at s1 a1 w1
  have hs : stopMotion p = if q.acct.moving then putMotion false q else q := by
    rw [← hq]
    rfl
  have hmov : q.acct.moving = p.acct.moving := by rw [a1]; rfl
  rw [hs, hmov]
  split
  next =>
    have h2 : Submitted [] q (setAcct (fun a => { a with moving := false }) q) := .acct s1.mem.1 _ ⟨rfl, rfl⟩
    obtain ⟨s3, a3, k3⟩ := recomputeBoth_put h2.mem.1
    have hl : activityEntries false (setAcct (fun a => { a with moving := false }) q).acct = activityEntries false p.acct := by
      rw [setAcct, a1]
      rfl
    have hr2 := (s1.trans (h2.trans s3)).restarting hr
    refine ⟨recomputeBoth (setAcct (fun a => { a with moving := false }) q), evalWarnings_again hr2 s3.mem.1, ?_, ?_, ?_, fun j => ?_, fun id => ?_⟩
    · rw [← hl]
      exact s1.trans (h2.trans s3)
    · rw [a3]
      rfl
    · rw [a3, setAcct, a1]
      rfl
    · rw [a3]
      exact w1 j
    · refine (k3 id).trans ?_
      rw [setAcct, a1]
      cases id <;> rfl
  next h =>
    refine ⟨q, rfl, by rw [List.append_nil]; exact s1, hmov.trans (by simpa using h), by rw [a1]; rfl, w1, fun id => ?_⟩
    rw [a1]
    cases id <;> rfl

theorem warningEntries_congr {v w : BitVec 6} (is : BitVec 6) (h : ∀ j, j < 5 → v.getLsbD j = w.getLsbD j) :
    warningEntries v is = warningEntries w is := by
  rw [warningEntries, warningEntries, h 1 (by decide), h 3 (by decide), h 4 (by decide)]

/-- R152, R161: the motion state forced to STOPPED in a restart, and the warnings evaluated. -/
theorem stopMotion_submitted (hr : p.ctl.restart.isSome) (hm : Memory.wf p.mem = true) :
    let q := evalWarnings (stopMotion p)
    Submitted (stoppingEntries p.acct q.acct) p q ∧ q.acct.moving = false ∧ q.acct.confirm = none ∧
      q.acct.warnings.getLsbD 5 = false ∧ SeatsKept p.acct q.acct := by
  intro q
  obtain ⟨r, he, s1, m1, c1, w1, k1⟩ := stopMotion_stopped hr hm
  obtain ⟨⟨s2, a2⟩, w2⟩ := evalWarnings_put (s1.restarting hr) s1.mem.1
  have hq : evalWarnings r = q := he.symm
  rw [hq] at s2 a2 w2
  have hl : warningEntries r.acct.warnings q.acct.warnings = warningEntries p.acct.warnings q.acct.warnings :=
    warningEntries_congr _ fun j hj => by rw [w1, if_neg (Nat.ne_of_lt hj)]
  rw [hl] at s2
  refine ⟨s1.trans s2, by rw [a2]; exact m1, by rw [a2]; exact c1, by rw [w2, w1]; rfl, fun id => ?_⟩
  rw [a2]
  refine Eq.trans ?_ (k1 id)
  cases id <;> rfl

end Sys2Proof.Machine
end

section
namespace Sys2Proof.Machine

variable {p q r : Part}

/-! ## The blocks at a restart's end -/

/-! ### The lamps and the pointers take their restart values (R119, R145) -/

/-- A lamp reset, with its mode composed and driven. -/
def resetMode (p : Part) (i : Fin 32) (l : Lamp) : Lamp := drivenLamp p i { l with mode := composedMode p i }

theorem drivenLamp_eq (p : Part) (i : Fin 32) (l : Lamp) :
    drivenLamp p i l = { l with lit := (drivenLamp p i l).lit, pending := (drivenLamp p i l).pending } := by
  unfold drivenLamp
  split <;> rfl

theorem drivenLamp_congr {i : Fin 32} (h : LampsTold p q) (l : Lamp) : drivenLamp q i l = drivenLamp p i l := by
  unfold drivenLamp
  rw [h]
  rfl

theorem setMode_told (i : Fin 32) (p : Part) :
    LampsTold p (driveLamp i (setLamp i (fun l => { l with mode := composedMode p i }) p)) ∧
      (driveLamp i (setLamp i (fun l => { l with mode := composedMode p i }) p)).lamps = updAt i (resetMode p i) p.lamps := by
  rw [driveLamp_eq, setLamp_setLamp]
  refine ⟨rfl, ?_⟩
  rw [setLamp_lamps]
  rfl

theorem resetMode_congr {i : Fin 32} (h : LampsTold p q) (hl : q.lamps[i] = p.lamps[i]) : resetMode q i = resetMode p i := by
  have hm : composedMode q i = composedMode p i := composedMode_congr (by rw [h]) (by rw [h]) (by rw [hl]) (by rw [hl])
  funext l
  rw [resetMode, resetMode, hm, drivenLamp_congr h]

/-- R145: what the reset makes of the lamps. -/
structure LampsCleared (p q : Part) : Prop where
  frame : q = { p with exch := q.exch, arb := q.arb, lamps := q.lamps, chime := Chime.reset, panel := { p.panel with stack := [] } }
  lamps : ∀ j : Fin 32, q.lamps[j] = { lampResetValues p.lamps[j] with
    mode := q.lamps[j].mode, lit := q.lamps[j].lit, pending := q.lamps[j].pending }
  modes : ModesComposed q
  mem : RecordWrites p.mem q.mem

theorem setLamps_told (f : Lamp → Lamp) (p : Part) : LampsTold p (forEach allLamps (fun i => setLamp i f) p) ∧
    ∀ j : Fin 32, (forEach allLamps (fun i => setLamp i f) p).lamps[j] = f p.lamps[j] :=
  forEach_allLamps (f := fun i => setLamp i f) (g := fun _ _ => f) (fun _ _ => ⟨rfl, rfl⟩) (fun _ _ _ _ _ => rfl) p

theorem mem_congr (he : q.exch = p.exch) (ha : q.arb = p.arb) : q.mem = p.mem := by rw [Part.mem, Part.mem, he, ha]

theorem setLamps_mem (f : Lamp → Lamp) (p : Part) : (forEach allLamps (fun i => setLamp i f) p).mem = p.mem := by
  obtain ⟨h1, h2⟩ := forEach_closed (P := fun q => q.exch = p.exch ∧ q.arb = p.arb) (f := fun i => setLamp i f) (fun _ _ h => h) allLamps ⟨rfl, rfl⟩
  exact mem_congr h1 h2

theorem setModes_mem (p : Part) : (forEach allLamps (fun i r => driveLamp i (setLamp i (fun l => { l with mode := composedMode r i }) r)) p).mem =
    p.mem := by
  obtain ⟨h1, h2⟩ := forEach_closed (P := fun q => q.exch = p.exch ∧ q.arb = p.arb)
    (f := fun i r => driveLamp i (setLamp i (fun l => { l with mode := composedMode r i }) r))
    (fun i q h => by rw [driveLamp_eq]; exact h) allLamps ⟨rfl, rfl⟩
  exact mem_congr h1 h2

theorem MemoryOnly.lampsTold (h : MemoryOnly p q) : LampsTold p q := by
  have hl : q.lamps = p.lamps := by rw [h]
  rw [LampsTold, hl]
  exact h

theorem chimeReset_eq (p : Part) : chimeReset (setPanel (fun r => { r with stack := [] }) p) =
    forEach allLamps (fun i => setLamp i fun l => { l with owed := false }) { p with chime := Chime.reset, panel := { p.panel with stack := [] } } := rfl

/-- The message stack and the chime emptied, the lamps cleared. -/
theorem chimeReset_cleared (p : Part) :
    let q := chimeReset (setPanel (fun r => { r with stack := [] }) (forEach allLamps (fun i => setLamp i lampResetValues) p))
    q = { p with exch := q.exch, arb := q.arb, lamps := q.lamps, chime := Chime.reset, panel := { p.panel with stack := [] } } ∧
      (∀ j : Fin 32, q.lamps[j] = lampResetValues p.lamps[j]) ∧ q.mem = p.mem := by
  intro q
  obtain ⟨t1, t2⟩ := setLamps_told lampResetValues p
  have m1 := setLamps_mem lampResetValues p
  generalize hu : forEach allLamps (fun i => setLamp i lampResetValues) p = u at t1 t2 m1
  have hq : q = forEach allLamps (fun i => setLamp i fun l => { l with owed := false })
      { u with chime := Chime.reset, panel := { u.panel with stack := [] } } := by
    rw [← chimeReset_eq, ← hu]
  obtain ⟨t3, t4⟩ := setLamps_told (fun l => { l with owed := false }) { u with chime := Chime.reset, panel := { u.panel with stack := [] } }
  have m2 := setLamps_mem (fun l => { l with owed := false }) { u with chime := Chime.reset, panel := { u.panel with stack := [] } }
  rw [← hq] at t3 t4 m2
  refine ⟨Eq.trans t3 (by rw [t1]), fun j => (t4 j).trans ?_, m2.trans m1⟩
  rw [show ({ u with chime := Chime.reset, panel := { u.panel with stack := [] } } : Part).lamps[j] = u.lamps[j] from rfl, t2 j]
  rfl

theorem resetLamps_cleared (hm : Memory.wf p.mem = true) : LampsCleared p (resetLamps p) := by
  obtain ⟨c1, c2, c3⟩ := chimeReset_cleared p
  have he : resetLamps p = forEach allLamps rewriteLamp (forEach allLamps (fun i r =>
      driveLamp i (setLamp i (fun l => { l with mode := composedMode r i }) r))
      (chimeReset (setPanel (fun r => { r with stack := [] }) (forEach allLamps (fun i => setLamp i lampResetValues) p)))) := rfl
  generalize chimeReset (setPanel (fun r => { r with stack := [] }) (forEach allLamps (fun i => setLamp i lampResetValues) p)) = u at c1 c2 c3 he
  obtain ⟨t1, t2⟩ := forEach_allLamps setMode_told (fun _ _ _ h hl => resetMode_congr h hl) u
  have m1 := setModes_mem u
  generalize forEach allLamps (fun i r => driveLamp i (setLamp i (fun l => { l with mode := composedMode r i }) r)) u = v at t1 t2 m1 he
  have hv : MemoryOnly v (resetLamps p) ∧ RecordWrites p.mem (resetLamps p).mem := by
    rw [he]
    refine forEach_closed (P := fun q => MemoryOnly v q ∧ RecordWrites p.mem q.mem) (f := rewriteLamp)
      (fun i q ⟨h1, h2⟩ => ⟨h1.trans rfl, h2.lamp i⟩) allLamps ⟨rfl, ?_⟩
    rw [m1, c3]
    exact .refl hm
  obtain ⟨hv, hmem⟩ := hv
  generalize resetLamps p = q at hv hmem
  have hl (j : Fin 32) : q.lamps[j] = resetMode u j (lampResetValues p.lamps[j]) := by
    rw [hv, ← c2 j]
    exact t2 j
  refine ⟨?_, fun j => ?_, fun j => ?_, hmem⟩
  · refine Eq.trans (t1.trans hv.lampsTold) ?_
    rw [c1]
  · rw [hl j, resetMode, drivenLamp_eq]
  · have hmode : q.lamps[j].mode = composedMode u j := by
      rw [hl j, resetMode, drivenLamp_eq]
    rw [hmode]
    refine (composedMode_congr ?_ ?_ ?_ ?_).symm
    · rw [hv, t1]
    · rw [hv, t1]
    · rw [hl j, c2 j, resetMode, drivenLamp_eq]
    · rw [hl j, c2 j, resetMode, drivenLamp_eq]

/-- A pointer at the end of a restart (R119). -/
def Ptr.ended (x : Ptr) : Ptr :=
  { x with
    state := .released, homeNeeded := true, pos := 0, target := 0, speed := 0, phase := 0, stepsLeft := 0, sweep := .waiting
    pending := undriven }

/-- R119: every pointer is RELEASED with its mark set. -/
theorem restartEndPtrs_told (hm : Memory.wf p.mem = true) : PtrsTold p (forEach allPtrs restartEndPtr p) ∧
    (∀ i : Fin 6, (forEach allPtrs restartEndPtr p).ptrs[i] = p.ptrs[i].ended) ∧ RecordWrites p.mem (forEach allPtrs restartEndPtr p).mem := by
  have he (i : Fin 6) (q : Part) : restartEndPtr i q = rewritePtr i (setPtr i Ptr.ended q) := by
    have h0 : restartEndPtr i q = rewritePtr i (releaseCoils i (setPtr i (fun x =>
      { x with state := .released, homeNeeded := true, pos := 0, target := 0, speed := 0, phase := 0, stepsLeft := 0, sweep := .waiting }) q)) := rfl
    rw [h0, releaseCoils, setPtr_setPtr]
    rfl
  obtain ⟨h1, h2⟩ := forEach_ptrs (f := restartEndPtr) (g := fun _ => Ptr.ended) allPtrs (p := p) fun i q _ => by
    rw [he]
    exact ⟨rfl, rfl⟩
  refine ⟨h1, fun i => ?_, ?_⟩
  · rw [h2, foldl_updAt _ allPtrs _ i (List.nodup_finRange 6), if_pos (show i ∈ allPtrs from List.mem_finRange i)]
  · refine forEach_closed (P := fun q => RecordWrites p.mem q.mem) (fun i q hq => ?_) allPtrs (.refl hm)
    rw [he]
    exact RecordWrites.ptr (p := setPtr i Ptr.ended q) i hq

end Sys2Proof.Machine
end

section
namespace Sys2Proof.Machine

variable {b p q r : Part}

/-! ### The channels are reset, and tell that they are UNSET (R97, R99, R100) -/

theorem forEach_congr {α : Type} {P : Part → Prop} {f g : α → Part → Part} (h : ∀ i p, P p → f i p = g i p ∧ P (g i p)) (is : List α) :
    ∀ {p : Part}, P p → forEach is f p = forEach is g p := by
  induction is with
  | nil => exact fun _ => rfl
  | cons i is ih =>
    intro p hp
    obtain ⟨h1, h2⟩ := h i p hp
    exact Eq.trans (congrArg (forEach is f) h1) (ih h2)

/-- What holds of those gone through holds of all in the end. -/
theorem forEach_through {α : Type} {P : List α → Part → Prop} {f : α → Part → Part}
    (h : ∀ xs i p, P xs p → P (xs ++ [i]) (f i p)) (is : List α) :
    ∀ {xs : List α} {p : Part}, P xs p → P (xs ++ is) (forEach is f p) := by
  induction is with
  | nil => exact fun {xs p} hp => by rw [List.append_nil]; exact hp
  | cons i is ih =>
    intro xs p hp
    have := ih (h xs i p hp)
    rwa [List.append_assoc] at this

/-- A lamp told that the channel is UNSET, and evaluated (R122, R123). -/
def Lamp.toldUnset (w : Mem) (c i : Fin 32) (l : Lamp) : Lamp :=
  if hearsChan w c i then
    let m := l.store (told (ownsChan w c i) Result.unset) (told (gatesChan w c i) Result.unset)
    { m with hyst := hysteresis (lampRec w i) m.chanLast m.hyst }
  else l

theorem toldUnset_eq (w : Mem) (c i : Fin 32) (l : Lamp) : l.toldUnset w c i = { l with
    hyst := (l.toldUnset w c i).hyst, chanLast := (l.toldUnset w c i).chanLast, gateLast := (l.toldUnset w c i).gateLast } := by
  unfold Lamp.toldUnset
  split <;> rfl

/-- R124, R127: a lamp whose channel is UNSET, or whose gate's is, is not found true. -/
theorem foundCond_unset {i : Fin 32} (h : ((lampRec p.working i).kind.usesChannel = true ∧ p.lamps[i].chanLast = Result.unset) ∨
    ((lampRec p.working i).gate ≠ none ∧ p.lamps[i].gateLast = Result.unset)) : foundCond p i = false := by
  rcases h with ⟨hk, hu⟩ | ⟨hg, hu⟩
  · rw [foundCond, foundHyst, hu, hysteresis_unset, kindTruth_unset hk hu]
    rfl
  · rw [foundCond, gateOpen_unset hg hu, Bool.and_false]

/-- A lamp hears of its own channel, or of its gate's. -/
theorem hearsChan_iff {w : Mem} {c i : Fin 32} : hearsChan w c i = true ↔
    lampUsed w i = true ∧ ((lampRec w i).kind.usesChannel = true ∧ ownsChan w c i = true ∨ (lampRec w i).gate ≠ none ∧ gatesChan w c i = true) := by
  have hu : lampUsed w i = ((lampRec w i).kind != .none) := rfl
  have ho : ownsChan w c i = true → (lampRec w i).kind.usesChannel = true := fun h => by
    rw [ownsChan, Bool.and_eq_true] at h
    exact h.1
  have hg : gatesChan w c i = true → (lampRec w i).gate ≠ none := fun h e => by
    rw [gatesChan, e] at h
    cases h
  rw [hearsChan, ← hu, Bool.and_eq_true, Bool.or_eq_true]
  exact and_congr_right fun _ => ⟨Or.imp (fun h => ⟨ho h, h⟩) fun h => ⟨hg h, h⟩, Or.imp And.right And.right⟩

/-- R124, R127: no lamp that hears of an UNSET channel, its own or its gate's, is found true. -/
theorem notifyLamp_unset (c i : Fin 32) (hc : p.lamps[i].cond = false) (hf : p.lampU.frozen = false) :
    notifyLamp c Result.unset i p = setLamp i (Lamp.toldUnset p.working c i) p := by
  rw [notifyLamp_eq]
  by_cases hh : hearsChan p.working c i = true
  · rw [if_pos hh]
    have hset : setLamp i (Lamp.toldUnset p.working c i) p = setLamp i (fun l => { l with
        hyst := foundHyst (setLamp i (Lamp.store (told (ownsChan p.working c i) Result.unset) (told (gatesChan p.working c i) Result.unset)) p) i })
        (setLamp i (Lamp.store (told (ownsChan p.working c i) Result.unset) (told (gatesChan p.working c i) Result.unset)) p) := by
      rw [setLamp_setLamp]
      refine setLamp_congr ?_
      rw [Lamp.toldUnset, if_pos hh, foundHyst, setLamp_self]
      rfl
    rw [hset]
    generalize hq : setLamp i (Lamp.store (told (ownsChan p.working c i) Result.unset) (told (gatesChan p.working c i) Result.unset)) p = q
    have hqi : q.lamps[i] = p.lamps[i].store (told (ownsChan p.working c i) Result.unset) (told (gatesChan p.working c i) Result.unset) := by
      rw [← hq, setLamp_self]
    have hw : q.working = p.working := by rw [← hq]; rfl
    have hqf : q.lampU.frozen = false := by rw [← hq]; exact hf
    have hqc : q.lamps[i].cond = false := by rw [hqi]; exact hc
    obtain ⟨hu, ho⟩ := hearsChan_iff.1 hh
    have hfound : foundCond q i = false := foundCond_unset (by
      rw [hw, hqi]
      exact ho.imp (fun ⟨hk, ho⟩ => ⟨hk, by rw [ho]; rfl⟩) fun ⟨hg, hn⟩ => ⟨hg, by rw [hn]; rfl⟩)
    rcases evalLamp_cases i q with ⟨-, hn | hn⟩ | ⟨-, -, -, he⟩ | ⟨-, -, hn, -⟩
    · rw [hw, hu] at hn
      cases hn
    · rw [conditionFrozen, hqf] at hn
      cases hn
    · exact he
    · exact absurd (hfound.trans hqc.symm) hn
  · rw [if_neg hh]
    have hid : setLamp i (Lamp.toldUnset p.working c i) p = setLamp i (fun l => l) p := setLamp_congr (if_neg hh)
    rw [hid]
    exact (congrArg (fun ls => { p with lamps := ls }) (Vector.set_getElem_self _)).symm

/-- R97: the lamps are told that a channel is UNSET. -/
theorem notifyLamps_unset (c : Fin 32) (hc : ∀ j : Fin 32, p.lamps[j].cond = false) (hf : p.lampU.frozen = false) :
    let q := forEach allLamps (notifyLamp c Result.unset) p
    LampsTold p q ∧ (∀ j : Fin 32, q.lamps[j] = p.lamps[j].toldUnset p.working c j) ∧ q.mem = p.mem := by
  have he : forEach allLamps (notifyLamp c Result.unset) p = forEach allLamps (fun i => setLamp i (Lamp.toldUnset p.working c i)) p := by
    refine forEach_congr (P := fun q => q.working = p.working ∧ q.lampU.frozen = false ∧ ∀ j : Fin 32, q.lamps[j].cond = false)
      (fun i q ⟨h1, h2, h3⟩ => ⟨?_, h1, h2, fun j => ?_⟩) allLamps ⟨rfl, hf, hc⟩
    · rw [notifyLamp_unset c i (h3 i) h2, h1]
    · by_cases e : j = i
      · subst e
        rw [setLamp_self, toldUnset_eq]
        exact h3 j
      · rw [setLamp_other _ _ e]
        exact h3 j
  rw [he]
  obtain ⟨h1, h2⟩ := forEach_allLamps (f := fun i => setLamp i (Lamp.toldUnset p.working c i)) (g := fun _ i => Lamp.toldUnset p.working c i)
    (fun _ _ => ⟨rfl, rfl⟩) (fun _ _ _ _ _ => rfl) p
  refine ⟨h1, h2, ?_⟩
  obtain ⟨h3, h4⟩ := forEach_closed (P := fun q => q.exch = p.exch ∧ q.arb = p.arb) (f := fun i => setLamp i (Lamp.toldUnset p.working c i))
    (fun _ _ h => h) allLamps ⟨rfl, rfl⟩
  exact mem_congr h3 h4

/-- R97, R104: pointers that are RELEASED keep what they are told. -/
theorem notifyPtrs_released (c : Fin 32) (x : Result) (hp : ∀ i : Fin 6, p.ptrs[i].state = .released) (hm : Memory.wf p.mem = true) :
    let q := forEach allPtrs (notifyPtr c x) p
    PtrsTold p q ∧ (∀ i : Fin 6, q.ptrs[i] = { p.ptrs[i] with last := q.ptrs[i].last }) ∧ RecordWrites p.mem q.mem := by
  intro q
  obtain ⟨h1, h2⟩ := notifyPtrs_told c x p
  refine ⟨h1, fun i => ?_, forEach_closed (P := fun r => RecordWrites p.mem r.mem) (fun i r hr => ?_) allPtrs (.refl hm)⟩
  · rw [show q.ptrs[i] = _ from h2 i]
    split
    · have hn : ¬ p.ptrs[i].state = .follow := by
        rw [hp i]
        nofun
      rw [Ptr.told, if_neg hn]
    · rfl
  · rw [notifyPtr_eq]
    split
    · exact onlyIf_closed (P := fun r => RecordWrites p.mem r.mem) (fun _ h => h.ptr i) _ (p := setPtr i _ r) hr
    · exact hr

/-- R97, R135: the dimming level is told; the outputs alone follow. -/
theorem notifyDimming_driven (c : Fin 32) (x : Result) (p : Part) :
    let q := notifyDimming c x p
    q = { p with exch := q.exch, arb := q.arb, lamps := q.lamps, lampU := { p.lampU with dim := q.lampU.dim } } ∧
      (∀ j : Fin 32, q.lamps[j] = { p.lamps[j] with lit := q.lamps[j].lit, pending := q.lamps[j].pending }) ∧ q.mem = p.mem := by
  unfold notifyDimming
  split
  · generalize hu : ({ p with lampU := { p.lampU with dim := x } } : Part) = u
    obtain ⟨h1, h2⟩ := forEach_allLamps (f := driveLamp) (g := drivenLamp)
      (fun i r => by rw [driveLamp_eq]; exact ⟨rfl, rfl⟩) (fun i _ _ h _ => funext fun l => drivenLamp_congr h l) u
    obtain ⟨h3, h4⟩ := forEach_closed (P := fun r => r.exch = u.exch ∧ r.arb = u.arb) (f := driveLamp)
      (fun i r h => by rw [driveLamp_eq]; exact h) allLamps ⟨rfl, rfl⟩
    have hm := mem_congr h3 h4
    generalize forEach allLamps driveLamp u = q at h1 h2 hm
    refine ⟨?_, fun j => ?_, hm.trans (by rw [← hu]; rfl)⟩
    · rw [show q.lampU.dim = x by rw [h1, ← hu]]
      exact Eq.trans h1 (by rw [← hu])
    · rw [h2 j, ← hu, drivenLamp_eq]
  · exact ⟨rfl, fun _ => rfl, rfl⟩

/-- R149, R151: a motion channel that is UNSET leaves a detector that is STOPPED and idle as it was. -/
theorem notifyMotion_unset (c : Fin 32) (h1 : p.acct.moving = false) (h2 : p.acct.confirm = none) : notifyMotion c Result.unset true p = p := by
  unfold notifyMotion
  split
  · have hs : speedLostAfter p.acct.moving Result.unset (motionClass p.working Result.unset) = none := by rw [h1]; rfl
    have ha : { p.acct with confirm := confirmAfter p.working p.acct.moving (motionClass p.working Result.unset) p.acct.confirm } = p.acct :=
      congrArg (fun t => { p.acct with confirm := t }) h2.symm
    dsimp only
    rw [hs]
    exact congrArg (fun a => { p with acct := a }) ha
  · rfl

/-- Between `p` and `q` nothing has changed but the channels, the pointers, the lamps, the dimming level and the memory. -/
def UnsetTold (p q : Part) : Prop := q = { p with
  exch := q.exch, arb := q.arb, chans := q.chans, ptrs := q.ptrs, lamps := q.lamps, lampU := { p.lampU with dim := q.lampU.dim } }

theorem UnsetTold.trans (h : UnsetTold p q) (h' : UnsetTold q r) : UnsetTold p r := by
  refine Eq.trans h' ?_
  rw [h]

/-- From `b` the channels `cs` have been reset, and have told it. -/
structure ChansReset (b : Part) (cs : List (Fin 32)) (p : Part) : Prop where
  frame : UnsetTold b p
  chans : ∀ c ∈ cs, p.chans[c] = Chan.reset
  ptrs : ∀ i : Fin 6, p.ptrs[i] = { b.ptrs[i] with last := p.ptrs[i].last }
  lamps : ∀ j : Fin 32, p.lamps[j] = { b.lamps[j] with
    hyst := p.lamps[j].hyst, chanLast := p.lamps[j].chanLast, gateLast := p.lamps[j].gateLast, lit := p.lamps[j].lit, pending := p.lamps[j].pending }
  hyst : ∀ j : Fin 32, p.lamps[j].hyst = true → (lampRec b.working j).kind.usesChannel = true ∧ p.lamps[j].chanLast ≠ Result.unset
  own : ∀ c ∈ cs, ∀ j : Fin 32, hearsChan b.working c j = true → ownsChan b.working c j = true → p.lamps[j].chanLast = Result.unset
  gate : ∀ c ∈ cs, ∀ j : Fin 32, hearsChan b.working c j = true → gatesChan b.working c j = true → p.lamps[j].gateLast = Result.unset
  mem : RecordWrites b.mem p.mem

/-- A part in a restart whose lamps, pointers and motion detector have taken their restart values. -/
structure Restarting (b : Part) : Prop where
  frozen : b.lampU.frozen = false
  moving : b.acct.moving = false
  confirm : b.acct.confirm = none
  ptrs : ∀ i : Fin 6, b.ptrs[i].state = .released
  cond : ∀ j : Fin 32, b.lamps[j].cond = false

/-- R124: a lamp's hysteresis truth, where it stands, is a trusted result's. -/
theorem toldUnset_hyst {w : Mem} {c j : Fin 32} {l : Lamp}
    (h : l.hyst = true → (lampRec w j).kind.usesChannel = true ∧ l.chanLast ≠ Result.unset) (ht : (l.toldUnset w c j).hyst = true) :
    (lampRec w j).kind.usesChannel = true ∧ (l.toldUnset w c j).chanLast ≠ Result.unset := by
  unfold Lamp.toldUnset at ht ⊢
  split at ht
  next hh =>
    rw [if_pos hh]
    dsimp only at ht
    refine ⟨?_, fun e => ?_⟩
    · by_contra hn
      rw [hysteresis_of_other _ _ (by simpa using hn)] at ht
      cases ht
    · dsimp only at e
      rw [e, hysteresis_unset] at ht
      cases ht
  next hh =>
    rw [if_neg hh]
    exact h ht

theorem toldUnset_chanLast {w : Mem} {c j : Fin 32} {l : Lamp}
    (h : hearsChan w c j = true ∧ ownsChan w c j = true ∨ l.chanLast = Result.unset) : (l.toldUnset w c j).chanLast = Result.unset := by
  unfold Lamp.toldUnset
  rcases h with ⟨hh, ho⟩ | hl
  · rw [if_pos hh, ho]
    rfl
  · split
    · rw [show (l.store (told (ownsChan w c j) Result.unset) (told (gatesChan w c j) Result.unset)).chanLast =
        told (ownsChan w c j) Result.unset l.chanLast from rfl, hl]
      exact ite_self _
    · exact hl

theorem toldUnset_gateLast {w : Mem} {c j : Fin 32} {l : Lamp}
    (h : hearsChan w c j = true ∧ gatesChan w c j = true ∨ l.gateLast = Result.unset) : (l.toldUnset w c j).gateLast = Result.unset := by
  unfold Lamp.toldUnset
  rcases h with ⟨hh, hg⟩ | hl
  · rw [if_pos hh, hg]
    rfl
  · split
    · rw [show (l.store (told (ownsChan w c j) Result.unset) (told (gatesChan w c j) Result.unset)).gateLast =
        told (gatesChan w c j) Result.unset l.gateLast from rfl, hl]
      exact ite_self _
    · exact hl

theorem ChansReset.step {cs : List (Fin 32)} (hb : Restarting b) (c : Fin 32) (h : ChansReset b cs p) : ChansReset b (cs ++ [c]) (resetChan c p) := by
  have h1 : RecordWrites b.mem (rewriteChan c (setChan c (fun _ => Chan.reset) p)).mem := RecordWrites.chan (p := setChan c (fun _ => Chan.reset) p) c h.mem
  have hx : (rewriteChan c (setChan c (fun _ => Chan.reset) p)).chans[c] = Chan.reset := updAt_self ..
  have he : resetChan c p = notifyChan c true (rewriteChan c (setChan c (fun _ => Chan.reset) p)) := rfl
  have hf : MemoryOnly (setChan c (fun _ => Chan.reset) p) (rewriteChan c (setChan c (fun _ => Chan.reset) p)) := rfl
  generalize rewriteChan c (setChan c (fun _ => Chan.reset) p) = u at h1 hx he hf
  have he : resetChan c p = notifyMotion c Result.unset true (notifyDimming c Result.unset
      (forEach allLamps (notifyLamp c Result.unset) (forEach allPtrs (notifyPtr c Result.unset) u))) := by
    rw [he, show notifyChan c true u = notifyMotion c (chanResult u.chans[c]) true (notifyDimming c (chanResult u.chans[c])
      (forEach allLamps (notifyLamp c (chanResult u.chans[c])) (forEach allPtrs (notifyPtr c (chanResult u.chans[c])) u))) from rfl, hx]
    rfl
  obtain ⟨f, hchans, hptrs, hlamps, hhyst, hown, hgate, hmem⟩ := h
  obtain ⟨n1, n2, n3⟩ := notifyPtrs_released c Result.unset (p := u) (fun i => by rw [hf, setChan, hptrs i]; exact hb.ptrs i) h1.1
  generalize forEach allPtrs (notifyPtr c Result.unset) u = v at n1 n2 n3 he
  have hvl : v.lamps = p.lamps := by rw [n1, hf]; rfl
  have hvw : v.working = b.working := by rw [n1, hf, f]; rfl
  obtain ⟨l1, l2, l3⟩ := notifyLamps_unset c (p := v) (fun j => by rw [hvl, hlamps j]; exact hb.cond j) (by rw [n1, hf, f]; exact hb.frozen)
  generalize forEach allLamps (notifyLamp c Result.unset) v = w at l1 l2 l3 he
  obtain ⟨d1, d2, d3⟩ := notifyDimming_driven c Result.unset w
  generalize notifyDimming c Result.unset w = x at d1 d2 d3 he
  have ha : x.acct = b.acct := by rw [d1, l1, n1, hf, f]; rfl
  rw [notifyMotion_unset c (ha ▸ hb.moving) (ha ▸ hb.confirm)] at he
  rw [he]
  have hl (j : Fin 32) : x.lamps[j] = { p.lamps[j].toldUnset b.working c j with lit := x.lamps[j].lit, pending := x.lamps[j].pending } := by
    rw [d2 j, l2 j, hvw, hvl]
  have hchan : x.chans = updAt c (fun _ => Chan.reset) p.chans := by rw [d1, l1, n1, hf]; rfl
  have hptr : x.ptrs = v.ptrs := by rw [d1, l1]
  refine ⟨?_, fun c' hc => ?_, fun i => ?_, fun j => ?_, fun j ht => ?_, fun c' hc j hh ho => ?_, fun c' hc j hh hg => ?_, ?_⟩
  · have f1 : UnsetTold p u := by rw [hf]; rfl
    have f2 : UnsetTold u v := by rw [n1]; rfl
    have f3 : UnsetTold v w := by rw [l1]; rfl
    have f4 : UnsetTold w x := by rw [d1]; rfl
    exact f.trans (f1.trans (f2.trans (f3.trans f4)))
  · rw [hchan]
    by_cases e : c = c'
    · subst e
      exact updAt_self ..
    · rw [updAt_other c c' _ _ e]
      exact hchans c' ((List.mem_append.1 hc).resolve_right fun h => e (List.mem_singleton.1 h).symm)
  · rw [hptr, n2 i, hf]
    exact congrArg (fun y : Ptr => { y with last := v.ptrs[i].last }) (hptrs i)
  · rw [hl j, toldUnset_eq, hlamps j]
  · rw [hl j] at ht ⊢
    exact toldUnset_hyst (hhyst j) ht
  · rw [hl j]
    exact toldUnset_chanLast ((List.mem_append.1 hc).elim (fun h => .inr (hown c' h j hh ho)) fun h => by
      rw [← List.mem_singleton.1 h]
      exact .inl ⟨hh, ho⟩)
  · rw [hl j]
    exact toldUnset_gateLast ((List.mem_append.1 hc).elim (fun h => .inr (hgate c' h j hh hg)) fun h => by
      rw [← List.mem_singleton.1 h]
      exact .inl ⟨hh, hg⟩)
  · rw [d3, l3]
    exact h1.trans n3

theorem resetChans_reset (hb : Restarting b) (hh : ∀ j : Fin 32, b.lamps[j].hyst = false) (hm : Memory.wf b.mem = true) :
    ChansReset b allChans (resetChans b) := by
  have h0 : ChansReset b [] b := ⟨rfl, nofun, fun _ => rfl, fun _ => rfl, fun j h => (by rw [hh j] at h; cases h), nofun, nofun, .refl hm⟩
  exact forEach_through (P := ChansReset b) (fun _ c _ h => h.step hb c) allChans h0

end Sys2Proof.Machine
end

section
namespace Sys2Proof.Machine

variable {b p q r : Part}

/-! ### The blocks at their restart values, before the accounting's (R56) -/

/-- R75, R134, Table 4-8: the inputs at their restart values, the flash generators lit, and no condition frozen. -/
def inputsReset (p : Part) : Part :=
  { p with
    conv := { pos := 0, busy := none, codes := Vector.replicate 8 0, sref := false }, pulse := Vector.replicate 4 PulseIn.reset
    sw := Vector.replicate 8 Switch.reset, lampU := { p.lampU with slowLit := true, fastLit := true, frozen := false } }

theorem inputsReset_eq (p : Part) : generatorsAfresh (setFrozen false (switchesReset (measuresReset p))) = inputsReset p := by
  simp only [generatorsAfresh, setFrozen, switchesReset, measuresReset, setSwitches, setConv, setPulses, inputsReset]

/-- R56: what the other blocks take up before the Accounting Unit does. -/
def unitsReset (p : Part) : Part := toStartPage (forEach allPtrs restartEndPtr (resetLamps (inputsReset p)))

/-- The units reset, of `p`. -/
structure UnitsReset (p q : Part) : Prop where
  frame : q = { inputsReset p with
    exch := q.exch, arb := q.arb, lamps := q.lamps, ptrs := q.ptrs, chime := Chime.reset
    panel := { p.panel with stack := [], basePage := startPage p.working } }
  ptrs : ∀ i : Fin 6, q.ptrs[i] = p.ptrs[i].ended
  lamps : ∀ j : Fin 32, q.lamps[j] = { lampResetValues p.lamps[j] with
    mode := q.lamps[j].mode, lit := q.lamps[j].lit, pending := q.lamps[j].pending }
  modes : ModesComposed q
  mem : RecordWrites p.mem q.mem

theorem ModesComposed.same (h : ModesComposed p) (hw : q.working = p.working) (hc : q.ctl = p.ctl) (hl : q.lamps = p.lamps) :
    ModesComposed q := fun j => by
  have hm : composedMode q j = composedMode p j := composedMode_congr hw hc (by rw [hl]) (by rw [hl])
  rw [hm, hl]
  exact h j

theorem toStartPage_frame (p : Part) : toStartPage p = { p with panel := { p.panel with basePage := startPage p.working } } := rfl

theorem inputsReset_mem (p : Part) : (inputsReset p).mem = p.mem := mem_congr rfl rfl

theorem toStartPage_memory (p : Part) : (toStartPage p).mem = p.mem := mem_congr rfl rfl

theorem unitsReset_reset (hm : Memory.wf p.mem = true) : UnitsReset p (unitsReset p) := by
  rw [unitsReset]
  have hl0 (j : Fin 32) : (inputsReset p).lamps[j] = p.lamps[j] := rfl
  have hp0 (i : Fin 6) : (inputsReset p).ptrs[i] = p.ptrs[i] := rfl
  have hpan : (inputsReset p).panel = p.panel ∧ (inputsReset p).working = p.working := ⟨rfl, rfl⟩
  have hm0 := inputsReset_mem p
  generalize hu : inputsReset p = u at hl0 hp0 hpan hm0
  obtain ⟨c1, c2, c3, c4⟩ := resetLamps_cleared (p := u) (hm0 ▸ hm)
  generalize resetLamps u = v at c1 c2 c3 c4
  obtain ⟨t1, t2, t3⟩ := restartEndPtrs_told c4.1
  generalize forEach allPtrs restartEndPtr v = w at t1 t2 t3
  have hl : w.lamps = v.lamps := by rw [t1]
  refine ⟨?_, fun i => ?_, fun j => ?_, ?_, ?_⟩
  · rw [toStartPage_frame, hu, ← hpan.1, ← hpan.2]
    have hf : w = { u with exch := w.exch, arb := w.arb, lamps := w.lamps, ptrs := w.ptrs, chime := Chime.reset, panel := { u.panel with stack := [] } } := by
      refine Eq.trans t1 ?_
      rw [hl, c1]
    exact Eq.trans (congrArg (fun w : Part => { w with panel := { w.panel with basePage := startPage w.working } }) hf) rfl
  · rw [toStartPage_frame, ← hp0 i]
    exact (t2 i).trans (by rw [c1])
  · rw [toStartPage_frame, ← hl0 j]
    exact (congrArg (fun ls : Vector Lamp 32 => ls[j]) hl).trans ((c2 j).trans (by rw [hl]))
  · exact c3.same (by rw [toStartPage_frame, t1]) (by rw [toStartPage_frame, t1]) (by rw [toStartPage_frame, t1])
  · rw [toStartPage_memory, ← hm0]
    exact c4.trans t3

end Sys2Proof.Machine
end

section
namespace Sys2Proof.Machine

variable {b p q r : Part}

/-! ### The accounting, the channels and the conditions at a restart's end (R56, R99, R122, R145, R161) -/

/-- The accounting has been brought to its restart values, and the RESTART entry written. -/
structure AccountingReset (e : Submission) (p q : Part) : Prop where
  submitted : Submitted (stoppingEntries p.acct q.acct ++ [e]) p q
  moving : q.acct.moving = false
  confirm : q.acct.confirm = none
  lost : q.acct.warnings.getLsbD 5 = false
  kept : SeatsKept p.acct q.acct

theorem accountingReset (e : Submission) (hr : p.ctl.restart.isSome) (hm : Memory.wf p.mem = true) :
    AccountingReset e p (submit e (evalWarnings (stopMotion p))) := by
  obtain ⟨h1, h2, h3, h4, h5⟩ := stopMotion_submitted hr hm
  have ha := submit_acct e (evalWarnings (stopMotion p))
  have hs := h1.trans (.entry h1.mem.1 e)
  rw [← ha] at h2 h3 h4 h5 hs
  exact ⟨hs, h2, h3, h4, h5⟩

/-- Some used prove lamp is OPEN or SHORT (R126). -/
def anyFault (p : Part) : Prop := ∃ j : Fin 32, lampUsed p.working j = true ∧ (lampRec p.working j).prove = true ∧
  (p.lamps[j].diag = .open ∨ p.lamps[j].diag = .short)

theorem anyLampFault_iff : anyLampFault p = true ↔ anyFault p := by
  simp only [anyLampFault, anyFault, List.any_eq_true, Bool.and_eq_true, Bool.or_eq_true, beq_iff_eq]
  exact ⟨fun ⟨j, _, ⟨h1, h2⟩, h3⟩ => ⟨j, h1, h2, h3⟩, fun ⟨j, h1, h2, h3⟩ => ⟨j, List.mem_finRange j, ⟨h1, h2⟩, h3⟩⟩

/-- The lamps' channels, and their gates', exist. -/
def lampChansExist (w : Mem) : Prop :=
  ∀ i : Fin 32, ((lampRec w i).kind.usesChannel = true → (lampRec w i).chan ≤ 31) ∧ ∀ g, (lampRec w i).gate = some g → g ≤ 31

/-- R145: every lamp OFF, its condition false, its message and its demand withdrawn, the chime at rest and the stack empty. -/
structure LampsOff (p : Part) : Prop where
  lamps : ∀ j : Fin 32, p.lamps[j].state = .off ∧ p.lamps[j].cond = false ∧ p.lamps[j].hyst = false ∧ p.lamps[j].requested = false ∧
    p.lamps[j].onDelay = none ∧ p.lamps[j].msg = .none ∧ p.lamps[j].owed = false
  chime : p.chime = Chime.reset
  stack : p.panel.stack = []

theorem ChansReset.own_unset (h : ChansReset b allChans p) (he : lampChansExist b.working) {j : Fin 32}
    (hj : (lampRec b.working j).kind.usesChannel = true) : p.lamps[j].chanLast = Result.unset := by
  have hc := (he j).1 hj
  have hu : lampUsed b.working j = true := by
    have hk : lampUsed b.working j = ((lampRec b.working j).kind != .none) := rfl
    rw [hk, bne_iff_ne]
    intro e
    rw [e] at hj
    cases hj
  have ho : ownsChan b.working ⟨(lampRec b.working j).chan, by omega⟩ j = true := by simp [ownsChan, hj]
  exact h.own _ (List.mem_finRange _) j (hearsChan_iff.2 ⟨hu, .inl ⟨hj, ho⟩⟩) ho

theorem ChansReset.gate_unset (h : ChansReset b allChans p) (he : lampChansExist b.working) {j : Fin 32} (hu : lampUsed b.working j = true)
    (hj : (lampRec b.working j).gate ≠ none) : p.lamps[j].gateLast = Result.unset := by
  obtain ⟨g, hg⟩ := Option.ne_none_iff_exists'.1 hj
  have hc := (he j).2 g hg
  have ho : gatesChan b.working ⟨g, by omega⟩ j = true := by simp [gatesChan, hg]
  exact h.gate _ (List.mem_finRange _) j (hearsChan_iff.2 ⟨hu, .inr ⟨hj, ho⟩⟩) ho

/-- The lamps that have heard of UNSET channels, once the warnings have been reported. -/
theorem ChansReset.lampsReset {u : LampUnit} (h : ChansReset b allChans p) (ho : LampsOff b) (he : lampChansExist b.working) :
    LampsReset u.warn (anyFault b) { p with lampU := u } := by
  have hw : p.working = b.working := by rw [h.frame]
  have hl (j : Fin 32) := h.lamps j
  obtain ⟨o1, o2, o3⟩ := ho
  have hyst (j : Fin 32) : p.lamps[j].hyst = false := by
    by_contra hn
    obtain ⟨h1, h2⟩ := h.hyst j (by simpa using hn)
    exact h2 (h.own_unset he h1)
  have hdiag (j : Fin 32) : p.lamps[j].diag = b.lamps[j].diag := by rw [hl j]
  refine ⟨(congrArg Part.chime h.frame).trans o2, ⟨fun j _ => ?_, ?_⟩, fun j _ => ?_, fun j _ => ?_, fun j => ?_, hyst, fun j hj => ?_,
    fun j hu hj => ?_, rfl, fun hf => ?_, ?_⟩
  · obtain ⟨-, -, -, -, -, e, -⟩ := o1 j
    exact (congrArg Lamp.msg (hl j)).trans e
  · rw [show ({ p with lampU := u } : Part).panel.stack = [] from (congrArg (fun q : Part => q.panel.stack) h.frame).trans o3]
    nofun
  · obtain ⟨e1, e2, -, -, e3, -, e4⟩ := o1 j
    exact ⟨(congrArg Lamp.state (hl j)).trans e1, (congrArg Lamp.cond (hl j)).trans e2, (congrArg Lamp.onDelay (hl j)).trans e3,
      (congrArg Lamp.owed (hl j)).trans e4⟩
  · obtain ⟨e1, e2, -⟩ := o1 j
    have e1 : p.lamps[j].state = .off := (congrArg Lamp.state (hl j)).trans e1
    have e2 : p.lamps[j].cond = false := (congrArg Lamp.cond (hl j)).trans e2
    rw [show ({ p with lampU := u } : Part).lamps[j] = p.lamps[j] from rfl, e1, e2]
    rfl
  · obtain ⟨-, -, -, e, -⟩ := o1 j
    exact (congrArg Lamp.requested (hl j)).trans e
  · exact h.own_unset he (hw ▸ hj)
  · exact h.gate_unset he (hw ▸ hu) (hw ▸ hj)
  · rw [← anyLampFault_iff]
    exact (anyLampFault_congr (p := p) (q := { p with lampU := u }) rfl (fun _ => rfl)).symm.trans hf ▸ (anyLampFault_congr hw hdiag).symm
  · have hm : ({ p with lampU := u } : Part).mem = p.mem := mem_congr rfl rfl
    rw [hm]
    exact h.mem.1

end Sys2Proof.Machine
end

section
namespace Sys2Proof.Machine

variable {b p q r : Part}

/-! ### The records of the accounting (R165) -/

theorem RecordWrites.accounting {m : Mem} (a : Acct) (seats summary : Bool) (h : RecordWrites m p.mem) :
    RecordWrites m (rewriteAccounting a seats summary p).mem := by
  have seat (id : SeatId) (q : Part) (hq : RecordWrites m q.mem) : RecordWrites m (rewriteSeat id q).mem :=
    storeRun_keeps (P := fun q => RecordWrites m q.mem) (fun q c cs _ _ h3 h4 hq => hq.store (by
      simp only [editioned_length, seatBody_length] at h4
      have hs : 0x6A0 ≤ seatAddr id ∧ seatAddr id ≤ 0x740 := by cases id <;> decide
      simp only [recordRange]
      omega)) hq
  have summ (q : Part) (hq : RecordWrites m q.mem) : RecordWrites m (rewriteSummary q).mem :=
    hq.store (by simp only [editioned_length, summaryBody_length, recordRange, summaryAddr]; omega)
  have h1 := onlyIf_closed (P := fun q => RecordWrites m q.mem) (seat .one) (seats || seatBody p.acct .one != seatBody a .one) h
  generalize hp₁ : onlyIf (seats || seatBody p.acct .one != seatBody a .one) (rewriteSeat .one) p = p₁ at h1
  have h2 := onlyIf_closed (P := fun q => RecordWrites m q.mem) (seat .two) (seats || seatBody p₁.acct .two != seatBody a .two) h1
  unfold rewriteAccounting
  rw [hp₁]
  exact onlyIf_closed (P := fun q => RecordWrites m q.mem) (fun q hq => hq.notice .drivetime) _
    (onlyIf_closed (P := fun q => RecordWrites m q.mem) summ _ h2)

theorem rewriteAccounting_only (a : Acct) (seats summary : Bool) (p : Part) : MemoryOnly p (rewriteAccounting a seats summary p) :=
  rewriteAccounting_closed (memoryOnly_closed p) a seats summary (.refl p)

theorem MemoryOnly.lampsOnly (h : MemoryOnly p q) : LampsOnly p q := by
  refine Eq.trans h ?_
  rw [h]

/-! ### The warnings are reported, and every condition evaluated (R122, R162) -/

theorem anyFault_congr (hw : q.working = p.working) (hd : ∀ j : Fin 32, q.lamps[j].diag = p.lamps[j].diag) : anyFault q = anyFault p := by
  simp only [anyFault, hw, hd]

/-- The Lamp Unit has been told of the warnings. -/
def warningsTold (p : Part) : Part := { p with lampU := { p.lampU with warn := p.acct.warnings } }

theorem warningsTold_mem (p : Part) : (warningsTold p).mem = p.mem := mem_congr rfl rfl

/-- The conditions evaluated at a restart's end. -/
def conditionsEvaluated (p : Part) : Part := evalLamps (reportWarnings p)

theorem conditionsEvaluated_eq (p : Part) : conditionsEvaluated p = forEach allLamps evalLamp
    (forEach (allLamps.filter fun (i : Fin 32) => (lampRec p.working i).kind == .drivetime) evalLamp (warningsTold p)) := rfl

theorem conditionsEvaluated_moved (hc : p.chime = Chime.reset) (hm : Memory.wf p.mem = true) :
    LampsMoved (warningsTold p) (conditionsEvaluated p) := by
  rw [conditionsEvaluated_eq]
  have h1 := forEach_evalLamp_moved (p := warningsTold p) (allLamps.filter fun (i : Fin 32) => (lampRec p.working i).kind == .drivetime)
    hc (warningsTold_mem p ▸ hm)
  exact h1.trans (forEach_evalLamp_moved allLamps (h1.chime.trans hc) h1.mem.1)

theorem LampsReset.conditions {warnings : BitVec 6} {faulty : Prop} (h : LampsReset warnings faulty (warningsTold p))
    (hf : p.lampU.frozen = false) : LampsReset warnings faulty (conditionsEvaluated p) ∧
      WarningsShown warnings faulty (conditionsEvaluated p) := by
  have hn : (allLamps.filter fun (i : Fin 32) => (lampRec p.working i).kind == .drivetime).Nodup := (List.nodup_finRange 32).filter _
  rw [conditionsEvaluated_eq]
  generalize allLamps.filter (fun (i : Fin 32) => (lampRec p.working i).kind == .drivetime) = is at hn
  have h1 := h.evalEach is
  have hu := (forEach_evalLamp is hn (warningsTold p)).frame.same.2
  have hq : (forEach is Machine.evalLamp (warningsTold p)).lampU.frozen = false := (congrArg LampUnit.frozen hu).trans hf
  exact ⟨h1.evalEach allLamps, h1.evalLamps_shown hq⟩

theorem warningsTold_frame (p : Part) : warningsTold p = { p with lampU := { p.lampU with warn := p.acct.warnings } } := by
  rw [warningsTold]

theorem ChansReset.warned (h : ChansReset b allChans p) (ho : LampsOff b) (he : lampChansExist b.working) :
    LampsReset p.acct.warnings (anyFault b) (warningsTold p) := by
  rw [warningsTold_frame]
  generalize hu : ({ p.lampU with warn := p.acct.warnings } : LampUnit) = u
  have hw : p.acct.warnings = u.warn := by rw [← hu]
  rw [hw]
  exact h.lampsReset ho he

/-! ### All the values that a restart's end gives (R56) -/

/-- The entries of a restart's end. -/
def restartEntries (cause : Cause) (was : OpState) (a b : Acct) : List Submission := stoppingEntries a b ++ [.restart cause was]

/-- Between `p` and `q` the blocks have been reset, all but the seen sequences. -/
def BlocksReset (p q : Part) : Prop := q = { inputsReset p with
  exch := q.exch, arb := q.arb, chans := q.chans, ptrs := q.ptrs, lamps := q.lamps, chime := Chime.reset, jour := q.jour, acct := q.acct
  lampU := { p.lampU with slowLit := true, fastLit := true, frozen := false, warn := q.acct.warnings, dim := q.lampU.dim }
  panel := { p.panel with stack := q.panel.stack, basePage := startPage p.working } }

/-- The blocks have their restart values. -/
structure ValuesTaken (cause : Cause) (p q : Part) : Prop where
  frame : BlocksReset p q
  chans : ∀ c : Fin 32, q.chans[c] = Chan.reset
  ptrs : ∀ i : Fin 6, q.ptrs[i] = { p.ptrs[i].ended with last := q.ptrs[i].last }
  lamps : ∀ j : Fin 32, q.lamps[j].diag = p.lamps[j].diag ∧ q.lamps[j].lowCount = p.lamps[j].lowCount
  reset : lampChansExist p.working → LampsReset q.acct.warnings (anyFault p) q ∧ WarningsShown q.acct.warnings (anyFault p) q
  moving : q.acct.moving = false
  confirm : q.acct.confirm = none
  clock : q.acct.clock = p.acct.clock ∧ q.acct.timeValid = p.acct.timeValid
  lost : q.acct.warnings.getLsbD 5 = false
  kept : SeatsKept p.acct q.acct
  journal : SameJournal ((restartEntries cause p.ctl.op p.acct q.acct).foldl (fun p e => submit e p) p) q
  mem : OwnWrites p.mem q.mem

end Sys2Proof.Machine
end

section
namespace Sys2Proof.Machine

variable {b p q r : Part}

/-! ### The blocks one after another (R56) -/

/-- What the accounting leaves of the part's other blocks. -/
theorem AccountingReset.same {e : Submission} (h : AccountingReset e p q) : q.working = p.working ∧ q.ctl = p.ctl ∧ q.lamps = p.lamps ∧
    q.ptrs = p.ptrs ∧ q.lampU = p.lampU ∧ q.chime = p.chime ∧ q.panel = p.panel := by
  rw [h.submitted.frame]
  exact ⟨rfl, rfl, rfl, rfl, rfl, rfl, rfl⟩

theorem UnitsReset.off (h : UnitsReset p q) : LampsOff q where
  lamps j := by
    rw [h.lamps j]
    exact ⟨rfl, rfl, rfl, rfl, rfl, rfl, rfl⟩
  chime := by rw [h.frame]
  stack := by rw [h.frame]

theorem LampsOff.hyst (h : LampsOff p) (j : Fin 32) : p.lamps[j].hyst = false := by
  obtain ⟨-, -, e, -⟩ := h.lamps j
  exact e

theorem LampsOff.same (h : LampsOff p) (hl : q.lamps = p.lamps) (hc : q.chime = p.chime) (hs : q.panel = p.panel) : LampsOff q where
  lamps := by
    rw [hl]
    exact h.lamps
  chime := hc.trans h.chime
  stack := by
    rw [hs]
    exact h.stack

/-- The blocks that the channels' resets tell of themselves have taken their restart values. -/
theorem UnitsReset.restarting {e : Submission} {w : Part} (h : UnitsReset p q) (ha : AccountingReset e q w) : Restarting w := by
  obtain ⟨-, -, h3, h4, h5, -, -⟩ := ha.same
  refine ⟨?_, ha.moving, ha.confirm, fun i => ?_, fun j => ?_⟩
  · rw [h5, h.frame]
    rfl
  · rw [h4, h.ptrs i]
    rfl
  · rw [h3, h.lamps j]
    rfl

theorem ChansReset.thawed {cs : List (Fin 32)} (h : ChansReset b cs p) (hf : b.lampU.frozen = false) : p.lampU.frozen = false := by
  rw [h.frame]
  exact hf

theorem ChansReset.restarts {cs : List (Fin 32)} (h : ChansReset b cs p) (hr : b.ctl.restart.isSome) : p.ctl.restart.isSome := by
  rw [h.frame]
  exact hr

theorem ChansReset.chimed {cs : List (Fin 32)} (h : ChansReset b cs p) (hc : b.chime = Chime.reset) : p.chime = Chime.reset := by
  rw [h.frame]
  exact hc

/-- Every lamp's mode, and its low-current count, are those that the channels' resets found. -/
theorem ChansReset.modes {cs : List (Fin 32)} (h : ChansReset b cs p) (hr : b.ctl.restart.isSome) (hm : ModesComposed b) : ModesComposed p := fun j => by
  have hl := h.lamps j
  have hd : p.lamps[j].diag = b.lamps[j].diag := by rw [hl]
  rw [composedMode_restart_congr hr (by rw [h.frame]) (by rw [h.frame]) hd, ← hm j, hl]

/-- Everything that the restart's end does before it is over. -/
def blocksReset (cause : Cause) (p : Part) : Part :=
  rewriteAccounting p.acct true true (conditionsEvaluated (resetChans (submit (.restart cause p.ctl.op) (evalWarnings (stopMotion (unitsReset p))))))

theorem restartValues_blocks (cause : Cause) (p : Part) :
    restartValues cause p = seenFromSlots (setCtl (fun c => { c with restart := none }) (blocksReset cause p)) := by
  rw [restartValues_eq, blocksReset, unitsReset, inputsReset_eq]
  rfl

section
variable {cause : Cause} {u w c e : Part}

/-- The entries of the restart's end, in the Journal of the part as it was before it. -/
theorem UnitsReset.journal (hm : Memory.wf p.mem = true) (hu : UnitsReset p u) (ha : AccountingReset (.restart cause p.ctl.op) u w) :
    SameJournal ((restartEntries cause p.ctl.op p.acct w.acct).foldl (fun p e => submit e p) p) w := by
  have hj : SameJournal p u := .of_records hm (by rw [hu.frame]; rfl) (by rw [hu.frame]; exact ⟨rfl, rfl⟩) hu.mem
  have hacct : u.acct = p.acct := by
    rw [hu.frame]
    rfl
  have h := ha.submitted.journal
  rw [hacct] at h
  exact (hj.submits _).trans h

/-- What the evaluations and the rewritten records leave of what the channels' resets have made. -/
structure Evaluating (c q : Part) : Prop where
  frame : LampsOnly (warningsTold c) q
  chime : q.chime = c.chime
  diag : ∀ j : Fin 32, q.lamps[j].diag = c.lamps[j].diag
  count : ∀ j : Fin 32, q.lamps[j].lowCount = c.lamps[j].lowCount
  mem : RecordWrites c.mem q.mem

theorem LampsMoved.evaluating (hr : c.ctl.restart.isSome) (hm : ModesComposed c) (he : LampsMoved (warningsTold c) e)
    (hq : MemoryOnly e q) (hmq : RecordWrites e.mem q.mem) : Evaluating c q := by
  have hl : q.lamps = e.lamps := by rw [hq]
  refine ⟨he.frame.trans hq.lampsOnly, (by rw [hq] : q.chime = e.chime).trans he.chime, fun j => ?_, fun j => ?_, ?_⟩
  · rw [hl]
    exact he.diag j
  · rw [hl]
    exact (he.outs hr (hm.same rfl rfl rfl) j).2
  · rw [← warningsTold_mem c]
    exact he.mem.trans hmq

/-- What leaves the lamps, their chime, their messages and the warnings told alone. -/
theorem LampsReset.beside {warnings : BitVec 6} {faulty : Prop} (h : LampsReset warnings faulty p ∧ WarningsShown warnings faulty p)
    (hw : q.working = p.working) (hc : q.chime = p.chime) (hs : q.panel.stack = p.panel.stack) (hu : q.lampU.warn = p.lampU.warn)
    (hl : q.lamps = p.lamps) (hm : Memory.wf q.mem = true) : LampsReset warnings faulty q ∧ WarningsShown warnings faulty q := by
  refine ⟨h.1.same hw hc hs hu (fun j => by rw [hl]; rfl) (fun hf => ?_) hm, h.2.same hw fun j => by rw [hl]⟩
  rwa [← anyLampFault_congr hw fun j => by rw [hl]]

theorem LampsReset.rewritten {warnings : BitVec 6} {faulty : Prop} (h : LampsReset warnings faulty e ∧ WarningsShown warnings faulty e)
    (hq : MemoryOnly e q) (hm : Memory.wf q.mem = true) : LampsReset warnings faulty q ∧ WarningsShown warnings faulty q :=
  LampsReset.beside h (by rw [hq]) (by rw [hq]) (by rw [hq]) (by rw [hq]) (by rw [hq]) hm

theorem RecordWrites.own {m n : Mem} (h : RecordWrites m n) : OwnWrites m n := by
  refine ⟨h.1, h.2.mono fun k hk => ?_⟩
  simp only [recordByte] at hk
  simp only [partByte, maskAddr, scanCountAddr, inboxAddr, checkRecordAddr, configStart]
  omega

theorem OwnWrites.trans {m n o : Mem} (h : OwnWrites m n) (h' : OwnWrites n o) : OwnWrites m o := ⟨h'.1, h.2.trans h'.2⟩

theorem valuesTaken_of (hm : Memory.wf p.mem = true) (hu : UnitsReset p u) (ha : AccountingReset (.restart cause p.ctl.op) u w)
    (hc : ChansReset w allChans c) (he : Evaluating c q)
    (hl : lampChansExist w.working → LampsReset c.acct.warnings (anyFault w) q ∧ WarningsShown c.acct.warnings (anyFault w) q) :
    ValuesTaken cause p q := by
  obtain ⟨w1, w2, w3, w4, w5, w6, w7⟩ := ha.same
  have hqa : q.acct = w.acct := by
    rw [he.frame, warningsTold, hc.frame]
  have hca : c.acct = w.acct := by rw [hc.frame]
  have hqj : q.jour = w.jour := by
    rw [he.frame, warningsTold, hc.frame]
  have hqw : w.working = p.working := by
    rw [w1, hu.frame]
    rfl
  have hpa : u.acct = p.acct := by
    rw [hu.frame]
    rfl
  have hlamp (j : Fin 32) : c.lamps[j].diag = p.lamps[j].diag ∧ c.lamps[j].lowCount = p.lamps[j].lowCount ∧ w.lamps[j].diag = p.lamps[j].diag := by
    rw [hc.lamps j, w3, hu.lamps j]
    exact ⟨rfl, rfl, rfl⟩
  have hrec : RecordWrites w.mem q.mem := hc.mem.trans he.mem
  have hwq : SameJournal w q := .of_records ha.submitted.mem.1 hqj (by rw [hqa]; exact ⟨rfl, rfl⟩) hrec
  refine ⟨?_, fun i => ?_, fun i => ?_, fun j => ?_, fun hx => ?_, ?_, ?_, ?_, ?_, ?_, ?_, ?_⟩
  · have hw : w = { u with exch := w.exch, arb := w.arb, acct := w.acct, jour := w.jour } := ha.submitted.frame
    have hch : q.chime = Chime.reset := he.chime.trans (hc.chimed (w6.trans hu.off.chime))
    have hqc : q.chans = c.chans ∧ q.ptrs = c.ptrs ∧ q.lampU.dim = c.lampU.dim := by
      rw [he.frame, warningsTold]
      exact ⟨rfl, rfl, rfl⟩
    rw [BlocksReset, hqc.1, hqc.2.1, hqc.2.2, hqj, hqa]
    refine Eq.trans he.frame ?_
    rw [hch, warningsTold, hca, hc.frame, hw, hu.frame]
    rfl
  · have hqc : q.chans = c.chans := by rw [he.frame, warningsTold]
    rw [hqc]
    exact hc.chans i (List.mem_finRange i)
  · have hqp : q.ptrs = c.ptrs := by rw [he.frame, warningsTold]
    rw [hqp, ← hu.ptrs i, ← w4]
    exact hc.ptrs i
  · obtain ⟨hd, hn, -⟩ := hlamp j
    exact ⟨(he.diag j).trans hd, (he.count j).trans hn⟩
  · have h := hl (hqw ▸ hx)
    rwa [hca, ← hqa, anyFault_congr hqw fun j => (hlamp j).2.2] at h
  · rw [hqa]
    exact ha.moving
  · rw [hqa]
    exact ha.confirm
  · rw [hqa, ← hpa]
    exact ha.submitted.clock
  · rw [hqa]
    exact ha.lost
  · rw [hqa, ← hpa]
    exact ha.kept
  · rw [hqa]
    exact (hu.journal hm ha).trans hwq
  · exact hu.mem.own.trans (ha.submitted.mem.trans hrec.own)

/-- R56: the blocks' restart values. -/
theorem blocksReset_taken (cause : Cause) (hr : p.ctl.restart.isSome) (hm : Memory.wf p.mem = true) :
    ValuesTaken cause p (blocksReset cause p) := by
  have hu := unitsReset_reset hm
  rw [blocksReset]
  generalize unitsReset p = u at hu
  have huc : u.ctl = p.ctl ∧ u.acct = p.acct ∧ u.jour = p.jour := by
    rw [hu.frame]
    exact ⟨rfl, rfl, rfl⟩
  have ha := accountingReset (.restart cause p.ctl.op) (p := u) (huc.1 ▸ hr) hu.mem.1
  generalize submit (.restart cause p.ctl.op) (evalWarnings (stopMotion u)) = w at ha
  obtain ⟨w1, w2, w3, w4, w5, w6, w7⟩ := ha.same
  have hb := hu.restarting ha
  have ho := hu.off.same w3 w6 w7
  have hmod := hu.modes.same w1 w2 w3
  have hc := resetChans_reset hb ho.hyst ha.submitted.mem.1
  generalize resetChans w = c at hc
  have hcc := hc.chimed ho.chime
  have hmc := hc.modes (by rw [w2, huc.1]; exact hr) hmod
  have he := conditionsEvaluated_moved hcc hc.mem.1
  have hf := hc.thawed hb.frozen
  have hl (hx : lampChansExist w.working) := (hc.warned ho hx).conditions hf
  generalize conditionsEvaluated c = e at he hl
  have hq := rewriteAccounting_only p.acct true true e
  have hmq := (RecordWrites.refl he.mem.1).accounting p.acct true true
  generalize rewriteAccounting p.acct true true e = q at hq hmq
  have hev := he.evaluating (hc.restarts (by rw [w2, huc.1]; exact hr)) hmc hq hmq
  exact valuesTaken_of hm hu ha hc hev fun hx => LampsReset.rewritten (hl hx) hq hmq.1

end


end Sys2Proof.Machine
end

section
namespace Sys2Proof.Machine

variable {b p q r : Part}

/-! ### The restart is over, and a dip may be found (R52, R54, R56) -/

/-- The restart is over, its causes passed. -/
def restartOver (p : Part) : Part := seenFromSlots (setCtl (fun c => { c with restart := none }) p)

/-- R52: a dip at once. -/
def dipBegun (p : Part) : Part := setNotice .dip (setCtl (fun c => { c with supply := .dip, settle := none }) p)

theorem dipChan_unset (c : Fin 32) (h : p.chans[c] = Chan.reset) : dipChan c p = p := by
  rw [dipChan, h]
  exact if_neg (by simp [Chan.reset])

theorem freezePtr_released (i : Fin 6) (h : p.ptrs[i].state = .released) : freezePtr i p = p := by
  rw [freezePtr, h]
  exact if_neg (by simp)

theorem forEach_idle {α : Type} {f : α → Part → Part} (h : ∀ i, f i p = p) (is : List α) : forEach is f p = p :=
  forEach_closed (P := fun q => q = p) (fun i q hq => by rw [hq]; exact h i) is rfl

theorem muteTestTone_silent (h : p.chime = Chime.reset) : muteTestTone p = p := by
  have he : { p.chime with testMuted := p.chime.test.isSome } = p.chime := by
    rw [h]
    rfl
  exact congrArg (fun c => { p with chime := c }) he

/-- R52: a dip that finds the channels UNSET, the pointers RELEASED and the chime at rest tells nobody. -/
theorem dipStart_reset (hc : p.chime = Chime.reset) (hch : ∀ c : Fin 32, p.chans[c] = Chan.reset)
    (hp : ∀ i : Fin 6, p.ptrs[i].state = .released) : dipStart p = dipBegun p := by
  have h0 : dipStart p = forEach allPtrs freezePtr (forEach allChans dipChan (muteTestTone (chimeSync (dipBegun p)))) := rfl
  have hc' : (dipBegun p).chime = Chime.reset := hc
  have hs : chimeSync (dipBegun p) = dipBegun p :=
    chimeSync_of_deferred (by rw [hc']; rfl) (by simp [chimeServes, Part.inDip, dipBegun, setNotice])
  rw [h0, hs, muteTestTone_silent hc', 
    forEach_idle (p := dipBegun p) (f := dipChan) (fun c => dipChan_unset c (hch c)),
    forEach_idle (p := dipBegun p) (f := freezePtr) fun i => freezePtr_released i (hp i)]

theorem restartOver_eq (p : Part) : restartOver p = { p with
    ctl := { p.ctl with restart := none }, req := { p.req with seen := Vector.ofFn fun (i : Fin 16) => memRead p.mem (inboxAddr i) } } := by
  have hm : (setCtl (fun c => { c with restart := none }) p).mem = p.mem := mem_congr rfl rfl
  rw [restartOver, seenFromSlots, hm, setReq, setCtl]

/-- The restart is over, and the supply as found. -/
structure Resupplied (dip : Bool) (p q : Part) : Prop where
  frame : q = { p with
    exch := q.exch, arb := q.arb, ctl := { p.ctl with restart := none, supply := if dip then .dip else .normal, settle := none }
    req := { p.req with seen := Vector.ofFn fun (i : Fin 16) => memRead p.mem (inboxAddr i) } }
  mem : RecordWrites p.mem q.mem

theorem dipBegun_supplied (hm : Memory.wf p.mem = true) : RecordWrites p.mem (dipBegun p).mem := by
  have h0 : (setCtl (fun c => { c with supply := .dip, settle := none }) p).mem = p.mem := mem_congr rfl rfl
  rw [← h0]
  exact (RecordWrites.refl (h0 ▸ hm)).notice .dip

theorem dipBegun_eq (p : Part) : dipBegun p = { p with
    exch := (dipBegun p).exch, arb := (dipBegun p).arb, ctl := { p.ctl with supply := .dip, settle := none } } := by
  rw [dipBegun, setNotice, Part.request, setCtl]

theorem restartOver_supplied (dip : Bool) (hs : p.ctl.supply = .normal ∧ p.ctl.settle = none) (hc : p.chime = Chime.reset)
    (hch : ∀ c : Fin 32, p.chans[c] = Chan.reset) (hp : ∀ i : Fin 6, p.ptrs[i].state = .released) (hm : Memory.wf p.mem = true) :
    Resupplied dip p (onlyIf dip dipStart (restartOver p)) := by
  have ho := restartOver_eq p
  have hmem : (restartOver p).mem = p.mem := mem_congr (by rw [ho]) (by rw [ho])
  cases dip
  · rw [onlyIf_false]
    generalize restartOver p = q at ho hmem
    have hctl : ({ p.ctl with restart := none, supply := .normal, settle := none } : Control) = { p.ctl with restart := none } := by
      rw [← hs.1, ← hs.2]
    refine ⟨?_, by rw [hmem]; exact .refl hm⟩
    rw [ho]
    exact congrArg (fun c => { p with ctl := c, req := { p.req with seen := Vector.ofFn fun (i : Fin 16) => memRead p.mem (inboxAddr i) } }) hctl.symm
  · rw [onlyIf_true, dipStart_reset (p := restartOver p) hc hch hp]
    generalize restartOver p = q at ho hmem
    have hq := dipBegun_supplied (p := q) (hmem ▸ hm)
    rw [hmem] at hq
    refine ⟨?_, hq⟩
    have hd := dipBegun_eq q
    generalize dipBegun q = r at hd
    refine Eq.trans hd ?_
    rw [ho]
    rfl

end Sys2Proof.Machine
end

section
namespace Sys2Proof.Machine

variable {b p q r : Part}

/-! ### What record accesses keep of the memory (R7, R11) -/

/-- What record accesses keep of the memory every operation of the part keeps. -/
theorem controlClosed_of_effects {Q : Mem → Prop} (h : ∀ m x, blockAccess x → Q m → Q (x.effect m)) : ControlClosed fun p => Q p.mem :=
  controlClosed_of_arb (Q := fun m w => Q (grantAccesses m w))
    (fun m w x hx hq => by
      rw [grantAccesses_append]
      exact h _ x hx hq)
    fun _ _ hq => hq

/-- The memory is canonical, and the notice is set. -/
def NoticeStands (n : Notice) (m : Mem) : Prop := Memory.wf m = true ∧ noticeOn m n = true

theorem NoticeStands.kept {n : Notice} {m o : Mem} (h : NoticeStands n m) (hw : Memory.wf o = true)
    (ho : ∀ k, noticeByte k → memRead o k = memRead m k) : NoticeStands n o := ⟨hw, (noticeOn_congr ho n).trans h.2⟩

/-- R11: one more notice is set. -/
theorem NoticeStands.set {n : Notice} {m o : Mem} (x : Notice) (h : Memory.wf o = true) (hn : noticeOn m n = true ∨ n = x) :
    NoticeStands n (memWriteN o noticeAddr (noticeBytes x m)) := by
  refine ⟨memWriteN_wf _ _ _ h, ?_⟩
  rw [noticeOn, noticeWord_memWriteN _ _ _ h, or_notice_getLsbD]
  rcases hn with hn | hn
  · rw [show (noticeWord m).getLsbD n.bit = true from hn, Bool.or_true]
  · rw [hn, decide_eq_true rfl, Bool.true_or]

theorem NoticeStands.write {n : Notice} {m : Mem} {a : Nat} {bs : List Byte} (hc : ∀ k, noticeByte k → ¬ inRecord a bs.length k)
    (h : NoticeStands n m) : NoticeStands n (memWriteN m a bs) :=
  h.kept (memWriteN_wf _ _ _ h.1) fun k hk => agreeOutside_memWriteN h.1 k (hc k hk)

/-- No record access takes a notice back. -/
theorem NoticeStands.effect {n : Notice} {m : Mem} {x : RecordAccess} (hx : blockAccess x) (h : NoticeStands n m) :
    NoticeStands n (x.effect m) := by
  cases x with
  | write a bs => exact h.write (blockAccess_clear hx)
  | notice x => exact .set x h.1 (.inl h.2)
  | checkFailure area slot bytes =>
    rw [effect_checkFailure, checkFailurePieces]
    split
    next =>
      refine h.write (a := checkRecordAddr + 12) fun k hk => ?_
      simp only [noticeByte_iff, inRecord, checkRecordAddr] at hk ⊢
      omega
    next => exact .set .check (memWriteN_wf _ _ _ h.1) (.inl h.2)
  | answer i bs =>
    rw [effect_answer]
    split
    next =>
      have h1 : NoticeStands n (memWriteN m (slotAddr i) bs) := h.write fun k hk => by
        simp only [noticeByte_iff, inRecord, slotAddr] at hk ⊢
        omega
      exact .set .reply h1.1 (.inl h1.2)
    next => exact h

theorem noticeStands_controlClosed (n : Notice) : ControlClosed fun p => NoticeStands n p.mem :=
  controlClosed_of_effects fun _ _ => NoticeStands.effect

/-! ### An operating state is entered (R20, R32) -/

/-- The header's state bytes are written at once. -/
theorem RecordWrites.stateBytes {m : Mem} (h : RecordWrites m p.mem) : RecordWrites m (writeStateBytes p).mem := by
  have hs := h.store (a := 0x0002) (bs := [p.ctl.op.code, p.ctl.access.code]) (.inl (by simp))
  rw [writeStateBytes, Part.grantAll_mem]
  exact hs

/-- An operating state is entered, with its scan timer and its notice. -/
structure OpEntered (op : OpState) (p q : Part) : Prop where
  frame : q = { p with
    exch := q.exch, arb := q.arb, ctl := { p.ctl with op := op }, req := { p.req with scanTimer := scanPeriod p.working op }
    panel := { p.panel with lastSent := q.panel.lastSent, sinceSend := q.panel.sinceSend } }
  mem : RecordWrites p.mem q.mem
  state : NoticeStands .state q.mem

theorem forgetFrameIfIdle_only (p : Part) : forgetFrameIfIdle p = { p with
    panel := { p.panel with lastSent := (forgetFrameIfIdle p).panel.lastSent, sinceSend := (forgetFrameIfIdle p).panel.sinceSend } } := by
  unfold forgetFrameIfIdle onlyIf
  split <;> rfl

theorem setOp_entered (op : OpState) (hm : Memory.wf p.mem = true) : OpEntered op p (setOp op p) := by
  have h0 : (setCtl (fun c => { c with op := op }) p).mem = p.mem := mem_congr rfl rfl
  have h1 : RecordWrites p.mem (writeStateBytes (setCtl (fun c => { c with op := op }) p)).mem := by
    rw [← h0]
    exact (RecordWrites.refl (h0 ▸ hm)).stateBytes
  have hf : writeStateBytes (setCtl (fun c => { c with op := op }) p) = { p with
      exch := (writeStateBytes (setCtl (fun c => { c with op := op }) p)).exch, arb := (writeStateBytes (setCtl (fun c => { c with op := op }) p)).arb
      ctl := { p.ctl with op := op } } := by
    rw [writeStateBytes, grantAll_eq, Part.store, Part.request, setCtl]
  have hs : setOp op p = forgetFrameIfIdle (setReq (fun r => { r with scanTimer := scanPeriod p.working op })
      (setNotice .state (writeStateBytes (setCtl (fun c => { c with op := op }) p)))) := rfl
  rw [hs]
  generalize writeStateBytes (setCtl (fun c => { c with op := op }) p) = u at h1 hf
  have h2 := h1.notice .state
  have h3 : NoticeStands .state (setNotice .state u).mem := by
    rw [show (setNotice .state u).mem = memWriteN u.mem noticeAddr (noticeBytes .state u.mem) from request_mem _ _]
    exact .set .state h1.1 (.inr rfl)
  have hv : setNotice .state u = { u with arb := (setNotice .state u).arb } := by rw [setNotice, Part.request]
  generalize setNotice .state u = v at h2 h3 hv
  have hw := forgetFrameIfIdle_only (setReq (fun r => { r with scanTimer := scanPeriod p.working op }) v)
  generalize forgetFrameIfIdle (setReq (fun r => { r with scanTimer := scanPeriod p.working op }) v) = w at hw
  have hm : w.mem = v.mem := mem_congr (by rw [hw]; rfl) (by rw [hw]; rfl)
  refine ⟨?_, by rw [hm]; exact h2, by rw [hm]; exact h3⟩
  refine Eq.trans hw ?_
  have he : w.exch = v.exch ∧ w.arb = v.arb := ⟨by rw [hw]; rfl, by rw [hw]; rfl⟩
  rw [he.1, he.2, setReq, hv, hf]

end Sys2Proof.Machine
end

section
namespace Sys2Proof.Machine

variable {b p q r : Part} {warnings : BitVec 6} {faulty : Prop}

/-! ## The state that a restart enters -/

/-! ### The lamps that it finds (R145) -/

/-- The lamps and the message stack as a restart's end leaves them, under the configuration `w`. -/
def LampsAfresh (w : Mem) (warnings : BitVec 6) (faulty : Prop) (p : Part) : Prop :=
  (∀ i : Fin 32, p.lamps[i].requested = false ∧ p.lamps[i].hyst = false ∧
    (¬ lightable w warnings faulty i → p.lamps[i].state = .off ∧ p.lamps[i].cond = false ∧ p.lamps[i].onDelay = none ∧
      p.lamps[i].msg = .none ∧ p.lamps[i].owed = false) ∧
    (lightable w warnings faulty i → (lampRec w i).kind = .drivetime → p.lamps[i].cond = true ∧
      p.lamps[i].state = if (lampRec w i).onDelay = 0 then .on else .pending)) ∧
  ∀ e ∈ p.panel.stack, lightable w warnings faulty e.lamp

theorem LampsReset.afresh (h : LampsReset warnings faulty p ∧ WarningsShown warnings faulty p) : LampsAfresh p.working warnings faulty p := by
  obtain ⟨h, hs⟩ := h
  refine ⟨fun i => ⟨h.requested i, h.hyst i, fun hn => ?_, fun hl hk => ?_⟩, h.held.2⟩
  · obtain ⟨h1, h2, h3, h4⟩ := h.dark i hn
    exact ⟨h1, h2, h3, h.held.1 i hn, h4⟩
  · have hc := hs i hl hk
    refine ⟨hc, (h.begun i hk).trans ?_⟩
    rw [hc]
    rfl

theorem LampsAfresh.beside {w : Mem} (h : LampsAfresh w warnings faulty p) (hl : q.lamps = p.lamps) (hs : q.panel.stack = p.panel.stack) :
    LampsAfresh w warnings faulty q := by
  rw [LampsAfresh, hl, hs]
  exact h

theorem LampsReset.composeLamps (h : LampsReset warnings faulty p ∧ WarningsShown warnings faulty p) :
    LampsReset warnings faulty (composeLamps p) ∧ WarningsShown warnings faulty (composeLamps p) :=
  forEach_closed (P := fun q => LampsReset warnings faulty q ∧ WarningsShown warnings faulty q)
    (fun i q hq => ⟨hq.1.composeLamp i, hq.2.same (composeLamp_working i q) fun j => composeLamp_cond i j⟩) allLamps h

theorem RecordWrites.composeLamps {m : Mem} (h : RecordWrites m p.mem) : RecordWrites m (composeLamps p).mem :=
  forEach_closed (P := fun q => RecordWrites m q.mem) (fun i _ hq => hq.composeLamp i) allLamps h

/-- A lamp composed anew keeps its low-current count, or is lit with none. -/
theorem composedLamp_count (p : Part) (i : Fin 32) (l : Lamp) : (composedLamp p i l).lowCount = l.lowCount ∨
    (composedLamp p i l).mode ≠ .unlit ∧ (composedLamp p i l).lowCount = 0 := by
  have hd (m : Lamp) : (drivenLamp p i m).mode = m.mode ∧ (drivenLamp p i m).lowCount = m.lowCount := by
    rw [drivenLamp]
    split <;> exact ⟨rfl, rfl⟩
  rw [composedLamp, (hd _).1, (hd _).2]
  split
  next h => exact .inr ⟨h.2, rfl⟩
  next => exact .inl rfl

/-! ### The state entered (R36, R41, R56) -/

/-- The state entered from `p`: STARTING with IGN on, PARK with it off. -/
structure StateEntered (p q : Part) : Prop where
  frame : q = { p with
    exch := q.exch, arb := q.arb, conv := q.conv, pulse := q.pulse, sw := q.sw, ptrs := q.ptrs, lamps := q.lamps, chime := q.chime
    lampU := { p.lampU with frozen := !p.ign.on }
    ctl := { p.ctl with op := if p.ign.on then .starting else .park, proving := q.ctl.proving }
    req := { p.req with scanTimer := some (if p.ign.on then scanPeriodOf p.working else 1000) }
    panel := { q.panel with basePage := startPage p.working } }
  conv : q.conv = { pos := 0, busy := none, codes := p.conv.codes, sref := p.ign.on }
  pulse : ∀ i : Fin 4, q.pulse[i].freq = p.pulse[i].freq ∧ q.pulse[i].tref = p.pulse[i].tref ∧ q.pulse[i].lastEdge = p.pulse[i].lastEdge
  sw : ∀ i : Fin 8, q.sw[i].raw = p.sw[i].raw ∧ q.sw[i].deb = p.sw[i].deb ∧ (p.sw[i].taken = false → q.sw[i].taken = false) ∧
    (p.sw[i].count = 0 → q.sw[i].count = 0)
  ptrs : ∀ i : Fin 6, q.ptrs[i].homeNeeded = true ∧ q.ptrs[i].pos = p.ptrs[i].pos ∧ q.ptrs[i].target = 0 ∧ q.ptrs[i].speed = 0 ∧
    q.ptrs[i].state = if p.ign.on && ptrUsed p.working i then .homing else .released
  lamps : p.ign.on = false → ∀ j : Fin 32, q.lamps[j].diag = p.lamps[j].diag ∧
    (q.lamps[j].lowCount = p.lamps[j].lowCount ∨ q.lamps[j].mode ≠ .unlit ∧ q.lamps[j].lowCount = 0)
  chime : chimeIsReset q
  mem : RecordWrites p.mem q.mem
  state : NoticeStands .state q.mem

/-- The part in which a restart's end enters a state. -/
structure Restarted (p : Part) : Prop where
  chime : p.chime = Chime.reset
  ptrs : ∀ i : Fin 6, p.ptrs[i].homeNeeded = true ∧ p.ptrs[i].target = 0 ∧ p.ptrs[i].speed = 0 ∧ p.ptrs[i].state = .released
  conv : p.conv.pos = 0 ∧ p.conv.busy = none ∧ p.conv.sref = false
  page : p.panel.basePage = startPage p.working
  frozen : p.lampU.frozen = false
  wf : Memory.wf p.mem = true

theorem setFrozen_memory (x : Bool) (p : Part) : (setFrozen x p).mem = p.mem := mem_congr rfl rfl

/-- The frame of PARK entered. -/
theorem parkState_entered {u v : Part} (h : Restarted p) (hi : p.ign.on = false) (hu : OpEntered .park p u)
    (hv : v = { u with lampU := { u.lampU with frozen := true } })
    (c1 : LampsTold v q) (c2 : ∀ j : Fin 32, q.lamps[j] = composedLamp v j v.lamps[j]) (hmq : RecordWrites p.mem q.mem)
    (hst : NoticeStands .state q.mem) : StateEntered p q := by
  have hv' : v = { p with
      exch := v.exch, arb := v.arb, ctl := { p.ctl with op := .park }, req := { p.req with scanTimer := some 1000 }
      lampU := { p.lampU with frozen := true }, panel := { p.panel with lastSent := v.panel.lastSent, sinceSend := v.panel.sinceSend } } := by
    rw [hv, hu.frame]
    rfl
  have hq : q = { p with
      exch := q.exch, arb := q.arb, ctl := { p.ctl with op := .park }, req := { p.req with scanTimer := some 1000 }, lamps := q.lamps
      lampU := { p.lampU with frozen := true }, panel := { p.panel with lastSent := q.panel.lastSent, sinceSend := q.panel.sinceSend } } := by
    have hp : q.panel = v.panel := by rw [c1]
    rw [hp]
    refine Eq.trans c1 ?_
    rw [hv']
  have hl : v.lamps = p.lamps := by rw [hv']
  have hpq : q.ptrs = p.ptrs := by rw [hq]
  refine ⟨?_, ?_, fun i => ?_, fun i => ?_, fun i => ?_, fun _ j => ?_, ?_, hmq, hst⟩
  · rw [hi]
    have hk : q.panel.stack = p.panel.stack ∧ q.conv = p.conv ∧ q.pulse = p.pulse ∧ q.sw = p.sw ∧ q.chime = p.chime ∧
        q.ctl.proving = p.ctl.proving := by
      rw [hq]
      exact ⟨rfl, rfl, rfl, rfl, rfl, rfl⟩
    obtain ⟨k1, k2, k3, k4, k5, k6⟩ := hk
    dsimp only
    rw [k1, k2, k3, k4, k5, k6, hpq, ← h.page]
    exact hq
  · rw [hq, hi]
    obtain ⟨e1, e2, e3⟩ := h.conv
    rw [← e1, ← e2, ← e3]
  · rw [hq]
    exact ⟨rfl, rfl, rfl⟩
  · rw [hq]
    exact ⟨rfl, rfl, id, id⟩
  · rw [hpq, hi]
    obtain ⟨e1, e2, e3, e4⟩ := h.ptrs i
    exact ⟨e1, rfl, e2, e3, e4⟩
  · rw [c2 j, hl]
    refine ⟨by rw [composedLamp_eq], ?_⟩
    exact composedLamp_count v j p.lamps[j]
  · have hc : q.chime = Chime.reset := by rw [hq]; exact h.chime
    rw [chimeIsReset, hc]
    exact ⟨rfl, .inl rfl⟩

/-- What a restart's end enters, the lamps and the proving cycle with it. -/
structure RestartEntered (p q : Part) : Prop where
  entered : StateEntered p q
  reset : ∀ (warnings : BitVec 6) (faulty : Prop), LampsReset warnings faulty p ∧ WarningsShown warnings faulty p →
    LampsAfresh p.working warnings faulty q
  cycle : p.ctl.proving = none → startCycleAtOnce p.working q

/-- R56: PARK. -/
theorem restartState_park (h : Restarted p) (hi : p.ign.on = false) : RestartEntered p (restartState p) := by
  have he : restartState p = composeLamps (setFrozen true (setOp .park p)) := by rw [restartState, if_neg (by rw [hi]; decide)]
  have hs := setOp_entered .park h.wf
  have hst : NoticeStands .state (composeLamps (setFrozen true (setOp .park p))).mem :=
    composeLamps_closed (P := fun q => NoticeStands .state q.mem) (noticeStands_controlClosed .state).toLampClosed
      (by rw [setFrozen_memory]; exact hs.state)
  rw [he]
  generalize setOp .park p = u at hs hst
  have hv : setFrozen true u = { u with lampU := { u.lampU with frozen := true } } := by rw [setFrozen]
  have hmv : RecordWrites p.mem (setFrozen true u).mem := by rw [setFrozen_memory]; exact hs.mem
  generalize setFrozen true u = v at hv hmv hst
  obtain ⟨c1, c2⟩ := composeLamps_told v
  have hmq := hmv.composeLamps
  have hr (W : BitVec 6) (F : Prop) := LampsReset.composeLamps (warnings := W) (faulty := F) (p := v)
  generalize composeLamps v = q at c1 c2 hmq hst hr
  have hq := parkState_entered h hi hs hv c1 c2 hmq hst
  have hw : q.working = p.working := by rw [hq.frame]
  refine ⟨hq, fun W F hW => ?_, fun hp => ?_⟩
  · rw [← hw]
    refine LampsReset.afresh (hr W F (LampsReset.beside hW ?_ ?_ ?_ ?_ ?_ hmv.1)) <;> rw [hv, hs.frame]
  · have hop : q.ctl.op = .park ∧ q.ctl.proving = p.ctl.proving := by
      rw [c1, hv, hs.frame]
      exact ⟨rfl, rfl⟩
    rw [startCycleAtOnce, hop.1, hop.2]
    exact ⟨nofun, fun _ => hp⟩

end Sys2Proof.Machine
end

section
namespace Sys2Proof.Machine

variable {b p q r : Part} {warnings : BitVec 6} {faulty : Prop}

/-! ### STARTING is entered (R36, R109, R110) -/

/-- A used pointer's homing begins. -/
def homeUsed (i : Fin 6) (p : Part) : Part := if ptrUsed p.working i then homingBegin i p else p

/-- A pointer after its homing began, if it is used. -/
def Ptr.homedIf (w : Mem) (dip : Bool) (i : Fin 6) (x : Ptr) : Ptr := if ptrUsed w i then x.homingBegun w dip i else x

/-- Every used pointer begins its homing, each of them being marked. -/
theorem forEach_startPtr (h : ∀ i : Fin 6, p.ptrs[i].homeNeeded = true) (is : List (Fin 6)) : forEach is startPtr p = forEach is homeUsed p := by
  refine forEach_congr (P := fun q => ∀ i : Fin 6, q.ptrs[i].homeNeeded = true) (fun i q hq => ?_) is h
  rw [startPtr, homeUsed]
  by_cases hu : ptrUsed q.working i = true
  · rw [hu, if_pos rfl, hq i]
    refine ⟨rfl, fun j => ?_⟩
    rw [(homingBegin_told i q).2]
    by_cases e : i = j
    · subst e
      rw [updAt_self]
      rfl
    · rw [updAt_other i j _ _ e]
      exact hq j
  · rw [if_neg hu, Bool.eq_false_iff.2 hu]
    exact ⟨rfl, hq⟩

theorem homeUsed_told (i : Fin 6) (p : Part) : PtrsTold p (homeUsed i p) ∧
    (homeUsed i p).ptrs = updAt i (Ptr.homedIf p.working p.inDip i) p.ptrs := by
  unfold homeUsed Ptr.homedIf
  split
  next => exact homingBegin_told i p
  next => exact ⟨rfl, (Vector.set_getElem_self _).symm⟩

theorem startPtrs_told (h : ∀ i : Fin 6, p.ptrs[i].homeNeeded = true) (hm : Memory.wf p.mem = true) : PtrsTold p (forEach allPtrs startPtr p) ∧
    (∀ i : Fin 6, (forEach allPtrs startPtr p).ptrs[i] = p.ptrs[i].homedIf p.working p.inDip i) ∧
    RecordWrites p.mem (forEach allPtrs startPtr p).mem := by
  rw [forEach_startPtr h]
  obtain ⟨h1, h2⟩ := forEach_ptrs (f := homeUsed) (g := Ptr.homedIf p.working p.inDip) allPtrs (p := p) fun i q hq => by
    have hw : q.working = p.working ∧ q.inDip = p.inDip := by
      rw [hq]
      exact ⟨rfl, rfl⟩
    rw [← hw.1, ← hw.2]
    exact homeUsed_told i q
  refine ⟨h1, fun i => ?_, forEach_closed (P := fun q => RecordWrites p.mem q.mem) (fun i q hq => ?_) allPtrs (.refl hm)⟩
  · rw [h2, foldl_updAt _ allPtrs _ i (List.nodup_finRange 6), if_pos (show i ∈ allPtrs from List.mem_finRange i)]
  · refine ite_closed (P := fun q => RecordWrites p.mem q.mem) ?_ hq
    rw [homingBegin_eq]
    exact RecordWrites.ptr (p := setPtr i (Ptr.homingBegun q.working q.inDip i) q) i hq

/-- The units' start leaves the memory. -/
theorem unitsStart_eq (p : Part) : unitsStart p = { p with
    conv := { p.conv with pos := 0, busy := none, sref := true }
    pulse := Vector.ofFn fun i => { p.pulse[i] with start := p.free, len := windowLength p.working i, win := Edges.none, next := Edges.none }
    sw := p.sw.map fun x => { x with count := 0, taken := false } } := by
  rw [unitsStart, switchesAfresh, setSwitches, setPulses, setConv]

/-- The part that enters STARTING, its homings begun and its modes composed. -/
def startingBegun (p : Part) : Part := composeLamps (forEach allPtrs startPtr (toStartPage (setOp .starting (unitsStart p))))

theorem restartState_starting (hi : p.ign.on = true) : restartState p = startIfHomed (chimeSync (startingBegun p)) := by
  rw [restartState, if_pos hi]
  rfl

/-- STARTING, entered, no proving cycle begun yet. -/
structure Begun (p q : Part) : Prop where
  entered : StateEntered p q
  chime : q.chime = Chime.reset
  proving : q.ctl.proving = p.ctl.proving
  reset : ∀ (warnings : BitVec 6) (faulty : Prop), LampsReset warnings faulty p ∧ WarningsShown warnings faulty p →
    LampsReset warnings faulty q ∧ WarningsShown warnings faulty q

/-- STARTING's operating state and start page, before its homings. -/
def StartingOp (p c : Part) : Prop := c = { p with
  exch := c.exch, arb := c.arb, conv := { p.conv with pos := 0, busy := none, sref := true }
  pulse := Vector.ofFn fun i => { p.pulse[i] with start := p.free, len := windowLength p.working i, win := Edges.none, next := Edges.none }
  sw := p.sw.map fun x => { x with count := 0, taken := false }
  ctl := { p.ctl with op := .starting }, req := { p.req with scanTimer := some (scanPeriodOf p.working) }
  panel := { p.panel with basePage := startPage p.working, lastSent := c.panel.lastSent, sinceSend := c.panel.sinceSend } }

theorem startingOp {u : Part} (h : OpEntered .starting (unitsStart p) u) : StartingOp p (toStartPage u) := by
  have hu := h.frame
  rw [unitsStart_eq] at hu
  have ht := toStartPage_frame u
  have hw : u.working = p.working := by rw [hu]
  rw [hw] at ht
  generalize toStartPage u = c at ht
  have hk : c.exch = u.exch ∧ c.arb = u.arb ∧ c.panel.lastSent = u.panel.lastSent ∧ c.panel.sinceSend = u.panel.sinceSend := by
    rw [ht]
    exact ⟨rfl, rfl, rfl, rfl⟩
  obtain ⟨k1, k2, k3, k4⟩ := hk
  rw [StartingOp, k1, k2, k3, k4]
  refine Eq.trans ht ?_
  rw [hu]
  rfl

theorem starting_entered {c d : Part} (h : Restarted p) (hi : p.ign.on = true) (hc : StartingOp p c) (d1 : PtrsTold c d)
    (d2 : ∀ i : Fin 6, d.ptrs[i] = c.ptrs[i].homedIf c.working c.inDip i) (c1 : LampsTold d q) (hm : RecordWrites p.mem q.mem)
    (hst : NoticeStands .state q.mem) : StateEntered p q := by
  have hq : q = { p with
      exch := q.exch, arb := q.arb, conv := { p.conv with pos := 0, busy := none, sref := true }
      pulse := Vector.ofFn fun i => { p.pulse[i] with start := p.free, len := windowLength p.working i, win := Edges.none, next := Edges.none }
      sw := p.sw.map fun x => { x with count := 0, taken := false }, ptrs := q.ptrs, lamps := q.lamps
      ctl := { p.ctl with op := .starting }, req := { p.req with scanTimer := some (scanPeriodOf p.working) }
      panel := { p.panel with basePage := startPage p.working, lastSent := q.panel.lastSent, sinceSend := q.panel.sinceSend } } := by
    have hk : q.ptrs = d.ptrs ∧ q.panel = c.panel := by
      rw [c1, d1]
      exact ⟨rfl, rfl⟩
    rw [hk.1, hk.2]
    refine Eq.trans c1 ?_
    rw [d1, hc]
  have hcw : c.working = p.working ∧ c.ptrs = p.ptrs := by
    rw [hc]
    exact ⟨rfl, rfl⟩
  have hpq (i : Fin 6) : q.ptrs[i] = p.ptrs[i].homedIf p.working c.inDip i := by
    rw [← hcw.1, ← hcw.2, ← d2 i, c1]
  refine ⟨?_, ?_, fun i => ?_, fun i => ?_, fun i => ?_, fun hn => ?_, ?_, hm, hst⟩
  · have hk : q.panel.stack = p.panel.stack ∧ q.chime = p.chime ∧ q.ctl.proving = p.ctl.proving ∧
        q.conv = { p.conv with pos := 0, busy := none, sref := true } ∧ q.pulse = Vector.ofFn (fun i =>
          { p.pulse[i] with start := p.free, len := windowLength p.working i, win := Edges.none, next := Edges.none }) ∧
        q.sw = p.sw.map fun x => { x with count := 0, taken := false } := by
      rw [hq]
      exact ⟨rfl, rfl, rfl, rfl, rfl, rfl⟩
    obtain ⟨k1, k2, k3, k4, k5, k6⟩ := hk
    have hf : p.lampU = { p.lampU with frozen := false } := by rw [← h.frozen]
    dsimp only
    rw [k1, k2, k3, k4, k5, k6, hi]
    refine Eq.trans hq ?_
    rw [hf]
    rfl
  · rw [hq, hi]
  · rw [hq]
    simp
  · rw [hq]
    simp
  · rw [hpq i, hi, Ptr.homedIf]
    obtain ⟨e1, e2, e3, e4⟩ := h.ptrs i
    by_cases hu : ptrUsed p.working i = true
    · rw [if_pos hu, hu]
      exact ⟨rfl, rfl, rfl, rfl, rfl⟩
    · rw [if_neg hu, Bool.eq_false_iff.2 hu]
      exact ⟨e1, rfl, e2, e3, e4⟩
  · rw [hi] at hn
    cases hn
  · have hc : q.chime = Chime.reset := by rw [hq]; exact h.chime
    rw [chimeIsReset, hc]
    exact ⟨rfl, .inl rfl⟩

theorem startingBegun_begun (h : Restarted p) (hi : p.ign.on = true) : Begun p (startingBegun p) := by
  have hu0 := unitsStart_eq p
  have hm0 : (unitsStart p).mem = p.mem := mem_congr (by rw [hu0]) (by rw [hu0])
  have hs := setOp_entered .starting (p := unitsStart p) (hm0 ▸ h.wf)
  have hk := noticeStands_controlClosed .state
  have hst : NoticeStands .state (startingBegun p).mem :=
    composeLamps_closed (P := fun q => NoticeStands .state q.mem) hk.toLampClosed
      (forEach_closed (P := fun q => NoticeStands .state q.mem) (fun i _ hq => startPtr_closed hk i hq) _
        (toStartPage_closed (P := fun q => NoticeStands .state q.mem) hk.toLampClosed hs.state))
  have hsm := hs.mem
  rw [hm0] at hsm
  have hc := startingOp hs
  have hcm := toStartPage_memory (setOp .starting (unitsStart p))
  rw [startingBegun] at hst ⊢
  generalize setOp .starting (unitsStart p) = u at hst hsm hc hcm
  rw [← hcm] at hsm
  generalize toStartPage u = c at hst hsm hc hcm
  have hp : c.ptrs = p.ptrs := by rw [hc]
  obtain ⟨d1, d2, d3⟩ := startPtrs_told (p := c) (fun i => by rw [hp]; exact (h.ptrs i).1) hsm.1
  generalize forEach allPtrs startPtr c = d at hst d1 d2 d3
  obtain ⟨c1, -⟩ := composeLamps_told d
  have hmq := (hsm.trans d3).composeLamps
  have hr (W : BitVec 6) (F : Prop) := LampsReset.composeLamps (warnings := W) (faulty := F) (p := d)
  generalize composeLamps d = q at c1 hmq hst hr
  refine ⟨starting_entered h hi hc d1 d2 c1 hmq hst, ?_, ?_, fun W F hW => hr W F (LampsReset.beside hW ?_ ?_ ?_ ?_ ?_ (hsm.trans d3).1)⟩
  · rw [c1, d1, hc]
    exact h.chime
  · rw [c1, d1, hc]
  all_goals rw [d1, hc]

end Sys2Proof.Machine
end

section
namespace Sys2Proof.Machine

variable {b p q r : Part} {warnings : BitVec 6} {faulty : Prop}

/-! ### The START cycle that begins at once (R42, R56) -/

/-- The modes of a cycle that has just begun are composed, its test tone still to begin. -/
def cycleComposed (kind : ProvingKind) (p : Part) : Part :=
  composeLamps (setCtl (fun k => { k with proving := some (cycleOf kind p.working) }) (retryShorts p))

/-- What becomes of a part whose chime is at rest, as the cycle begins. -/
theorem cycleComposed_rest (kind : ProvingKind) (hc : p.chime = Chime.reset) (hm : Memory.wf p.mem = true) :
    (cycleComposed kind p).chime = Chime.reset ∧ RecordWrites p.mem (cycleComposed kind p).mem ∧
      (cycleComposed kind p).ctl.proving = some (cycleOf kind p.working) := by
  obtain ⟨h1, h2⟩ := retryShorts_chime hc hm
  rw [cycleComposed]
  generalize retryShorts p = q at h1 h2
  have hm' : (setCtl (fun k => { k with proving := some (cycleOf kind p.working) }) q).mem = q.mem := mem_congr rfl rfl
  have hf : setCtl (fun k => { k with proving := some (cycleOf kind p.working) }) q =
      { q with ctl := { q.ctl with proving := some (cycleOf kind p.working) } } := by rw [setCtl]
  generalize setCtl (fun k => { k with proving := some (cycleOf kind p.working) }) q = r at hm' hf
  have h3 := (hm'.symm ▸ h2 : RecordWrites p.mem r.mem).composeLamps
  have hl := (composeLamps_told r).1
  generalize composeLamps r = t at h3 hl
  refine ⟨?_, h3, ?_⟩
  · rw [hl, hf]
    exact h1
  · rw [hl, hf]

theorem LampsReset.cycleComposed (kind : ProvingKind) (h : LampsReset warnings faulty p ∧ WarningsShown warnings faulty p) :
    LampsReset warnings faulty (cycleComposed kind p) ∧ WarningsShown warnings faulty (cycleComposed kind p) := by
  have h1 := h.1.retryShorts h.2
  rw [Machine.cycleComposed]
  generalize Machine.retryShorts p = q at h1
  have hm : (setCtl (fun k => { k with proving := some (cycleOf kind p.working) }) q).mem = q.mem := mem_congr rfl rfl
  exact LampsReset.composeLamps (LampsReset.beside h1 rfl rfl rfl rfl rfl (hm ▸ h1.1.mem))

theorem cycleComposed_working (kind : ProvingKind) (p : Part) : (cycleComposed kind p).working = p.working := by
  have h1 := (retryShorts_told p).1.same.1
  have h2 := (composeLamps_told (setCtl (fun k => { k with proving := some (cycleOf kind p.working) }) (retryShorts p))).1
  rw [cycleComposed, h2]
  exact h1

theorem startTestTone_mem (p : Part) : (startTestTone p).mem = p.mem := mem_congr rfl rfl

theorem startTestTone_beside (p : Part) : (startTestTone p).chime = { p.chime with test := some toneTime, testMuted := false } ∧
    (startTestTone p).lamps = p.lamps ∧ (startTestTone p).panel = p.panel := ⟨rfl, rfl, rfl⟩

theorem provingStart_rest {kind : ProvingKind} (h : kind = .start → sweepers p.working = []) (hc : p.chime = Chime.reset)
    (hm : Memory.wf p.mem = true) : provingStart kind p = startTestTone (cycleComposed kind p) := by
  obtain ⟨h1, -, h2⟩ := cycleComposed_rest kind hc hm
  have hs : chimeSync (cycleComposed kind p) = cycleComposed kind p := by
    refine chimeSync_of_deferred (by rw [h1]; rfl) ?_
    simp [chimeServes, h2]
  rw [provingStart_unswept h, ← cycleComposed, hs]

theorem sweepers_of_unused {w : Mem} (h : ∀ i : Fin 6, ptrUsed w i = false) : sweepers w = [] := by
  rw [sweepers, List.filter_eq_nil_iff]
  intro i _
  simp [h i]

/-! ### The state entered -/

theorem Begun.state (h : Begun p q) (hi : p.ign.on = true) : q.ctl.op = .starting := by
  rw [h.entered.frame, hi]
  rfl

theorem Begun.homing (h : Begun p q) (hi : p.ign.on = true) : anyHoming q = true ↔ ∃ i : Fin 6, ptrUsed p.working i = true := by
  have hw : q.working = p.working := by rw [h.entered.frame]
  have hs (i : Fin 6) : q.ptrs[i].state = if ptrUsed p.working i then .homing else .released := by
    obtain ⟨-, -, -, -, e⟩ := h.entered.ptrs i
    rw [hi] at e
    exact e
  simp only [anyHoming, hw, List.any_eq_true, Bool.and_eq_true, beq_iff_eq]
  exact ⟨fun ⟨i, _, hu, _⟩ => ⟨i, hu⟩, fun ⟨i, hu⟩ => ⟨i, List.mem_finRange i, hu, by rw [hs i, if_pos hu]⟩⟩

/-- With a used pointer, or with a cycle already there, none begins. -/
theorem startIfHomed_waits (h : Begun p q) (hi : p.ign.on = true) (hn : ¬ ((∀ i : Fin 6, ptrUsed p.working i = false) ∧ p.ctl.proving = none)) :
    RestartEntered p (startIfHomed q) := by
  have hc : (q.ctl.op == .starting && q.ctl.proving.isNone && !anyHoming q) = false := by
    rw [h.proving, Bool.eq_false_iff]
    intro hb
    obtain ⟨hb, ha⟩ := Bool.and_eq_true_iff.1 hb
    obtain ⟨-, hp⟩ := Bool.and_eq_true_iff.1 hb
    refine hn ⟨fun i => ?_, Option.isNone_iff_eq_none.1 hp⟩
    by_contra hu
    rw [(h.homing hi).2 ⟨i, by simpa using hu⟩] at ha
    cases ha
  rw [startIfHomed, hc, onlyIf_false]
  have hw : q.working = p.working := by rw [h.entered.frame]
  refine ⟨h.entered, fun W F hW => hw ▸ LampsReset.afresh (h.reset W F hW), fun hp => ?_⟩
  rw [startCycleAtOnce, h.proving, hp]
  exact ⟨fun hx => absurd ⟨hx.2, hp⟩ hn, fun _ => rfl⟩

theorem StateEntered.proved (h : StateEntered p q) (hi : p.ign.on = true)
    (hf : r = { q with
      exch := r.exch, arb := r.arb, lamps := r.lamps, chime := r.chime, panel := { q.panel with stack := r.panel.stack }
      ctl := { q.ctl with proving := some (cycleOf .start q.working) } })
    (hc : r.chime = { Chime.reset with test := some toneTime }) (hm : RecordWrites q.mem r.mem) (hst : NoticeStands .state r.mem) :
    StateEntered p r := by
  have hk : r.conv = q.conv ∧ r.pulse = q.pulse ∧ r.sw = q.sw ∧ r.ptrs = q.ptrs ∧ r.ctl.proving = some (cycleOf .start q.working) := by
    rw [hf]
    exact ⟨rfl, rfl, rfl, rfl, rfl⟩
  obtain ⟨k1, k2, k3, k4, k5⟩ := hk
  refine ⟨?_, by rw [k1]; exact h.conv, by rw [k2]; exact h.pulse, by rw [k3]; exact h.sw, by rw [k4]; exact h.ptrs, fun hn => ?_, ?_,
    h.mem.trans hm, hst⟩
  · have hp : r.panel = { q.panel with stack := r.panel.stack } := by rw [hf]
    rw [k1, k2, k3, k4, k5, hp]
    refine Eq.trans hf ?_
    rw [hp, h.frame]
  · rw [hi] at hn
    cases hn
  · rw [chimeIsReset, hc, k5]
    exact ⟨rfl, .inr ⟨rfl, rfl⟩⟩

/-- With no used pointer the START cycle begins at once. -/
theorem startIfHomed_begins (h : Begun p q) (hi : p.ign.on = true) (hu : ∀ i : Fin 6, ptrUsed p.working i = false) (hp : p.ctl.proving = none) :
    RestartEntered p (startIfHomed q) := by
  have hc : (q.ctl.op == .starting && q.ctl.proving.isNone && !anyHoming q) = true := by
    have ha : anyHoming q = false := Bool.eq_false_iff.2 fun ha => by
      obtain ⟨i, hx⟩ := (h.homing hi).1 ha
      rw [hu i] at hx
      cases hx
    rw [h.state hi, h.proving, hp, ha]
    rfl
  rw [startIfHomed, hc, onlyIf_true]
  have hw : q.working = p.working := by rw [h.entered.frame]
  have hs : ProvingKind.start = .start → sweepers q.working = [] := fun _ => sweepers_of_unused (hw ▸ hu)
  have hr := provingStart_rest hs h.chime h.entered.mem.1
  obtain ⟨t1, t2, -, -⟩ := provingStart_told hs
  obtain ⟨r1, r2, -⟩ := cycleComposed_rest .start h.chime h.entered.mem.1
  have hst : NoticeStands .state (provingStart .start q).mem :=
    provingStart_closed (P := fun q => NoticeStands .state q.mem) (noticeStands_controlClosed .state) .start h.entered.state
  have hx (W : BitVec 6) (F : Prop) := LampsReset.cycleComposed (warnings := W) (faulty := F) (p := q) .start
  have hz := startTestTone_mem (cycleComposed .start q)
  obtain ⟨hch, hl⟩ := startTestTone_beside (cycleComposed .start q)
  rw [← hr] at hz hch hl
  rw [r1] at hch
  rw [← hz] at r2
  have hwc := cycleComposed_working .start q
  generalize provingStart .start q = z at t1 hst hz hch hl r2
  generalize cycleComposed .start q = y at hx hl hwc
  refine ⟨h.entered.proved hi t1 hch r2 hst, fun W F hW => ?_, fun _ => ?_⟩
  · exact LampsAfresh.beside (hw ▸ hwc ▸ LampsReset.afresh (hx W F (h.reset W F hW))) hl.1 (by rw [hl.2])
  · have hz : z.ctl.op = .starting ∧ z.ctl.proving = some (cycleOf .start p.working) := by
      rw [t1, ← hw]
      exact ⟨h.state hi, rfl⟩
    rw [startCycleAtOnce, hz.1, hz.2]
    exact ⟨fun _ => rfl, fun hn => absurd ⟨rfl, hu⟩ hn⟩

/-- R56: the state that a restart enters. -/
theorem restartState_entered (h : Restarted p) : RestartEntered p (restartState p) := by
  cases hi : p.ign.on with
  | false => exact restartState_park h hi
  | true =>
    have hb := startingBegun_begun h hi
    have hs : chimeSync (startingBegun p) = startingBegun p :=
      chimeSync_of_deferred (by rw [hb.chime]; rfl) (by simp [chimeServes, hb.state hi])
    rw [restartState_starting hi, hs]
    by_cases hn : (∀ i : Fin 6, ptrUsed p.working i = false) ∧ p.ctl.proving = none
    · exact startIfHomed_begins hb hi hn.1 hn.2
    · exact startIfHomed_waits hb hi hn

end Sys2Proof.Machine
end

section
namespace Sys2Proof.Machine

variable {b p q r : Part}

/-! ## The slots are answered (R27) -/

/-- What a restart's end makes of a request slot: from the memory `m` to `n`, `kept` holding the RESTART slots. -/
def SlotSettled (kept : List (Fin 8)) (m n : Mem) (i : Fin 8) : Prop :=
  let a := 0xC0 + 32 * i.val
  let st := memRead m a
  (i ∈ kept → st = 1 ∨ st = 2 → memReadN n a 4 = [3, memRead m (a + 1), memRead m (a + 2), 0]) ∧
  (i ∉ kept → st = 2 → memReadN n a 4 = [3, memRead m (a + 1), memRead m (a + 2), 0x0B]) ∧
  (st ≠ 2 → (i ∉ kept ∨ st ≠ 1) → memReadN n a 32 = memReadN m a 32)

/-- The slot's bytes are alike. -/
def SameSlot (m n : Mem) (i : Fin 8) : Prop := ∀ k, inRecord (0xC0 + 32 * i.val) 32 k → memRead n k = memRead m k

theorem SameSlot.readN {m n : Mem} {i : Fin 8} (h : SameSlot m n i) {k : Nat} (hk : k ≤ 32) :
    memReadN n (0xC0 + 32 * i.val) k = memReadN m (0xC0 + 32 * i.val) k :=
  memReadN_congr fun j hj => h j (by simp only [inRecord] at hj ⊢; omega)

theorem SlotSettled.after {kept : List (Fin 8)} {m n o : Mem} {i : Fin 8} (h : SlotSettled kept m n i) (hs : SameSlot n o i) :
    SlotSettled kept m o i := by
  obtain ⟨h1, h2, h3⟩ := h
  refine ⟨fun hi hx => (hs.readN (by omega)).trans (h1 hi hx), fun hi hx => (hs.readN (by omega)).trans (h2 hi hx),
    fun hx hi => (hs.readN (by omega)).trans (h3 hx hi)⟩

theorem SlotSettled.before {kept : List (Fin 8)} {m n o : Mem} {i : Fin 8} (hs : SameSlot m n i) (h : SlotSettled kept n o i) :
    SlotSettled kept m o i := by
  have e (d : Nat) (hd : d < 32) : memRead n (0xC0 + 32 * i.val + d) = memRead m (0xC0 + 32 * i.val + d) :=
    hs _ (by simp only [inRecord]; omega)
  have e0 := e 0 (by omega)
  rw [Nat.add_zero] at e0
  obtain ⟨h1, h2, h3⟩ := h
  rw [e0, e 1 (by omega), e 2 (by omega)] at h1 h2
  rw [e0] at h3
  exact ⟨h1, h2, fun hx hi => (h3 hx hi).trans (hs.readN (by omega))⟩

theorem SlotSettled.idle {kept : List (Fin 8)} {m : Mem} {i : Fin 8} (hi : i ∉ kept) (hs : memRead m (0xC0 + 32 * i.val) ≠ 2) :
    SlotSettled kept m m i := ⟨fun hx => absurd hx hi, fun _ hx => absurd hx hs, fun _ _ => rfl⟩

/-- The bytes outside the slot `i` and the notice word are alike. -/
def SlotWrites (i : Fin 8) (m n : Mem) : Prop :=
  Memory.wf n = true ∧ agreeOutside (fun k => noticeByte k ∨ inRecord (0xC0 + 32 * i.val) 32 k) m n

/-- R27: an answer from the slot as it stands. -/
theorem answerAsItStands_slot (i : Fin 8) (status : Byte) (hm : Memory.wf p.mem = true) :
    SlotWrites i p.mem (answerAsItStands i status p).mem ∧
    (memRead p.mem (0xC0 + 32 * i.val) = 1 ∨ memRead p.mem (0xC0 + 32 * i.val) = 2 →
      memReadN (answerAsItStands i status p).mem (0xC0 + 32 * i.val) 4 =
        [3, memRead p.mem (0xC0 + 32 * i.val + 1), memRead p.mem (0xC0 + 32 * i.val + 2), status]) ∧
    (memRead p.mem (0xC0 + 32 * i.val) ≠ 1 → memRead p.mem (0xC0 + 32 * i.val) ≠ 2 → (answerAsItStands i status p).mem = p.mem) := by
  have hl : (slotBytes p.mem i).length = 32 := memReadN_length _ _ _
  have hq : (answerAsItStands i status p).mem = (RecordAccess.answer i (answerBytes (slotBytes p.mem i) [] status)).effect p.mem := request_mem _ _
  have hb : (answerBytes (slotBytes p.mem i) [] status).length = 32 := answerBytes_length status hl (by simp)
  rw [hq]
  by_cases h : memRead p.mem (0xC0 + 32 * i.val) = 1 ∨ memRead p.mem (0xC0 + 32 * i.val) = 2
  · obtain ⟨hr, -, ho⟩ := answer_effect (bs := answerBytes (slotBytes p.mem i) [] status) hm (answerable_iff.2 h)
    rw [hb] at hr ho
    obtain ⟨h1, -, -⟩ := answered_fields hl (by simp) hr
    refine ⟨⟨effect_wf _ _ hm, ho⟩, fun _ => h1.trans ?_, fun h1 h2 => (h.elim h1 h2).elim⟩
    rfl
  · have he := answer_effect_withdrawn (answerBytes (slotBytes p.mem i) [] status) (Bool.eq_false_iff.2 fun hx => h (answerable_iff.1 hx))
    rw [he]
    exact ⟨⟨hm, .refl _ _⟩, fun hx => absurd hx h, fun _ _ => rfl⟩

theorem restartAnswer_only (i : Fin 8) (p : Part) : restartAnswer i p = { p with arb := (restartAnswer i p).arb } := by
  unfold restartAnswer
  split
  · rfl
  · split <;> rfl

/-- R27: one slot. -/
theorem restartAnswer_settled (i : Fin 8) (hm : Memory.wf p.mem = true) :
    SlotWrites i p.mem (restartAnswer i p).mem ∧ SlotSettled p.req.restartSlots p.mem (restartAnswer i p).mem i := by
  unfold restartAnswer
  split
  next hi =>
    obtain ⟨h1, h2, h3⟩ := answerAsItStands_slot i statusOk hm
    refine ⟨h1, fun _ => h2, fun hn => absurd hi hn, fun h4 h5 => ?_⟩
    rw [h3 (h5.resolve_left (· hi)) h4]
  next hi =>
    split
    next hs =>
      obtain ⟨h1, h2, -⟩ := answerAsItStands_slot i aborted hm
      exact ⟨h1, fun hx => absurd hx hi, fun _ hx => h2 (.inr hx), fun hx => absurd hs hx⟩
    next hs => exact ⟨⟨hm, .refl _ _⟩, .idle hi hs⟩

/-- The bytes outside the slots and the notice word are alike. -/
def SlotsWritten (m n : Mem) : Prop := Memory.wf n = true ∧ agreeOutside (fun k => noticeByte k ∨ slotByte k) m n

/-- An answer to one slot leaves the others. -/
theorem SlotWrites.others {m n : Mem} {i j : Fin 8} (h : SlotWrites i m n) (hj : j ≠ i) : SameSlot m n j := fun k hk => h.2 k fun hx => by
  have hv : j.val ≠ i.val := fun e => hj (Fin.ext e)
  simp only [noticeByte_iff, inRecord] at hx hk
  omega

theorem SlotWrites.written {m n : Mem} {i : Fin 8} (h : SlotWrites i m n) : SlotsWritten m n := by
  refine ⟨h.1, h.2.mono fun k hk => hk.imp_right fun hr => ?_⟩
  simp only [inRecord] at hr
  rw [slotByte_iff]
  omega

/-- R27: the slots in order, none twice. -/
theorem forEach_restartAnswer {is : List (Fin 8)} (hn : is.Nodup) : ∀ {p : Part}, Memory.wf p.mem = true →
    forEach is restartAnswer p = { p with arb := (forEach is restartAnswer p).arb } ∧
      SlotsWritten p.mem (forEach is restartAnswer p).mem ∧
      (∀ i ∈ is, SlotSettled p.req.restartSlots p.mem (forEach is restartAnswer p).mem i) ∧
      ∀ i, i ∉ is → SameSlot p.mem (forEach is restartAnswer p).mem i := by
  induction is with
  | nil => exact fun hm => ⟨rfl, ⟨hm, .refl _ _⟩, nofun, fun _ _ _ _ => rfl⟩
  | cons i is ih =>
    intro p hm
    obtain ⟨hi, hn⟩ := List.nodup_cons.1 hn
    obtain ⟨w1, s1⟩ := restartAnswer_settled i hm
    have f1 := restartAnswer_only i p
    have he : forEach (i :: is) restartAnswer p = forEach is restartAnswer (restartAnswer i p) := rfl
    rw [he]
    generalize restartAnswer i p = q at w1 s1 f1
    obtain ⟨f2, w2, s2, o2⟩ := ih hn w1.1
    generalize forEach is restartAnswer q = r at f2 w2 s2 o2
    have hr : q.req = p.req := by rw [f1]
    refine ⟨Eq.trans f2 (by rw [f1]), ⟨w2.1, w1.written.2.trans w2.2⟩, fun j hj => ?_, fun j hj k hk => ?_⟩
    · rcases List.mem_cons.1 hj with e | hj
      · subst e
        exact s1.after (o2 _ hi)
      · rw [hr] at s2
        exact (s2 j hj).before (w1.others fun e => hi (e ▸ hj))
    · obtain ⟨hji, hj⟩ := not_or.1 (mt List.mem_cons.2 hj)
      exact (o2 j hj k hk).trans (w1.others hji k hk)

/-- The slots answered, and everything granted. -/
structure Answered (p q : Part) : Prop where
  frame : q = { p with exch := q.exch, arb := q.arb, req := { p.req with restartSlots := [] } }
  waiting : q.arb.waiting = []
  written : SlotsWritten p.mem q.mem
  slots : ∀ i : Fin 8, SlotSettled p.req.restartSlots p.mem q.mem i
  notices : ∀ n, NoticeStands n p.mem → NoticeStands n q.mem

theorem restartAnswers_answered (hm : Memory.wf p.mem = true) : Answered p (restartAnswers p).grantAll := by
  obtain ⟨h1, h2, h3, -⟩ := forEach_restartAnswer (List.nodup_finRange 8) hm
  have he : restartAnswers p = setReq (fun r => { r with restartSlots := [] }) (forEach allSlots restartAnswer p) := rfl
  have hs : List.finRange 8 = allSlots := rfl
  have hn (n : Notice) (h : NoticeStands n p.mem) : NoticeStands n (restartAnswers p).grantAll.mem := by
    have hr : NoticeStands n (restartAnswers p).mem := restartAnswers_closed (P := fun q => NoticeStands n q.mem) (noticeStands_controlClosed n) h
    rwa [Part.grantAll_mem]
  rw [hs] at h1 h2 h3
  rw [he] at hn ⊢
  generalize forEach allSlots restartAnswer p = q at h1 h2 h3 hn
  have hq : (setReq (fun r => { r with restartSlots := [] }) q).grantAll.mem = q.mem := (Part.grantAll_mem _).trans (mem_congr rfl rfl)
  refine ⟨?_, ?_, by rw [hq]; exact h2, fun i => by rw [hq]; exact h3 i (List.mem_finRange i), hn⟩
  · rw [grantAll_eq, setReq, h1]
  · rw [grantAll_eq]

end Sys2Proof.Machine
end

section
namespace Sys2Proof.Machine

variable {p b x y t : Part} {cause : Cause} {dip : Bool}

/-! ## A restart ends (R56) -/

/-- R51, R54, R35: the samples taken. -/
structure Sampled (strap ign : Bool) (now : Word) (p q : Part) : Prop where
  frame : q = { p with free := now, ign := { on := ign, count := 0 }, ctl := { p.ctl with strap := strap, supply := .normal, settle := none } }
  mem : q.mem = p.mem

theorem takeSamples_sampled (strap ign : Bool) (now : Word) (p : Part) : Sampled strap ign now p (takeSamples strap ign now p) :=
  ⟨by rw [takeSamples, setCtl, setIgn], mem_congr rfl rfl⟩

/-- The end of a restart from `p`, its samples taken, to `t`, by way of `b`, the blocks reset, and `y`, the state entered. -/
structure RestartPath (cause : Cause) (dip : Bool) (p b x y t : Part) : Prop where
  values : ValuesTaken cause p b
  supplied : Resupplied dip b x
  entered : RestartEntered x y
  answered : Answered y t

theorem ValuesTaken.restarted (h : ValuesTaken cause p b) (hx : Resupplied dip b x) : Restarted x where
  chime := by rw [hx.frame, h.frame]
  ptrs i := by
    have hp : x.ptrs[i] = b.ptrs[i] := by rw [hx.frame]
    rw [hp, h.ptrs i]
    exact ⟨rfl, rfl, rfl, rfl⟩
  conv := by
    rw [hx.frame, h.frame]
    exact ⟨rfl, rfl, rfl⟩
  page := by
    rw [hx.frame, h.frame]
    rfl
  frozen := by rw [hx.frame, h.frame]
  wf := hx.mem.1

theorem restartPath (dip : Bool) (hr : p.ctl.restart.isSome) (hs : p.ctl.supply = .normal ∧ p.ctl.settle = none) (hm : Memory.wf p.mem = true) :
    ∃ b x y, RestartPath cause dip p b x y
      (restartAnswers (restartState (onlyIf dip dipStart (restartValues cause p)))).grantAll := by
  have hb := blocksReset_taken cause hr hm
  have he : restartValues cause p = restartOver (blocksReset cause p) := restartValues_blocks cause p
  rw [he]
  generalize blocksReset cause p = b at hb
  have hc : b.ctl = p.ctl ∧ b.chime = Chime.reset := by
    rw [hb.frame]
    exact ⟨rfl, rfl⟩
  have hx := restartOver_supplied dip (hc.1 ▸ hs) hc.2 hb.chans (fun i => by rw [hb.ptrs i]; rfl) hb.mem.1
  generalize onlyIf dip dipStart (restartOver b) = x at hx
  have hy := restartState_entered (hb.restarted hx)
  generalize restartState x = y at hy
  exact ⟨b, x, y, hb, hx, hy, restartAnswers_answered hy.entered.mem.1⟩

/-! ### What the way through leaves, and what it makes of the units -/

/-- What the answers leave of the state entered. -/
theorem Answered.same (h : Answered y t) : t.conv = y.conv ∧ t.pulse = y.pulse ∧ t.sw = y.sw ∧ t.ptrs = y.ptrs ∧ t.lamps = y.lamps ∧
    t.chime = y.chime ∧ t.ctl = y.ctl ∧ t.panel = y.panel ∧ t.lampU = y.lampU := by
  rw [h.frame]
  exact ⟨rfl, rfl, rfl, rfl, rfl, rfl, rfl, rfl, rfl⟩

section
variable (h : RestartPath cause dip p b x y t)
include h

theorem RestartPath.found : x.working = p.working ∧ x.ign = p.ign ∧ x.ctl.proving = p.ctl.proving ∧ x.lamps = b.lamps ∧ x.ptrs = b.ptrs ∧
    x.acct = b.acct ∧ x.jour = b.jour ∧ x.chans = b.chans ∧ x.lampU = b.lampU ∧ x.chime = b.chime ∧ x.panel = b.panel := by
  rw [h.supplied.frame, h.values.frame]
  exact ⟨rfl, rfl, rfl, rfl, rfl, rfl, rfl, rfl, rfl, rfl, rfl⟩

theorem RestartPath.aside : t.link = p.link ∧ t.working = p.working ∧ t.free = p.free ∧ t.ign = p.ign ∧ t.chans = b.chans ∧ t.acct = b.acct ∧
    t.jour = b.jour := by
  rw [h.answered.frame, h.entered.entered.frame, h.supplied.frame, h.values.frame]
  exact ⟨rfl, rfl, rfl, rfl, rfl, rfl, rfl⟩

theorem RestartPath.control : t.ctl = { p.ctl with
    op := if p.ign.on then .starting else .park, restart := none, supply := if dip then .dip else .normal, settle := none
    proving := t.ctl.proving } := by
  obtain ⟨-, -, -, -, -, -, hc, -, -⟩ := h.answered.same
  rw [hc, h.entered.entered.frame, h.supplied.frame, h.values.frame]
  rfl

theorem RestartPath.request : t.req.restartSlots = [] ∧ t.req.scanTimer = some (if p.ign.on then scanPeriodOf p.working else 1000) ∧
    t.req.seen = Vector.ofFn fun (i : Fin 16) => memRead b.mem (inboxAddr i) := by
  have hb : b.working = p.working ∧ b.ign = p.ign := by
    rw [h.values.frame]
    exact ⟨rfl, rfl⟩
  rw [h.answered.frame, h.entered.entered.frame, h.supplied.frame, hb.1, hb.2]
  exact ⟨rfl, rfl, rfl⟩

theorem RestartPath.kept : y.req.restartSlots = p.req.restartSlots := by
  rw [h.entered.entered.frame, h.supplied.frame, h.values.frame]
  rfl

/-! ### The measuring units and the pointers -/

theorem RestartPath.inputs : t.conv = { pos := 0, busy := none, codes := Vector.replicate 8 0, sref := p.ign.on } ∧
    (∀ i : Fin 4, t.pulse[i].freq = 0 ∧ t.pulse[i].tref = none ∧ t.pulse[i].lastEdge = none) ∧
    ∀ i : Fin 8, t.sw[i] = { raw := false, deb := false, taken := false, count := 0 } := by
  obtain ⟨h1, h2, h3, -⟩ := h.answered.same
  have hx : x.conv.codes = Vector.replicate 8 0 ∧ x.pulse = Vector.replicate 4 PulseIn.reset ∧ x.sw = Vector.replicate 8 Switch.reset ∧
      x.ign = p.ign := by
    rw [h.supplied.frame, h.values.frame]
    exact ⟨rfl, rfl, rfl, rfl⟩
  obtain ⟨x1, x2, x3, x4⟩ := hx
  rw [h1, h2, h3]
  refine ⟨by rw [h.entered.entered.conv, x1, x4], fun i => ?_, fun i => ?_⟩
  · have hp : x.pulse[i] = PulseIn.reset := by
      rw [x2]
      simp
    have he := h.entered.entered.pulse i
    rw [hp] at he
    exact he
  · have hs : x.sw[i] = Switch.reset := by
      rw [x3]
      simp
    have he := h.entered.entered.sw i
    rw [hs] at he
    obtain ⟨e1, e2, e3, e4⟩ := he
    have hy : y.sw[i] = { raw := y.sw[i].raw, deb := y.sw[i].deb, taken := y.sw[i].taken, count := y.sw[i].count } := rfl
    rw [hy, e1, e2, e3 rfl, e4 rfl]
    rfl

theorem RestartPath.pointers (i : Fin 6) : t.ptrs[i].homeNeeded = true ∧ t.ptrs[i].pos = 0 ∧ t.ptrs[i].target = 0 ∧ t.ptrs[i].speed = 0 ∧
    t.ptrs[i].state = if p.ign.on && ptrUsed p.working i then .homing else .released := by
  obtain ⟨-, -, -, h4, -⟩ := h.answered.same
  obtain ⟨x1, x2, -, -, x5, -⟩ := h.found
  obtain ⟨e1, e2, e3, e4, e5⟩ := h.entered.entered.ptrs i
  have hp : x.ptrs[i].pos = 0 := by
    rw [x5, h.values.ptrs i]
    rfl
  rw [h4]
  rw [x1, x2] at e5
  exact ⟨e1, e2.trans hp, e3, e4, e5⟩

/-! ### The lamps, the chime and the panel -/

theorem RestartPath.lampUnit : t.lampU.slowLit = true ∧ t.lampU.fastLit = true ∧ (t.lampU.frozen = !p.ign.on) ∧
    t.lampU.warn = t.acct.warnings ∧ t.panel.basePage = startPage p.working := by
  obtain ⟨-, -, -, -, -, ha, -⟩ := h.aside
  obtain ⟨-, -, -, -, -, -, -, h8, h9⟩ := h.answered.same
  rw [ha, h8, h9, h.entered.entered.frame, h.supplied.frame]
  have hb : b.lampU = { p.lampU with slowLit := true, fastLit := true, frozen := false, warn := b.acct.warnings, dim := b.lampU.dim } ∧
      b.ign = p.ign ∧ b.working = p.working := by
    rw [h.values.frame]
    exact ⟨rfl, rfl, rfl⟩
  rw [hb.1, hb.2.1, hb.2.2]
  exact ⟨rfl, rfl, rfl, rfl, rfl⟩

theorem RestartPath.counts (hi : p.ign.on = false) (i : Fin 32) : t.lamps[i].diag = p.lamps[i].diag ∧
    (t.lamps[i].lowCount = p.lamps[i].lowCount ∨ t.lamps[i].mode ≠ .unlit ∧ t.lamps[i].lowCount = 0) := by
  obtain ⟨-, -, -, -, h5, -⟩ := h.answered.same
  obtain ⟨-, x2, -, x4, -⟩ := h.found
  have he := h.entered.entered.lamps (x2 ▸ hi) i
  obtain ⟨v1, v2⟩ := h.values.lamps i
  rw [x4, v1, v2] at he
  rw [h5]
  exact he

theorem RestartPath.afresh (hx : lampChansExist p.working) : LampsAfresh p.working t.acct.warnings (anyFault p) t := by
  obtain ⟨-, -, -, -, -, ha, -⟩ := h.aside
  obtain ⟨-, -, -, -, h5, -, -, h8, -⟩ := h.answered.same
  obtain ⟨x1, -, -, x4, -, -, -, -, x9, x10, x11⟩ := h.found
  have hb : b.working = p.working := by rw [h.values.frame]; rfl
  have hr := LampsReset.beside (h.values.reset hx) (x1.trans hb.symm) x10 (by rw [x11]) (by rw [x9]) x4 h.supplied.mem.1
  have he := h.entered.reset _ _ hr
  rw [x1] at he
  rw [ha]
  exact he.beside h5 (by rw [h8])

theorem RestartPath.chime : chimeIsReset t := by
  obtain ⟨-, -, -, -, -, h6, h7, -, -⟩ := h.answered.same
  rw [chimeIsReset, h6, h7]
  exact h.entered.entered.chime

theorem RestartPath.cycle (hp : p.ctl.proving = none) : startCycleAtOnce p.working t := by
  obtain ⟨-, -, -, -, -, -, h7, -, -⟩ := h.answered.same
  obtain ⟨x1, -, x3, -⟩ := h.found
  have hc := h.entered.cycle (x3.trans hp)
  rw [x1] at hc
  rw [startCycleAtOnce, h7]
  exact hc

/-! ### The memory -/

/-- What is written up to the answers. -/
theorem RestartPath.records : OwnWrites p.mem y.mem := h.values.mem.trans (h.supplied.mem.trans h.entered.entered.mem).own

theorem RestartPath.agree : agreeOutside (fun k => partByte k ∨ slotByte k) p.mem t.mem :=
  (h.records.2.mono fun _ hk => .inl hk).trans (h.answered.written.2.mono fun k hk => hk.imp_left fun hn => by
    simp only [noticeByte_iff] at hn
    rw [partByte_iff]
    omega)

theorem RestartPath.slots (i : Fin 8) : SlotSettled p.req.restartSlots p.mem t.mem i := by
  have hs := h.answered.slots i
  rw [h.kept] at hs
  refine hs.before fun k hk => h.records.2 k ?_
  simp only [inRecord] at hk
  rw [partByte_iff]
  omega

theorem RestartPath.seen (i : Fin 16) : t.req.seen[i] = memRead p.mem (0x40 + 8 * i.val) := by
  have hk : memRead b.mem (0x40 + 8 * i.val) = memRead p.mem (0x40 + 8 * i.val) := h.values.mem.2 _ (by
    rw [partByte_iff]
    omega)
  obtain ⟨-, -, hs⟩ := h.request
  rw [hs, ← hk]
  simp [inboxAddr]

theorem RestartPath.journal : SameJournal ((restartEntries cause p.ctl.op p.acct t.acct).foldl (fun p e => submit e p) p) t := by
  obtain ⟨-, -, -, -, -, ha, hj⟩ := h.aside
  have hb := h.values.journal
  have hm := h.supplied.mem.trans h.entered.entered.mem
  rw [ha]
  refine hb.trans ⟨hj, by rw [ha]; exact ⟨rfl, rfl⟩, ⟨h.values.mem.1, h.answered.written.1⟩, fun k hk => ?_⟩
  simp only [inRecord] at hk
  rw [h.answered.written.2 k (by simp only [noticeByte_iff, slotByte_iff]; omega)]
  exact hm.2 k (by simp only [recordByte]; omega)

end

end Sys2Proof.Machine
end

section
namespace Sys2Proof.Machine

variable {p q t : Part} {cause : Cause}

/-! ### The statement -/

/-- The samples leave the Journal, and the clock that stamps its entries. -/
theorem Sampled.journal {strap ign : Bool} {now : Word} (h : Sampled strap ign now p q) (hm : Memory.wf p.mem = true) : SameJournal p q := by
  refine ⟨?_, ?_, ⟨hm, h.mem ▸ hm⟩, fun _ _ => by rw [h.mem]⟩
  · rw [h.frame]
  · rw [h.frame]
    exact ⟨rfl, rfl⟩

theorem Sampled.same {strap ign : Bool} {now : Word} (h : Sampled strap ign now p q) : q.link = p.link ∧ q.working = p.working ∧ q.free = now ∧
    q.ign = { on := ign, count := 0 } ∧ q.acct = p.acct ∧ q.req = p.req ∧ q.lamps = p.lamps ∧
    q.ctl = { p.ctl with strap := strap, supply := .normal, settle := none } := by
  rw [h.frame]
  exact ⟨rfl, rfl, rfl, rfl, rfl, rfl, rfl, rfl⟩

/-- R56: a restart whose causes have passed ends. -/
theorem restartEnd_passed (strap ign belowDip : Bool) (now : Word) (hr : p.ctl.restart = some cause) (hl : p.ctl.resetLine = false)
    (hs : p.ctl.supplyLow = false) : restartEnd strap ign belowDip now p = (restartAnswers (restartState (onlyIf belowDip dipStart
      (restartValues cause (takeSamples strap ign now p))))).grantAll := by
  have hc : causesPassed p = true := by rw [causesPassed, hl, hs]; rfl
  rw [restartEnd, hr]
  exact if_pos hc

theorem restartEnd_idx (strap ign belowDip : Bool) (now : Word) (p : Part) : (restartEnd strap ign belowDip now p).arb.idx = p.arb.idx := by
  obtain ⟨⟨h, -⟩, -⟩ := restartEnd_closed (granted_controlClosed p) strap ign belowDip now ⟨Granted.refl p, .inl rfl⟩
  exact h

/-- Settles O23: the blocks' restart values one after another, the state entered, and the slots answered. -/
theorem restartsEnd : Obligations.RestartsEnd := by
  intro s cause strap ign belowDip now hm hr hl hs _ _
  have hm := mem_wf s.toPart hm
  have hidx := restartEnd_idx strap ign belowDip now s.toPart
  refine ⟨{ s with toPart := restartEnd strap ign belowDip now s.toPart }, rfl, ?_⟩
  rw [restartEnd_passed strap ign belowDip now hr hl hs] at hidx ⊢
  have hp := takeSamples_sampled strap ign now s.toPart
  generalize takeSamples strap ign now s.toPart = p at hp hidx ⊢
  obtain ⟨p1, p2, p3, p4, p5, p6, p7, p8⟩ := hp.same
  have hpm := hp.mem
  obtain ⟨b, x, y, h⟩ := restartPath (cause := cause) belowDip (p := p) (by rw [p8]; exact Option.isSome_iff_exists.2 ⟨cause, hr⟩)
    (by rw [p8]; exact ⟨rfl, rfl⟩) (hpm ▸ hm)
  generalize (restartAnswers (restartState (onlyIf belowDip dipStart (restartValues cause p)))).grantAll = t at h hidx ⊢
  have hi : p.ign.on = ign := by rw [p4]
  have hf : anyFault p = anyFault s.toPart := anyFault_congr p2 fun j => by rw [p7]
  obtain ⟨a1, a2, a3, a4, a5, a6, -⟩ := h.aside
  obtain ⟨r1, r2, -⟩ := h.request
  obtain ⟨u1, u2, u3⟩ := h.inputs
  obtain ⟨l1, l2, l3, l4, l5⟩ := h.lampUnit
  have hc := h.control
  have hptr := h.pointers
  have hl := h.afresh
  have hcyc := h.cycle
  have hj := (((hp.journal hm).submits _).trans h.journal)
  have hslot := h.slots
  have hcount := h.counts
  have hseen := h.seen
  have hagree := h.agree
  have hk := h.values.kept
  have hclock := h.values.clock
  rw [p5] at hk hclock
  rw [p8, hi] at hc
  rw [p2, hi] at r2 hptr
  rw [p2, hf] at hl
  rw [p2, p8] at hcyc
  rw [hi] at u1 l3
  rw [p2] at l5
  rw [p5, p8] at hj
  rw [p6, hpm] at hslot
  rw [p7, hi] at hcount
  rw [hpm] at hseen hagree
  refine ⟨rfl, a1.trans p1, a2.trans p2, a3.trans p3, a4.trans p4, h.answered.waiting, hidx, hc, r1, r2, hseen, ?_, u1, u2, u3, hptr,
    l1, l2, l3, l4, hcount, hl, h.chime, hcyc, l5, ?_, ?_, ?_, ?_, ?_, ?_, ?_, ?_, hslot, hagree⟩
  · intro c
    rw [a5]
    exact h.values.chans c
  · rw [a6]
    exact h.values.moving
  · rw [a6]
    exact h.values.confirm
  · rw [a6]
    exact hclock.1
  · rw [a6]
    exact hclock.2
  · rw [a6]
    exact h.values.lost
  · rw [a6]
    exact hk
  · exact ⟨hj.jour, hj.bytes⟩
  · exact (h.answered.notices .state h.entered.entered.state).2

end Sys2Proof.Machine
end
